-- ==== Sys2Proof/Word.lean ====
section
/-! DEFINITION. The word types of the Skenak instruction set (spec R2, R49). -/

namespace Sys2Proof

/-- One byte of memory, of a queue packet or of a message. -/
abbrev Byte := BitVec 8

/-- A 32-bit value: an instruction word, one thread's element of a vector register, an accumulator element. -/
abbrev Word := BitVec 32

/-- A 64-bit value: a scalar register, an address, a special register. -/
abbrev DWord := BitVec 64

/-- A store of `w`-bit cells by number, in which a cell that is not listed holds 0. The operations of Machine/Map.lean keep it in
one form: numbers rising, no listed cell 0. `SMap 8` is a list of `Host.Cell`. -/
abbrev SMap (w : Nat) := List (Nat × BitVec w)

end Sys2Proof
end

