-- ==== Sys2Proof/Machine/Map.lean ====
section
/-! DEFINITION. The operations on stores of numbered cells (`SMap`), and the runs of bytes built from them. A store keeps one form, so
that equal contents are equal data. -/

namespace Sys2Proof.Machine

/-- What cell `k` holds: 0 where it is not listed. -/
def mget {w : Nat} (m : SMap w) (k : Nat) : BitVec w :=
  match m with
  | [] => 0
  | (j, v) :: r => if j = k then v else mget r k

/-- The store without cell `k`. -/
def mdrop {w : Nat} (m : SMap w) (k : Nat) : SMap w :=
  match m with
  | [] => []
  | (j, v) :: r => if j = k then mdrop r k else (j, v) :: mdrop r k

/-- The store with cell `k` put in front of the first larger number. -/
def minsert {w : Nat} (m : SMap w) (k : Nat) (x : BitVec w) : SMap w :=
  match m with
  | [] => [(k, x)]
  | (j, v) :: r => if k < j then (k, x) :: (j, v) :: r else (j, v) :: minsert r k x

/-- Writes cell `k`; a cell that is written 0 is no longer listed. -/
def mset {w : Nat} (m : SMap w) (k : Nat) (x : BitVec w) : SMap w :=
  if x = 0 then mdrop m k else minsert (mdrop m k) k x

/-- The canonical form: numbers rising, no listed cell 0. -/
abbrev mwf {w : Nat} (m : SMap w) : Prop :=
  m.Pairwise (fun p q => p.1 < q.1) ∧ ∀ p ∈ m, p.2 ≠ 0

/-- The contents of the `n` cells from `k` on. -/
def mgets {w : Nat} (m : SMap w) (k : Nat) : Nat → List (BitVec w)
  | 0 => []
  | n + 1 => mget m k :: mgets m (k + 1) n

/-- Writes cells from `k` on. -/
def msets {w : Nat} (m : SMap w) (k : Nat) : List (BitVec w) → SMap w
  | [] => m
  | x :: xs => msets (mset m k x) (k + 1) xs

/-- The store without the `n` cells from `k` on. -/
def mclear {w : Nat} (m : SMap w) (k n : Nat) : SMap w :=
  m.filter fun p => p.1 < k || k + n ≤ p.1

/-- The value of little-endian bytes (R2). -/
def ofBytes : List Byte → Nat
  | [] => 0
  | x :: xs => x.toNat + 256 * ofBytes xs

/-- The low `n` bytes of a value, little-endian (R2). -/
def toBytes (v : Nat) : Nat → List Byte
  | 0 => []
  | n + 1 => BitVec.ofNat 8 v :: toBytes (v / 256) n

/-- The least number below `fuel + n`, from `n` on, for which `p` holds. -/
def findFrom (p : Nat → Bool) (n : Nat) : Nat → Option Nat
  | 0 => none
  | fuel + 1 => if p n then some n else findFrom p (n + 1) fuel

/-- The first member for which `p` holds, replaced; the list unchanged where there is none. -/
def updFirst {α : Type} (p : α → Bool) (f : α → α) : List α → List α
  | [] => []
  | x :: xs => if p x then f x :: xs else x :: updFirst p f xs

end Sys2Proof.Machine
end

