-- ==== Sys2Proof/Machine/Bits.lean ====
section
/-! DEFINITION. Operations on bits that several families share: extension, counting, reversal, fields (R78-R79, R93, R129). -/

namespace Sys2Proof.Machine

/-- Bit `t` of a mask. -/
def tbit {w : Nat} (m : BitVec w) (t : Nat) : Bool := m.toNat.testBit t

/-- The value 0 or 1 of a flag. -/
def bitOf (x : Bool) : Nat := if x then 1 else 0

/-- The mask of the numbers below `n` for which `p` holds. -/
def maskOf (p : Nat → Bool) : Nat → Nat
  | 0 => 0
  | n + 1 => maskOf p n + (if p n then 2 ^ n else 0)

/-- The 32-bit mask of the threads for which `p` holds. -/
def threadMask (p : Nat → Bool) : Word := BitVec.ofNat 32 (maskOf p 32)

/-- How many of the low `n` bits of `x` are 1. -/
def popN (x : Nat) : Nat → Nat
  | 0 => 0
  | n + 1 => popN x n + bitOf (x.testBit n)

/-- The number of 1 bits. -/
def popcount {w : Nat} (x : BitVec w) : Nat := popN x.toNat w

/-- The number of zero bits above the highest 1 bit; the width for 0. -/
def clz {w : Nat} (x : BitVec w) : Nat := if x = 0 then w else w - 1 - Nat.log2 x.toNat

/-- The number of zero bits below the lowest 1 bit; the width for 0. -/
def ctz {w : Nat} (x : BitVec w) : Nat := (findFrom (fun i => x.toNat.testBit i) 0 w).getD w

/-- The bits in the opposite order. -/
def brev {w : Nat} (x : BitVec w) : BitVec w :=
  BitVec.ofNat w (maskOf (fun i => x.toNat.testBit (w - 1 - i)) w)

/-- Sign extension of a field to 64 bits. -/
def sx {w : Nat} (x : BitVec w) : DWord := x.signExtend 64

/-- Sign extension of a field to 32 bits. -/
def sx32 {w : Nat} (x : BitVec w) : Word := x.signExtend 32

/-- The shifts of R79: the amount is the whole operand, unsigned. -/
def shl {w : Nat} (x : BitVec w) (n : Nat) : BitVec w := if w ≤ n then 0 else x <<< n

/-- See `shl`. -/
def shr {w : Nat} (x : BitVec w) (n : Nat) : BitVec w := if w ≤ n then 0 else x >>> n

/-- See `shl`: an amount at or above the width gives the sign bit throughout. -/
def sra {w : Nat} (x : BitVec w) (n : Nat) : BitVec w := x.sshiftRight (min n w)

/-- The signed and the unsigned smaller and larger value. -/
def smin {w : Nat} (x y : BitVec w) : BitVec w := if x.slt y then x else y
/-- See `smin`. -/
def smax {w : Nat} (x y : BitVec w) : BitVec w := if x.slt y then y else x
/-- See `smin`. -/
def umin {w : Nat} (x y : BitVec w) : BitVec w := if x.ult y then x else y
/-- See `smin`. -/
def umax {w : Nat} (x y : BitVec w) : BitVec w := if x.ult y then y else x

/-- The high half of the exact signed product (R78). -/
def mulh {w : Nat} (x y : BitVec w) : BitVec w := BitVec.ofInt w (x.toInt * y.toInt / 2 ^ w)

/-- The high half of the exact unsigned product (R78). -/
def mulhu {w : Nat} (x y : BitVec w) : BitVec w := BitVec.ofNat w (x.toNat * y.toNat / 2 ^ w)

/-- Signed division (R80): truncation toward zero; a zero divisor gives all ones. -/
def divs {w : Nat} (x y : BitVec w) : BitVec w :=
  if y = 0 then BitVec.allOnes w else BitVec.ofInt w (x.toInt.tdiv y.toInt)

/-- Unsigned division (R80). -/
def divu {w : Nat} (x y : BitVec w) : BitVec w := if y = 0 then BitVec.allOnes w else x / y

/-- Signed remainder (R80): the sign of the dividend; a zero divisor gives the dividend. -/
def rems {w : Nat} (x y : BitVec w) : BitVec w :=
  if y = 0 then x else BitVec.ofInt w (x.toInt.tmod y.toInt)

/-- Unsigned remainder (R80). -/
def remu {w : Nat} (x y : BitVec w) : BitVec w := if y = 0 then x else x % y

/-- Bits [hi:lo] of a 64-bit value, as a number. -/
def fieldN (x : DWord) (lo len : Nat) : Nat := x.toNat / 2 ^ lo % 2 ^ len

/-- Whether `x` is a multiple of `n`. -/
def aligned (x n : Nat) : Bool := x % n == 0

end Sys2Proof.Machine
end

