-- ==== Sys2Proof/Syntax.lean ====
section
/-! DEFINITION. The instructions: one constructor for each row of the opcode table (spec R56-R60 and the table's steps). -/

namespace Sys2Proof

/-- Names one group: launch number, position of its team's page in the page list (TEAMID), group index (R18). -/
structure GKey where
  launch : Nat
  team : Nat
  idx : Nat
deriving DecidableEq, Repr

/-- Names one team: launch number and TEAMID (R18). -/
structure TKey where
  launch : Nat
  team : Nat
deriving DecidableEq, Repr

/-- A PCI function: the hub die whose link it is on, and the partition it serves (R354, R359). -/
structure Fn where
  hub : Nat
  part : Nat
deriving DecidableEq, Repr

/-- How the completion of a host atomic comes back from the link (R357). `poison` says whether the host's completer
updated the location, which the device can not know. -/
inductive LinkStatus where
  | ok
  | ur
  | ca
  | poison (updated : Bool)
deriving DecidableEq, Repr

/-- The traffic classes that carry messages (R337). -/
inductive MsgClass where
  | ordered
  | logical
  | unordered
deriving DecidableEq, Repr

/-- A fabric message (R230, R232, R344), with the device it is for. -/
structure Msg where
  cls : MsgClass
  dst : Nat
  stamp : Nat
  srcDev : Nat
  srcPort : Nat
  seq : Nat
  ring : Nat
  payload : List Byte
deriving DecidableEq, Repr

/-- What the distaff reports of a flash page when its read and retries end (R38). -/
structure FlashRead where
  corrected : Nat
  retries : Nat
  uncorr : Bool
deriving DecidableEq, Repr

/-- How an NVMe read of a page ends (R372). -/
inductive DriveStatus where
  | success
  | unrecovered
  | error
deriving DecidableEq, Repr

/-- The atomics that an agent outside the device may ask for: a host the first three (R354, R358), a peer any word atomic (R152, R340). -/
inductive ExtAmo where
  | fetchAdd
  | swap
  | cas
  | min
  | max
  | minu
  | maxu
  | and
  | or
  | xor
  | fadd
  | fmin
  | fmax
deriving DecidableEq, Repr

/-- One access that an agent outside the device makes to its memory (R340, R356, R358). -/
inductive ExtAccess where
  | read (n : Nat)
  | write (data : List Byte)
  | amo (op : ExtAmo) (n : Nat) (x y : BitVec 64)
  | cas128
deriving DecidableEq, Repr

/-- Arguments of CREATEQ (R300, R360). -/
structure QueueArgs where
  q : Nat
  ring : BitVec 64
  log2 : Nat
  writeBack : BitVec 64
  asid : BitVec 16
  prio : Nat
  kinds : List Nat
  ranges : List (Nat × Nat)
  preemptible : Bool
  deferUs : Nat
deriving DecidableEq, Repr

/-- Arguments of REGTENSOR (R269, R360): byte addresses within the named home; `die` names the engine of the moves that touch no HBM range. -/
structure TensorArgs where
  handle : BitVec 32
  size : Nat
  die : Nat
  hbm : Option (Nat × Nat)
  board : Option Nat
  flash : Option Nat
  hbmValid : Bool
  boardValid : Bool
  flashValid : Bool
deriving DecidableEq, Repr

/-- The queue of a drive to which NVMEPASS submits its command: the admin queue, or the I/O queue for passthrough (R371, R372). -/
structure PassQueue where
  drive : Nat
  admin : Bool
deriving DecidableEq, Repr

/-- What one TLBINV names (R287, R360): an address range of an ASID, an ASID, a GPA range of a partition and home, a partition. -/
inductive TlbScope where
  | vaRange (asid : BitVec 16) (lo hi : Nat)
  | asid (asid : BitVec 16)
  | gpaRange (part home lo hi : Nat)
  | partition (part : Nat)
deriving DecidableEq, Repr

/-- Links that can go down: a Penlia port, a host link, a storage root port (R367, R409). -/
inductive Link where
  | port (n : Nat)
  | host (n : Nat)
  | root (n : Nat)
deriving DecidableEq, Repr

/-- A register the host can write, by the block it lies in: BAR 0 of a function (R359), which holds the fabric block in the
PF (R350), or the debug window BAR 4 (R386); Device Control 2 of the PF on a hub's link (R357); the CXL mode of a hub's link and the
CXL.mem window, which the host chooses (R354, R356). -/
inductive HostReg where
  | bar0 (fn : Fn) (off : Nat)
  | bar4 (off n : Nat)
  | devCtl2 (hub : Nat)
  | cxlMode (hub : Nat)
  | cxlBase
  | cxlSize
deriving DecidableEq, Repr

/-- Classes that a link can pause (R337, R338). -/
inductive PauseClass where
  | ordered
  | logical
  | unordered
  | loadStoreReq
  | loadStoreRep
deriving DecidableEq, Repr


/-- Every row of the opcode table: the 255 instruction words of the opcode map (R51-R60), whose fields are the bits the
encoding gives them, and the steps the table lists beside them (what an engine, a unit, the host or the fabric does), whose
arguments name what the step acts on. The order is that of the table, except that the Lean runtime can build at most 244
constructors with fields: four of the FAB major and the instructions without fields stand after the others. -/
inductive Instr where
  | trap (n : BitVec 7)
  | brk (n : BitVec 7)
  | mark (i : BitVec 14)
  | fence (o : BitVec 2) (s : BitVec 2)
  | fencex (p : BitVec 3) (q : BitVec 3) (s : BitVec 2)
  | yieldc (n : BitVec 6)
  | window (n : BitVec 3)
  | donate (d : BitVec 1) (a : BitVec 5) (k : BitVec 3)
  | bar (n : BitVec 4) (c : BitVec 7)
  | bara (d : BitVec 7) (n : BitVec 4) (c : BitVec 7)
  | barw (n : BitVec 4) (b : BitVec 7)
  | waita (a : BitVec 7) (b : BitVec 7)
  | wakea (a : BitVec 7)
  | haltg (a : BitVec 7)
  | haltgRes (a : BitVec 7)
  | mbatch (n : BitVec 3)
  | mwait (n : BitVec 3)
  | sadd (d : BitVec 7) (a : BitVec 7) (b : BitVec 7)
  | ssub (d : BitVec 7) (a : BitVec 7) (b : BitVec 7)
  | smul (d : BitVec 7) (a : BitVec 7) (b : BitVec 7)
  | smulh (d : BitVec 7) (a : BitVec 7) (b : BitVec 7)
  | smulhu (d : BitVec 7) (a : BitVec 7) (b : BitVec 7)
  | sdiv (d : BitVec 7) (a : BitVec 7) (b : BitVec 7)
  | sdivu (d : BitVec 7) (a : BitVec 7) (b : BitVec 7)
  | srem (d : BitVec 7) (a : BitVec 7) (b : BitVec 7)
  | sremu (d : BitVec 7) (a : BitVec 7) (b : BitVec 7)
  | sand (d : BitVec 7) (a : BitVec 7) (b : BitVec 7)
  | sor (d : BitVec 7) (a : BitVec 7) (b : BitVec 7)
  | sxor (d : BitVec 7) (a : BitVec 7) (b : BitVec 7)
  | sandn (d : BitVec 7) (a : BitVec 7) (b : BitVec 7)
  | sshl (d : BitVec 7) (a : BitVec 7) (b : BitVec 7)
  | sshr (d : BitVec 7) (a : BitVec 7) (b : BitVec 7)
  | ssra (d : BitVec 7) (a : BitVec 7) (b : BitVec 7)
  | smin (d : BitVec 7) (a : BitVec 7) (b : BitVec 7)
  | smax (d : BitVec 7) (a : BitVec 7) (b : BitVec 7)
  | sminu (d : BitVec 7) (a : BitVec 7) (b : BitVec 7)
  | smaxu (d : BitVec 7) (a : BitVec 7) (b : BitVec 7)
  | scmp (a : BitVec 7) (b : BitVec 7)
  | scmpu (a : BitVec 7) (b : BitVec 7)
  | ssel (d : BitVec 7) (a : BitVec 7) (b : BitVec 7)
  | spopc (d : BitVec 7) (a : BitVec 7)
  | sclz (d : BitVec 7) (a : BitVec 7)
  | sctz (d : BitVec 7) (a : BitVec 7)
  | sbrev (d : BitVec 7) (a : BitVec 7)
  | sbfe (d : BitVec 7) (a : BitVec 7) (b : BitVec 7)
  | sbfi (d : BitVec 7) (a : BitVec 7) (b : BitVec 7)
  | saddi (d : BitVec 7) (a : BitVec 7) (i : BitVec 12)
  | sandi (d : BitVec 7) (a : BitVec 7) (i : BitVec 12)
  | sori (d : BitVec 7) (a : BitVec 7) (i : BitVec 12)
  | sxori (d : BitVec 7) (a : BitVec 7) (i : BitVec 12)
  | sshli (d : BitVec 7) (a : BitVec 7) (n : BitVec 6)
  | sshri (d : BitVec 7) (a : BitVec 7) (n : BitVec 6)
  | ssrai (d : BitVec 7) (a : BitVec 7) (n : BitVec 6)
  | scmpi (a : BitVec 7) (i : BitVec 12)
  | scmpiu (a : BitVec 7) (i : BitVec 12)
  | sli (d : BitVec 7) (z : BitVec 1) (h : BitVec 2) (i : BitVec 16)
  | sld (d : BitVec 7) (a : BitVec 7) (w : BitVec 2) (o : BitVec 2) (s : BitVec 2) (n : BitVec 4)
  | sst (d : BitVec 7) (a : BitVec 7) (w : BitVec 2) (o : BitVec 2) (s : BitVec 2) (n : BitVec 4)
  | smfs (d : BitVec 7) (a : BitVec 7)
  | smts (d : BitVec 7) (a : BitVec 7)
  | smfk (d : BitVec 7) (a : BitVec 3)
  | smtk (d : BitVec 3) (a : BitVec 7)
  | b (c : BitVec 5) (f : BitVec 21)
  | call (f : BitVec 26)
  | jr (a : BitVec 7)
  | callr (a : BitVec 7)
  | kand (d : BitVec 3) (a : BitVec 3) (b : BitVec 3)
  | kor (d : BitVec 3) (a : BitVec 3) (b : BitVec 3)
  | kxor (d : BitVec 3) (a : BitVec 3) (b : BitVec 3)
  | kandn (d : BitVec 3) (a : BitVec 3) (b : BitVec 3)
  | knot (d : BitVec 3) (a : BitVec 3)
  | kmov (d : BitVec 3) (a : BitVec 3)
  | kpopc (d : BitVec 7) (a : BitVec 3)
  | kffs (d : BitVec 7) (a : BitVec 3)
  | kfroms (d : BitVec 3) (a : BitVec 7) (b : BitVec 7)
  | ktos (d : BitVec 7) (a : BitVec 3) (b : BitVec 7)
  | kall (d : BitVec 3) (b : BitVec 7)
  | wait (l : BitVec 6) (s : BitVec 6) (c : BitVec 6) (t : BitVec 6)
  | vadd (g : BitVec 2) (d : BitVec 7) (a : BitVec 7) (b : BitVec 7)
  | vsub (g : BitVec 2) (d : BitVec 7) (a : BitVec 7) (b : BitVec 7)
  | vmul (g : BitVec 2) (d : BitVec 7) (a : BitVec 7) (b : BitVec 7)
  | vmulh (g : BitVec 2) (d : BitVec 7) (a : BitVec 7) (b : BitVec 7)
  | vmulhu (g : BitVec 2) (d : BitVec 7) (a : BitVec 7) (b : BitVec 7)
  | vmin (g : BitVec 2) (d : BitVec 7) (a : BitVec 7) (b : BitVec 7)
  | vmax (g : BitVec 2) (d : BitVec 7) (a : BitVec 7) (b : BitVec 7)
  | vminu (g : BitVec 2) (d : BitVec 7) (a : BitVec 7) (b : BitVec 7)
  | vmaxu (g : BitVec 2) (d : BitVec 7) (a : BitVec 7) (b : BitVec 7)
  | vand (g : BitVec 2) (d : BitVec 7) (a : BitVec 7) (b : BitVec 7)
  | vor (g : BitVec 2) (d : BitVec 7) (a : BitVec 7) (b : BitVec 7)
  | vxor (g : BitVec 2) (d : BitVec 7) (a : BitVec 7) (b : BitVec 7)
  | vandn (g : BitVec 2) (d : BitVec 7) (a : BitVec 7) (b : BitVec 7)
  | vshl (g : BitVec 2) (d : BitVec 7) (a : BitVec 7) (b : BitVec 7)
  | vshr (g : BitVec 2) (d : BitVec 7) (a : BitVec 7) (b : BitVec 7)
  | vsra (g : BitVec 2) (d : BitVec 7) (a : BitVec 7) (b : BitVec 7)
  | vbfe (g : BitVec 2) (d : BitVec 7) (a : BitVec 7) (b : BitVec 7)
  | vbfeu (g : BitVec 2) (d : BitVec 7) (a : BitVec 7) (b : BitVec 7)
  | vbfi (g : BitVec 2) (d : BitVec 7) (a : BitVec 7) (b : BitVec 7)
  | vbrev (g : BitVec 2) (d : BitVec 7) (a : BitVec 7)
  | vpopc (g : BitVec 2) (d : BitVec 7) (a : BitVec 7)
  | vclz (g : BitVec 2) (d : BitVec 7) (a : BitVec 7)
  | vctz (g : BitVec 2) (d : BitVec 7) (a : BitVec 7)
  | vabs (g : BitVec 2) (d : BitVec 7) (a : BitVec 7)
  | vaddi (g : BitVec 2) (d : BitVec 7) (a : BitVec 7) (i : BitVec 10)
  | vandi (g : BitVec 2) (d : BitVec 7) (a : BitVec 7) (i : BitVec 10)
  | vori (g : BitVec 2) (d : BitVec 7) (a : BitVec 7) (i : BitVec 10)
  | vxori (g : BitVec 2) (d : BitVec 7) (a : BitVec 7) (i : BitVec 10)
  | vshli (g : BitVec 2) (d : BitVec 7) (a : BitVec 7) (n : BitVec 5)
  | vshri (g : BitVec 2) (d : BitVec 7) (a : BitVec 7) (n : BitVec 5)
  | vsrai (g : BitVec 2) (d : BitVec 7) (a : BitVec 7) (n : BitVec 5)
  | vfadd (g : BitVec 2) (d : BitVec 7) (a : BitVec 7) (b : BitVec 7)
  | vfsub (g : BitVec 2) (d : BitVec 7) (a : BitVec 7) (b : BitVec 7)
  | vfmul (g : BitVec 2) (d : BitVec 7) (a : BitVec 7) (b : BitVec 7)
  | vfma (g : BitVec 2) (d : BitVec 7) (a : BitVec 7) (b : BitVec 7)
  | vfms (g : BitVec 2) (d : BitVec 7) (a : BitVec 7) (b : BitVec 7)
  | vfmin (g : BitVec 2) (d : BitVec 7) (a : BitVec 7) (b : BitVec 7)
  | vfmax (g : BitVec 2) (d : BitVec 7) (a : BitVec 7) (b : BitVec 7)
  | vfabs (g : BitVec 2) (d : BitVec 7) (a : BitVec 7)
  | vfdiv (g : BitVec 2) (d : BitVec 7) (a : BitVec 7) (b : BitVec 7)
  | vfsqrt (g : BitVec 2) (d : BitVec 7) (a : BitVec 7)
  | vfrcp (g : BitVec 2) (d : BitVec 7) (a : BitVec 7)
  | vfrsq (g : BitVec 2) (d : BitVec 7) (a : BitVec 7)
  | vfexp2 (g : BitVec 2) (d : BitVec 7) (a : BitVec 7)
  | vflog2 (g : BitVec 2) (d : BitVec 7) (a : BitVec 7)
  | vffloor (g : BitVec 2) (d : BitVec 7) (a : BitVec 7)
  | vfrint (g : BitVec 2) (d : BitVec 7) (a : BitVec 7)
  | vdadd (g : BitVec 2) (d : BitVec 7) (a : BitVec 7) (b : BitVec 7)
  | vdsub (g : BitVec 2) (d : BitVec 7) (a : BitVec 7) (b : BitVec 7)
  | vdmul (g : BitVec 2) (d : BitVec 7) (a : BitVec 7) (b : BitVec 7)
  | vdfma (g : BitVec 2) (d : BitVec 7) (a : BitVec 7) (b : BitVec 7)
  | vddiv (g : BitVec 2) (d : BitVec 7) (a : BitVec 7) (b : BitVec 7)
  | vdsqrt (g : BitVec 2) (d : BitVec 7) (a : BitVec 7)
  | vdmin (g : BitVec 2) (d : BitVec 7) (a : BitVec 7) (b : BitVec 7)
  | vdmax (g : BitVec 2) (d : BitVec 7) (a : BitVec 7) (b : BitVec 7)
  | vcvt (g : BitVec 2) (d : BitVec 7) (a : BitVec 7) (c : BitVec 7)
  | vceq (g : BitVec 2) (d : BitVec 3) (a : BitVec 7) (b : BitVec 7)
  | vcne (g : BitVec 2) (d : BitVec 3) (a : BitVec 7) (b : BitVec 7)
  | vclt (g : BitVec 2) (d : BitVec 3) (a : BitVec 7) (b : BitVec 7)
  | vcle (g : BitVec 2) (d : BitVec 3) (a : BitVec 7) (b : BitVec 7)
  | vcltu (g : BitVec 2) (d : BitVec 3) (a : BitVec 7) (b : BitVec 7)
  | vcleu (g : BitVec 2) (d : BitVec 3) (a : BitVec 7) (b : BitVec 7)
  | vfceq (g : BitVec 2) (d : BitVec 3) (a : BitVec 7) (b : BitVec 7)
  | vfcne (g : BitVec 2) (d : BitVec 3) (a : BitVec 7) (b : BitVec 7)
  | vfclt (g : BitVec 2) (d : BitVec 3) (a : BitVec 7) (b : BitVec 7)
  | vfcle (g : BitVec 2) (d : BitVec 3) (a : BitVec 7) (b : BitVec 7)
  | vfcun (g : BitVec 2) (d : BitVec 3) (a : BitVec 7) (b : BitVec 7)
  | vdceq (g : BitVec 2) (d : BitVec 3) (a : BitVec 7) (b : BitVec 7)
  | vdclt (g : BitVec 2) (d : BitVec 3) (a : BitVec 7) (b : BitVec 7)
  | vdcle (g : BitVec 2) (d : BitVec 3) (a : BitVec 7) (b : BitVec 7)
  | vshfl (g : BitVec 2) (d : BitVec 7) (a : BitVec 7) (b : BitVec 7)
  | vshflx (g : BitVec 2) (d : BitVec 7) (a : BitVec 7) (b : BitVec 7)
  | vshflu (g : BitVec 2) (d : BitVec 7) (a : BitVec 7) (b : BitVec 7)
  | vshfld (g : BitVec 2) (d : BitVec 7) (a : BitVec 7) (b : BitVec 7)
  | vbcast (g : BitVec 2) (d : BitVec 7) (a : BitVec 7) (b : BitVec 5)
  | vsel (g : BitVec 2) (d : BitVec 7) (a : BitVec 7) (b : BitVec 7)
  | vballot (g : BitVec 2) (d : BitVec 5) (a : BitVec 7)
  | vtid (g : BitVec 2) (d : BitVec 7)
  | vredadd (g : BitVec 2) (d : BitVec 5) (a : BitVec 7)
  | vredmin (g : BitVec 2) (d : BitVec 5) (a : BitVec 7)
  | vredmax (g : BitVec 2) (d : BitVec 5) (a : BitVec 7)
  | vredminu (g : BitVec 2) (d : BitVec 5) (a : BitVec 7)
  | vredmaxu (g : BitVec 2) (d : BitVec 5) (a : BitVec 7)
  | vredfadd (g : BitVec 2) (d : BitVec 5) (a : BitVec 7)
  | vscan (g : BitVec 2) (d : BitVec 7) (a : BitVec 7)
  | vscanf (g : BitVec 2) (d : BitVec 7) (a : BitVec 7)
  | vmov (g : BitVec 2) (d : BitVec 7) (a : BitVec 7)
  | vmfs (g : BitVec 2) (d : BitVec 7) (a : BitVec 7) (b : BitVec 1)
  | vmerge (g : BitVec 2) (d : BitVec 7) (a : BitVec 7) (b : BitVec 7)
  | vld (g : BitVec 2) (d : BitVec 7) (a : BitVec 7) (w : BitVec 2) (o : BitVec 2) (s : BitVec 2) (n : BitVec 4)
  | vldu (g : BitVec 2) (d : BitVec 7) (a : BitVec 7) (w : BitVec 1) (o : BitVec 2) (s : BitVec 2) (n : BitVec 4)
  | vst (g : BitVec 2) (d : BitVec 7) (a : BitVec 7) (w : BitVec 2) (o : BitVec 2) (s : BitVec 2) (n : BitVec 4)
  | vldx (g : BitVec 2) (f : BitVec 3) (d : BitVec 7) (a : BitVec 7) (b : BitVec 5)
  | vamoadd (g : BitVec 2) (d : BitVec 7) (a : BitVec 7) (b : BitVec 7)
  | vamomin (g : BitVec 2) (d : BitVec 7) (a : BitVec 7) (b : BitVec 7)
  | vamomax (g : BitVec 2) (d : BitVec 7) (a : BitVec 7) (b : BitVec 7)
  | vamominu (g : BitVec 2) (d : BitVec 7) (a : BitVec 7) (b : BitVec 7)
  | vamomaxu (g : BitVec 2) (d : BitVec 7) (a : BitVec 7) (b : BitVec 7)
  | vamoand (g : BitVec 2) (d : BitVec 7) (a : BitVec 7) (b : BitVec 7)
  | vamoor (g : BitVec 2) (d : BitVec 7) (a : BitVec 7) (b : BitVec 7)
  | vamoxor (g : BitVec 2) (d : BitVec 7) (a : BitVec 7) (b : BitVec 7)
  | vcas (g : BitVec 2) (d : BitVec 7) (a : BitVec 7) (b : BitVec 7)
  | vxchg (g : BitVec 2) (d : BitVec 7) (a : BitVec 7) (b : BitVec 7)
  | vamofadd (g : BitVec 2) (d : BitVec 7) (a : BitVec 7) (b : BitVec 7)
  | vamofmin (g : BitVec 2) (d : BitVec 7) (a : BitVec 7) (b : BitVec 7)
  | vamofmax (g : BitVec 2) (d : BitVec 7) (a : BitVec 7) (b : BitVec 7)
  | samoadd (d : BitVec 7) (a : BitVec 7) (b : BitVec 7)
  | samomin (d : BitVec 7) (a : BitVec 7) (b : BitVec 7)
  | samomax (d : BitVec 7) (a : BitVec 7) (b : BitVec 7)
  | samoand (d : BitVec 7) (a : BitVec 7) (b : BitVec 7)
  | samoor (d : BitVec 7) (a : BitVec 7) (b : BitVec 7)
  | samoxor (d : BitVec 7) (a : BitVec 7) (b : BitVec 7)
  | scas (d : BitVec 7) (a : BitVec 7) (b : BitVec 7)
  | sxchg (d : BitVec 7) (a : BitVec 7) (b : BitVec 7)
  | tlook (d : BitVec 7) (a : BitVec 7)
  | tset (a : BitVec 7) (b : BitVec 7)
  | tinv (a : BitVec 7)
  | tslot (d : BitVec 7) (a : BitVec 7)
  | cpy (d : BitVec 7) (a : BitVec 7) (b : BitVec 7)
  | cpym (d : BitVec 7) (a : BitVec 7) (b : BitVec 7)
  | cpyd (d : BitVec 7) (a : BitVec 7) (b : BitVec 7)
  | cpyc (d : BitVec 7) (a : BitVec 7) (b : BitVec 7)
  | cpyg (d : BitVec 7) (a : BitVec 7) (b : BitVec 7)
  | cpys (d : BitVec 7) (a : BitVec 7) (b : BitVec 7)
  | qinit (d : BitVec 4) (b : BitVec 7)
  | qpush (d : BitVec 4) (a : BitVec 7)
  | qpop (d : BitVec 7) (a : BitVec 4)
  | qpusht (d : BitVec 4) (a : BitVec 4)
  | qpopt (d : BitVec 7) (a : BitVec 4)
  | qallow (d : BitVec 4) (b : BitVec 7)
  | tnmov (d : BitVec 7) (a : BitVec 7) (b : BitVec 7)
  | tnpin (d : BitVec 7) (a : BitVec 7)
  | tnunpin (d : BitVec 7) (a : BitVec 7)
  | tnevict (d : BitVec 7) (a : BitVec 7)
  | tnwait (d : BitVec 7) (a : BitVec 7)
  | tnstat (d : BitVec 7) (a : BitVec 7)
  | tld (d : BitVec 4) (a : BitVec 7) (b : BitVec 7)
  | tst (d : BitVec 4) (a : BitVec 7) (b : BitVec 7)
  | tzero (d : BitVec 4)
  | mma (d : BitVec 3) (a : BitVec 4) (b : BitVec 4)
  | mmaz (d : BitVec 3) (a : BitVec 4) (b : BitVec 4)
  | mmar (d : BitVec 3) (a : BitVec 4) (b : BitVec 4)
  | accz (d : BitVec 3)
  | accld (d : BitVec 7) (a : BitVec 3) (b : BitVec 7)
  | draina (d : BitVec 3) (a : BitVec 7) (b : BitVec 7)
  | drains (d : BitVec 3) (a : BitVec 7) (b : BitVec 7)
  | trnew (d : BitVec 7) (a : BitVec 7)
  | trroot (d : BitVec 7) (a : BitVec 7) (b : BitVec 1)
  | trdesc (d : BitVec 7) (a : BitVec 7)
  | trexp (d : BitVec 7) (a : BitVec 7) (b : BitVec 1)
  | trback (a : BitVec 7) (b : BitVec 7)
  | trreuse (d : BitVec 7) (a : BitVec 7)
  | trfree (a : BitVec 7) (b : BitVec 1)
  | trleaf (d : BitVec 7) (a : BitVec 7) (b : BitVec 7)
  | trstat (d : BitVec 7) (a : BitVec 7) (k : BitVec 3)
  | cxnew (d : BitVec 7) (a : BitVec 7)
  | cxtnew (d : BitVec 7) (a : BitVec 7)
  | cxret (a : BitVec 7)
  | cxset (a : BitVec 7)
  | cxget (d : BitVec 7) (a : BitVec 7)
  | cxpar (d : BitVec 7) (a : BitVec 7)
  | osend (d : BitVec 7) (a : BitVec 7) (b : BitVec 7)
  | usend (d : BitVec 7) (a : BitVec 7) (b : BitVec 7)
  | pstatr (d : BitVec 7) (a : BitVec 7)
  | bwait (d : BitVec 7) (a : BitVec 7)
  | btry (d : BitVec 7) (a : BitVec 7)
  | orecv (d : BitVec 7) (a : BitVec 7) (b : BitVec 7)
  | opeek (d : BitVec 7) (a : BitVec 7)
  | ostamp (d : BitVec 7) (k : BitVec 2)
  | owm (d : BitVec 7) (a : BitVec 7)
  | nop
  | exit
  | eret
  | yield
  | ret
  | tclr
  | pfree
  | groupRetire (k : GKey)
  | donateTransfer (donor taker : GKey)
  | loadCompletion (op : Nat)
  | storePerformed (op : Nat)
  | atomicCompletion (op : Nat)
  | hostAtomicCompletion (op : Nat) (st : LinkStatus)
  | hostCompletionTimeout (op : Nat)
  | copyCompletion (op : Nat)
  | engineAccept (op : Nat)
  | tileCompletion (op : Nat)
  | mmaCompletion (op : Nat)
  | mmarAllowance (op : Nat) (second : Bool)
  | drainCompletion (op : Nat)
  | reelStep (op : Nat)
  | parkedReplay (k : GKey)
  | faultQueueRoom (part : Nat)
  | waitaTimeout (k : GKey)
  | bwaitTimeout (k : GKey)
  | orecvTimeout (k : GKey)
  | reclaimComplete (tag : BitVec 16)
  | moveCompletes (part : Nat) (handle : BitVec 32)
  | moveFails (part : Nat) (handle : BitVec 32)
  | evictionEnd (part : Nat) (handle : BitVec 32)
  | pageReadIssue (launch : Nat)
  | pageLanding (launch page : Nat) (r : FlashRead)
  | distaffBoundExpiry (launch page retries : Nat)
  | nvmeReadCompletion (launch page : Nat) (st : DriveStatus) (data : List (Nat × Byte))
  | nvmeTimeout (launch page : Nat)
  | memoryPageCopy (launch spindle : Nat)
  | placement (launch spindle : Nat)
  | activeSwap (spindle lane : Nat)
  | promotion (k : GKey)
  | teamSwapOut (t : TKey)
  | teamSwapIn (t : TKey)
  | timeSliceExpiry (part : Nat)
  | deferralLimitExpiry (t : TKey)
  | teamSave (t : TKey)
  | teamRestore (t : TKey)
  | quantumEnd (launch : Nat)
  | syncOpEffect (k : GKey)
  | launch (part q : Nat)
  | move (part q : Nat)
  | copyPacket (part q : Nat)
  | signal (part q : Nat)
  | waitPacket (part q : Nat)
  | bundle (part q : Nat)
  | completionRecord (packet : Nat)
  | createq (fn : Fn) (a : QueueArgs)
  | resetq (fn : Fn) (q : Nat)
  | destroyq (fn : Fn) (q : Nat)
  | setasid (fn : Fn) (asid : BitVec 16) (home : Nat) (gpa : BitVec 64) (bar2 : Option (BitVec 64))
  | sets2 (fn : Fn) (part home rootHome : Nat) (rootPa : BitVec 64)
  | tlbinv (fn : Fn) (what : TlbScope)
  | faultq (fn : Fn) (addr : BitVec 64) (log2 : Nat)
  | faultrespReplay (fn : Fn) (id : Nat)
  | faultrespFail (fn : Fn) (id : Nat)
  | eventq (fn : Fn) (addr : BitVec 64) (log2 : Nat)
  | quota (fn : Fn) (part res idx value : Nat)
  | cellstore (fn : Fn) (home cells : Nat)
  | regtensor (fn : Fn) (a : TensorArgs)
  | unregtensor (fn : Fn) (handle : BitVec 32)
  | preempt (fn : Fn) (q : Nat)
  | keyset (fn : Fn) (key : Nat)
  | keyclr (fn : Fn) (key : Nat)
  | power (fn : Fn) (state warn : Nat)
  | fwload (fn : Fn) (addr : BitVec 64) (len : Nat) (commit : Bool)
  | attest (fn : Fn) (nonce report : BitVec 64) (cert : Bool)
  | nvmepass (fn : Fn) (drive : PassQueue) (cmd cpl : BitVec 64)
  | nvmepassCompletion (drive : Nat) (entry : List Byte)
  | ringbind (fn : Fn) (ring part : Nat) (asid : BitVec 16) (va : BitVec 64) (log2 : Nat) (logical : Bool)
  | ringfree (fn : Fn) (ring : Nat)
  | importBind (fn : Fn) (srcDev srcPart part : Nat) (asid : BitVec 16)
  | importRemove (fn : Fn) (srcDev srcPart : Nat)
  | nvmeto (fn : Fn) (drive ms : Nat)
  | fabricMessageArrival (port : Nat) (m : Msg)
  | beaconArrival (port w lw : Nat)
  | unorderedArrival (port : Nat) (m : Msg)
  | orderedDelivery
  | beaconTimer (port : Nat)
  | timeBeacon (time : BitVec 64)
  | portStall (port : Nat)
  | pause (port : Nat) (c : PauseClass) (on : Bool)
  | peerRequest (srcDev srcPart phome : Nat) (off : Nat) (acc : ExtAccess)
  | portAdmit (port : Nat)
  | portFence (port : Nat)
  | fabdropClear (v : BitVec 64)
  | linkdown (l : Link)
  | bar2Access (fn : Fn) (off : Nat) (acc : ExtAccess)
  | cxlMemAccess (off : Nat) (acc : ExtAccess)
  | gcmdStop (spindle : Nat)
  | gcmdResume (spindle : Nat) (team : Bool)
  | gcmdStep (spindle : Nat)
  | prctlClr (spindle : Nat) (freeze : Bool)
  | groupWindowWrite (spindle off : Nat) (v : BitVec 64)
  | traceEnable (spindle : Nat) (ctl : BitVec 64)
  | syncSet (spindle : Nat)
  | traceRecordWrite (spindle : Nat)
  | breakpointStop (k : GKey)
  | coreDump (t : TKey)
  | hankMirror
  | thermwarn (die temp : Nat)
  | thermtrip (die temp : Nat)
  | fundamentalReset
  | functionLevelReset (part : Nat)
  | registerWrite (r : HostReg) (v : BitVec 64)
  | illegalWord (w : BitVec 32)
  | outOfSectionFetch (addr : BitVec 64)
  | powerLoss
  | linkTrained (port peerDev peerPort : Nat)
  | unusedSlot (spindle quad : Nat)
deriving DecidableEq, Repr

end Sys2Proof
end

