-- ==== Sys2Proof/Machine/State.lean ====
section
/-! DEFINITION. The state of one Xanlum X9: every piece of state the spec gives a group, a team, a grid and the device, as plain
data. The group, team and grid that issue stand in `grp`, `team` and `grid`; every other one stands in `groups`, `teams` and
`grids`. -/

namespace Sys2Proof.Machine

/-- The four condition flags (R26). -/
structure CC where
  z : Bool
  n : Bool
  c : Bool
  v : Bool
deriving DecidableEq, Repr

/-- The classes of outstanding operations that OCNT counts (R33). -/
inductive CntClass where
  | load
  | store
  | copy
  | tile
deriving DecidableEq, Repr

/-- The stall reasons (R388), in the order of their codes. -/
inductive Reason where
  | idle | lane | load | store | copy | tile | queue | bar | gang | bwait | pagefault | tensor | ctx | reel | fabric
  | donate | det | monitor | halt | trace
deriving DecidableEq, Repr

/-- The storage a byte lies in once its address has been resolved: physical memory of homes 0-8, 9 and 10 and the peers' memory of
home 11 (`phys`), a context tag's view of physical memory (`ctx`, R146), a team's scratchpad part, a grid's creel allocation in a
cluster, a landing slot of a cluster, a group's copy status (R144), where an uncorrectable error may lie a group's vector and scalar registers (R257):
cell n of `vregs` from byte n × 4 on, cell n of `sregs` from byte n × 8 on. `zeroSlot` is a landing slot as another team reads it while its page is
uncorrectable (R331): zeros. `tile` and `acc` are a team's tile and accumulator files, where an uncorrectable error may lie (R257): byte
n × 4096 + b of tile n, and the byte of element [i][j] of accumulator n from (n × 1024 + i × 32 + j) × 4 on. `void` is storage that has been
taken away (R213). -/
inductive Space where
  | phys
  | ctx (part : Nat) (tag : BitVec 16)
  | scratch (t : TKey)
  | creel (launch cluster : Nat)
  | slot (cluster slot : Nat)
  | status (k : GKey)
  | zeroSlot (cluster slot : Nat)
  | tile (t : TKey)
  | acc (t : TKey)
  | vfile (k : GKey)
  | sfile (k : GKey)
  | void
deriving DecidableEq, Repr

/-- A byte's place: its storage and its number there. In `phys` and `ctx` the number is home × 2^53 + physical address. `gen` is the
generation of the encryption key the access goes through (R373, R374), 0 for key 0 and for storage that is not encrypted. -/
structure Loc where
  space : Space
  off : Nat
  gen : Nat
deriving DecidableEq, Repr

/-- One thread's access, resolved at issue: the thread, the address the program formed, and where its first byte lies. -/
structure Access where
  thread : Nat
  va : DWord
  loc : Loc
deriving DecidableEq, Repr

/-- A run of bytes that lies together, with the address the program formed. -/
structure Span where
  va : DWord
  loc : Loc
  len : Nat
deriving DecidableEq, Repr

/-- What a group that has begun an instruction and not retired it waits for. `stall` re-issues the instruction, which checks its
condition again; the others hold what the instruction has already done. -/
inductive Wait where
  | none
  | stall (r : Reason)
  | barrier (n : Nat) (tok : BitVec 32)
  | monitor (line : Loc) (since : Nat) (woken : Bool)
  | latch
  | bwait (target since : Nat) (out : Bool)
  | orecv (since : Nat)
  | donate (give : Bool) (partner k : Nat)
  | reel (op : Nat)
  | hostAtomic (op : Nat)
  | yieldc (n : Nat)
  | cxret
  | cxnew
deriving DecidableEq, Repr

/-- A parked instruction (R149, R290): the unfinished threads, the fault record each waits on with the address of its access, the faults that FAIL responses
have given threads, and whether a response has made the group eligible to replay. -/
structure Park where
  mask : BitVec 32
  recs : List (Nat × Nat × DWord)
  fails : List (Nat × BitVec 8 × DWord)
  eligible : Bool
deriving DecidableEq, Repr

/-- Where a group stands in its life: no group, running, stopped at EXIT with operations outstanding (R117), retired (R44). -/
inductive GPhase where
  | absent
  | running
  | exiting
  | retired
deriving DecidableEq, Repr

/-- The scheduler's set a group is in (R315). -/
inductive SchedSet where
  | active
  | pending
  | suspended
deriving DecidableEq, Repr

/-- Watchpoint hits that are held until the instruction retires (R293): the watchpoints, the lowest hitting thread, its address,
and whether one of them stops the group. -/
structure Hits where
  mask : BitVec 8
  thread : Nat
  addr : DWord
  stop : Bool
deriving DecidableEq, Repr

/-- An uncorrectable error that an accepted operation of a group has met and that the group has not taken yet (R179): the address, the class
that counted the operation, the paths on which FENCEX waits for its failed access (R116), the batch that counted a multiply (R105), and the register of an
ACCLD that the group's instruction has waited for (R177). While a handler runs, `back` holds that register with the address of the instruction, to which
the handler may return. -/
structure EccDue where
  va : DWord
  cls : CntClass
  paths : List Nat
  batch : Option Nat
  reg : Option Nat
  back : Option (DWord × Nat)
deriving DecidableEq, Repr

/-- What an instruction takes at its decode from registers that may be written before it issues: the team's shapes and tile queues (R28, R184),
and the group's GANG (R32); and the reason with which its last attempt has stalled, by which it keeps its place in a line (R167, R273). -/
structure AtDecode where
  tshape : List DWord
  tqueue : List DWord
  gang : DWord
  reason : Option Reason
deriving DecidableEq, Repr

/-- The operations of a deterministic launch that wait for a commit after their instruction has retired, as the instructions that wait for them tell them
apart (R115, R116, R244, R253): stores, word atomics, drains and ordered sends. -/
inductive CommKind where
  | store
  | atomic
  | drain
  | send
deriving DecidableEq, Repr

/-- A group: the state of R18's group level, its threads' vector registers, and the marks the device keeps about it. Scalar register
n is cell n of `sregs`; element t of register r of the allocation is cell r × 32 + t of `vregs`; mask kn is cell n of `masks`. `bpSkip` is
the address at which a resumed group executes once without a breakpoint (R398); `decoded` says that the instruction at PC has passed its
checks at decode, and what it took there (R28, R32, R65); `hitsTrap` are the hits that wait for the end of the handler (R293); `promoted` is the place among promotions
(R316, R319); `mtxAfter` are the operations whose MTX accesses a gang operation of the group has put before its own later ones (R246);
`stallAt` is when the stall began, in tenths of arithmetic cycles (R318); `eligCycles` counts in tenths too (R319). `commAt` is, for each kind
of operation that waits for a commit, the quantum of the group's last one, `commCnt` how many of them have raised S in that quantum (R253); `pcNext` is the address that another agent has given the group
for the end of the instruction it is inside (R295, R400); `heldFree` says that
`heldTrap` is the count of an atomic to home 10 for which EXIT waits no more (R383); `atHalt` are the reason code and the set with which the halt of its team found it
(R412). -/
structure Group where
  key : GKey
  phase : GPhase
  role : BitVec 2
  quad : Nat
  laneInQuad : Nat
  laneSlot : Nat
  priv : Bool
  pc : DWord
  live : Word
  masks : SMap 32
  sregs : SMap 64
  vregs : SMap 32
  alloc : Nat
  winbase : BitVec 3
  cc : CC
  gang : DWord
  fpctl : BitVec 3
  cntL : Nat
  cntS : Nat
  cntC : Nat
  cntT : Nat
  clk : DWord
  ctx : BitVec 16
  bwto : Word
  tvec : DWord
  epc : DWord
  tcause : BitVec 8
  tval : DWord
  unf : Word
  tgroup : BitVec 5
  replay : Bool
  ppriv : Bool
  intrap : Bool
  wpHit : BitVec 8
  wpEn : BitVec 8
  batchOpen : BitVec 8
  batchPend : SMap 16
  curBatch : Option Nat
  copyCount : BitVec 8
  copyCode : BitVec 8
  copyWhere : DWord
  wait : Wait
  replayMask : Option Word
  park : Option Park
  held : Option CntClass
  heldTrap : Option CntClass
  posted : Option (BitVec 8 × DWord)
  haltedBy : List Nat
  stopped : Bool
  stepping : Bool
  bpSkip : Option DWord
  decoded : Option AtDecode
  hits : Option Hits
  hitsTrap : Option Hits
  eccPend : List EccDue
  mtxAfter : List Nat
  lastSend : DWord
  lastRecv : DWord
  set : SchedSet
  order : Nat
  age : Nat
  eligCycles : Nat
  promoted : Option Nat
  stallAt : Nat
  commAt : List (CommKind × Nat)
  commCnt : Nat
  heldFree : Bool
  pcNext : Option DWord
  atHalt : Option (Nat × SchedSet)
deriving DecidableEq, Repr

/-- A queue (R167), with the groups that wait to push and to pop, oldest first. -/
structure Queue where
  init : Bool
  allowance : Nat
  entries : List DWord
  pushers : List Nat
  poppers : List Nat
deriving DecidableEq, Repr

/-- A barrier (R109), with the mask of groups that have arrived in the phase (R405). -/
structure Barrier where
  phase : Word
  need : Nat
  arrivals : Nat
  arrived : Word
deriving DecidableEq, Repr

/-- What an accepted matrix multiply takes from GANG.m0, or from the group that issues it alone (R184): row counts, FPCTL, and the
queues the two tiles name. -/
structure MmaShape where
  m : Nat
  n : Nat
  fpctl : BitVec 3
  tqA : Nat
  tqB : Nat
deriving DecidableEq, Repr

/-- A gang latch that holds arrivals (R187): the member set, the recorded word and GANG, who has arrived, what m0 brought, and the
point of the first arrival in the order of R327. -/
structure Latch where
  members : List Nat
  word : Word
  gang : DWord
  arrived : List Nat
  shape : Option MmaShape
  first : Nat × Nat
deriving DecidableEq, Repr

/-- Where a team stands: running, being saved or saved by pre-emption (R323), swapped out (R202), ended and not released (R298,
R403), released after completion or end. -/
inductive TPhase where
  | absent
  | running
  | saved
  | swapped
  | ended
  | gone
deriving DecidableEq, Repr

/-- The trap that ended a team (R298, R411): its group, cause, TVAL, EPC, and the time of the halt broadcast. -/
structure EndRec where
  group : Nat
  cause : BitVec 8
  tval : DWord
  epc : DWord
  time : Nat
deriving DecidableEq, Repr

/-- A team: the state of R18's team level, its place, its resources and its marks. Byte b of tile n is cell n × 4096 + b of
`tiles`; element [i][j] of accumulator n is cell n × 1024 + i × 32 + j of `accs`. `preempt` is when its pre-emption was requested; with `saving` its
issue has stopped and what it has issued drains (R322, R323). -/
structure Team where
  key : TKey
  phase : TPhase
  spindle : Nat
  base : Nat
  pgidx : Word
  pstat : BitVec 18
  slot : Nat
  slotFreed : Bool
  pageTrapped : Bool
  ngroups : Nat
  scratchBytes : Nat
  scratch : SMap 8
  tagSlots : Nat
  tags : List (Nat × BitVec 45)
  tileWin : Nat
  tshape : List DWord
  tqueue : List DWord
  tiles : SMap 8
  accCount : Nat
  accs : SMap 32
  queues : List Queue
  barriers : List Barrier
  latches : List Latch
  placed : Nat
  endRec : Option EndRec
  dumping : Bool
  preempt : Option Nat
  saving : Bool
  forced : Bool
deriving DecidableEq, Repr

/-- Where the grid's pages come from (R14, R365). -/
inductive PageSource where
  | flash
  | nvme
  | memory
deriving DecidableEq, Repr

/-- The uncorrectable-page policy (R14, R264). -/
inductive Policy where
  | skip
  | launch
  | fault
deriving DecidableEq, Repr

/-- Where a page of a grid stands (R199, R264): no read issued; read issued into a reserved slot at a time; landed and not yet
placed, in arrival order; its team running; its team complete; failed. -/
inductive PageSt where
  | waiting
  | issued (cluster slot since : Nat)
  | landed (cluster slot arrival : Nat)
  | running
  | done
  | failed
deriving DecidableEq, Repr

/-- A page of a grid: its page-list entry (R363), where it stands, its PSTAT (R38), the spindle whose agent has taken its ticket (R313), and
the fault record that the copy of a memory page waits on (R308). In a deterministic launch the page's end shows behind the point `seen`, a clock and a GID (R205,
log 12). -/
structure Page where
  pgidx : Word
  src : DWord
  st : PageSt
  pstat : BitVec 18
  agent : Option Nat
  record : Option Nat
  seen : Nat × Nat
deriving DecidableEq, Repr

/-- One role of the launch description (R365). -/
structure Role where
  groups : Nat
  alloc : Nat
  gang : Bool
  entry : Nat
deriving DecidableEq, Repr

/-- The launch description (R365). -/
structure LaunchDesc where
  groups : Nat
  scratch : Nat
  tagSlots : Nat
  accs : Nat
  tiles : Nat
  tvec : Option Nat
  roles : List Role
  shapes : List DWord
  queues : List Nat
  tqueues : List DWord
deriving DecidableEq, Repr

/-- A grid: R18's grid level, the code copy the front end took at launch (R50, word n at cell n), and the launch's marks. `progress`
counts the synchronising operations of a deterministic launch, and the communication operations that take effect as they retire (R205). -/
structure Grid where
  id : Nat
  packet : Nat
  part : Nat
  asid : BitVec 16
  queue : Nat
  hub : Nat
  tag : BitVec 16
  prio : Nat
  source : PageSource
  policy : Policy
  hold : Bool
  det : Bool
  codeBase : DWord
  codeLen : Nat
  code : SMap 32
  dataBase : DWord
  args : DWord
  ctx : BitVec 16
  creelBytes : Nat
  clusters : BitVec 24
  desc : LaunchDesc
  pages : List Page
  nextCluster : Nat
  arrivals : Nat
  detSends : SMap 64
  progress : Nat
  ended : Bool
deriving DecidableEq, Repr

/-- A fault record (R288): `queuePart` is the partition whose queue takes it, `part` that of the access. -/
structure FaultRec where
  id : Nat
  queuePart : Nat
  part : Nat
  asid : BitVec 16
  cause : BitVec 8
  va : DWord
  gpa : DWord
  page : Nat
  level : Nat
  table : Bool
  write : Bool
  atom : Bool
  engine : Bool
  permv : Bool
  place : BitVec 11
  waiters : Nat
  written : Bool
  pos : Nat
deriving DecidableEq, Repr

/-- The word atomics (R153-R155). -/
inductive AmoOp where
  | add | min | max | minu | maxu | and | or | xor | cas | xchg | fadd | fmin | fmax
deriving DecidableEq, Repr

/-- A copy (R157-R164), its operands read at issue. The values of the parameter block stand in `params`. -/
inductive CopyJob where
  | cpy (d a : DWord) (len : Nat)
  | cpym (d a : DWord) (block : DWord) (params : BitVec 128)
  | cpyd (d a : DWord) (scale : Word)
  | cpyc (d a : DWord) (block : DWord) (params : BitVec 128)
  | cpyg (d a : DWord) (block : DWord) (params : BitVec 128)
  | cpys (d a : DWord) (block : DWord) (params : BitVec 128)
deriving DecidableEq, Repr

/-- Where a descent stands between two of its steps (R222, R223, R335): before its first; before the virtual loss of node `n`; before
the snapshot of `n`; in a selection, before the snapshot of child `first + i`, with the best child and score so far; before virtual losses
are taken back. -/
inductive DescSt where
  | start
  | lose (n : Nat) (path : List Nat)
  | at (n : Nat) (path : List Nat)
  | pick (first nch : Nat) (sq : Word) (i : Nat) (best : Option (Nat × Word)) (path : List Nat)
  | undo (rest : List Nat) (leaf : Nat)
deriving DecidableEq, Repr

/-- A reel instruction in progress (R220), with its operands read at issue. `tree` is the identifier of the tree that a descent or a back-up
has begun in (R336). -/
inductive ReelJob where
  | new (params : BitVec 256)
  | root (h : DWord) (f : Bool)
  | desc (h : DWord) (st : DescSt) (tree : Option Nat)
  | exp (ref : DWord) (count : Nat) (priors actions : List Word) (f : Bool)
  | back (ref : DWord) (v : Word) (neg : Bool) (at_ : Option Nat) (tree : Option Nat)
  | reuse (ref : DWord)
  | free (ref : DWord) (whole : Bool)
  | leaf (h : DWord) (most : Nat) (out : List Loc)
  | stat (ref : DWord) (k : Nat)
deriving DecidableEq, Repr

/-- An operation that has been issued and has not completed, with what its instruction's entry needs at completion. -/
inductive OpKind where
  | load (d n : Nat) (signed : Bool) (accs : List Access)
  | sload (d n : Nat) (acc : Access)
  | store (n : Nat) (accs : List (Access × DWord)) (scope : BitVec 2)
  | amo (op : AmoOp) (d : Nat) (accs : List (Access × Word × Word))
  | samo (op : AmoOp) (d : Nat) (acc : Access) (y cmp : DWord)
  | copy (j : CopyJob)
  | tld (t : Nat) (shape : DWord) (rows : List (List Span))
  | tst (t : Nat) (shape : DWord) (rows : List (List Span))
  | tzero (t : Nat)
  | accz (a : Nat)
  | accld (a row d : Nat) (live : Word)
  | mma (d ta tb : Nat) (zero : Bool) (sh : MmaShape) (members : List (Nat × Option Nat)) (due : List (Bool × Nat)) (done : Bool)
  | drain (a : Nat) (add bf16 : Bool) (fpctl : BitVec 3) (elems : List Access) (x : Option (List Word))
  | reel (die d : Nat) (j : ReelJob)
deriving DecidableEq, Repr

/-- What the threads of a host atomic have met so far (R149, R156): the faults, and the records of those that park. -/
structure HostFails where
  faults : List (Nat × BitVec 8 × DWord)
  parks : List (Nat × FaultRec)
deriving DecidableEq, Repr

/-- Who issued an operation: a group, or a packet that a hub's copy engine performs (R302). -/
inductive Owner where
  | group (k : GKey)
  | packet (id : Nat)
deriving DecidableEq, Repr

/-- An outstanding operation. `accepted` is its place in the matrix engine's acceptance order (R174). `quantum` is the quantum of
a communication operation of a deterministic launch that waits for its commit (R253). `records` are the fault records an engine access
waits on, `awaitVa` the address of that access, `failed` the fault that a FAIL response has given it (R289). `after` are earlier operations of other groups that are performed first (R246). `acq` and `rel` are the orders of R244; `host` marks an
atomic to home 10. `ghosts` are landing slots that have been freed since the operation was accepted, each with the number under which their bytes stand
for it (R203). `into` is the group that has taken the destination register with a block (R45); `sent` is when the hub's present request of a host atomic was
sent (R354, R357). -/
structure Op where
  id : Nat
  owner : Owner
  ctx : BitVec 16
  kind : OpKind
  acq : Bool
  rel : Bool
  host : Option HostFails
  accepted : Option Nat
  quantum : Option Nat
  records : List Nat
  failed : Option (BitVec 8)
  awaitVa : DWord
  after : List Nat
  ghosts : List (Nat × Nat)
  into : Option GKey
  sent : Nat
deriving DecidableEq, Repr

/-- A landing slot's state (R264) and bytes. -/
inductive SlotSt where
  | free
  | assigned (launch page : Nat)
  | landed (launch page : Nat)
  | held (launch page : Nat)
deriving DecidableEq, Repr

/-- A landing slot that is not in its reset state: cluster (die × 3 + cluster, R306), number, state, bytes. -/
structure Slot where
  cluster : Nat
  num : Nat
  st : SlotSt
  data : SMap 8
deriving DecidableEq, Repr

/-- A grid's creel allocation in a cluster (R262). One that has been `released` stands for the grid's accepted operations alone (R298,
R305). -/
structure Creel where
  launch : Nat
  cluster : Nat
  released : Bool
  data : SMap 8
deriving DecidableEq, Repr

/-- A context tag that is not FREE (R206, R211): LIVE, or RETIRING while its cells are reclaimed; with the partition and the address space
of the group that allocated it (R305). -/
structure Tag where
  tag : BitVec 16
  part : Nat
  asid : BitVec 16
  parent : BitVec 16
  depth : Nat
  holders : Nat
  retiring : Bool
deriving DecidableEq, Repr

/-- A cell (R274): the tag, the granule (home × 2^53 + physical address, divided by 64), its 64 bytes. `made` says that the first write
in the tag has been performed and has copied the ancestor's bytes; until then the cell is room kept for a write that has been issued
(R214, R276). -/
structure CtxCell where
  tag : BitVec 16
  granule : Nat
  data : SMap 8
  made : Bool
deriving DecidableEq, Repr

/-- The residency states of a tensor (R272). -/
inductive TensorSt where
  | absent
  | moving
  | resident
  | evicting
deriving DecidableEq, Repr

/-- A registered tensor (R269-R273). Ranges are home and byte address; `die` is that of the engine which makes the moves that touch no HBM; `source` is the home a move in flight reads. `waiters` are
the requests that stall under R272, oldest first; `watchers` are the groups that TNWAIT has suspended on it (R171); `movers` are the groups whose TNMOV or TNEVICT the move or eviction in flight carries
out (R116, R242). `records` are the fault records that the engine's accesses wait on, `broken` that one was answered FAIL (R289). -/
structure Tensor where
  part : Nat
  handle : Word
  size : Nat
  die : Nat
  hbmAt : Option (Nat × Nat)
  boardAt : Option Nat
  flashAt : Option Nat
  hbm : Bool
  board : Bool
  flash : Bool
  st : TensorSt
  target : Nat
  source : Nat
  pins : Nat
  last : Nat
  defer : Bool
  movers : List GKey
  watchers : List GKey
  waiters : List Owner
  packets : List Nat
  records : List Nat
  broken : Bool
deriving DecidableEq, Repr

/-- A live tree of a reel (R215, R217); no other tree ever has its `id`. Its nodes stand in memory at `pool`, an address of the launch's address space. -/
structure Tree where
  id : Nat
  die : Nat
  slot : Nat
  part : Nat
  asid : BitVec 16
  launch : Nat
  pool : DWord
  cap : Nat
  cpuct : Word
  vlv : Word
  fpu : Word
  bcap : Nat
  novl : Bool
  root : Option Nat
  batch : List Nat
  reserved : Nat
deriving DecidableEq, Repr

/-- An entry of a receive ring: its 16-byte header and its payload (R230). -/
structure RingEntry where
  header : BitVec 128
  payload : List Byte
deriving DecidableEq, Repr

/-- A bound receive ring (R230, R360) with its entries, oldest first, and the groups that wait in ORECV, oldest first. -/
structure Ring where
  num : Nat
  part : Nat
  asid : BitVec 16
  va : DWord
  log2 : Nat
  logical : Bool
  wr : Nat
  entries : List RingEntry
  waiters : List GKey
deriving DecidableEq, Repr

/-- A port's state for the ordered and logical classes (R347). -/
inductive PortSt where
  | fenced
  | joining
  | live
  | stalled
deriving DecidableEq, Repr

/-- A Penlia port (R337, R347, R350): its inbound state and watermarks, its link, and its outbound watermarks and sequence numbers.
`outSince` and `outLSince` are when its link last carried an ordered and a logical watermark (R345). `pausedOut` are the classes that the far
end pauses here. -/
structure Port where
  st : PortSt
  w : Nat
  lw : Nat
  late : Nat
  link : Bool
  peerDev : Nat
  peerPort : Nat
  outW : Nat
  outLW : Nat
  outSince : Nat
  outLSince : Nat
  seq : Nat
  lseq : Nat
  pausedOut : List PauseClass
deriving DecidableEq, Repr

/-- A message held for ordered delivery (R345, R346), with the port it came in on; 16 is the device's own injection. `sender` is the group of this
device that sent it (R242). -/
structure HeldMsg where
  port : Nat
  msg : Msg
  sender : Option GKey
deriving DecidableEq, Repr

/-- A message that waits for an output port, in the merge of its class (R345) or for the end of a pause (R338), with the input it came from; 16 is the device's own injection. `sender` is
the group of this device that sent it (R242). -/
structure OutMsg where
  input : Nat
  out : Nat
  msg : Msg
  sender : Option GKey
deriving DecidableEq, Repr

/-- What left the device on a Penlia port. -/
inductive Egress where
  | message (port : Nat) (m : Msg)
  | beacon (port w lw : Nat)
  | time (port : Nat) (t : Nat)
deriving DecidableEq, Repr

/-- An address space (R280): its stage-1 root, a home and a GPA. -/
structure ASpace where
  part : Nat
  asid : BitVec 16
  home : Nat
  gpa : Nat
deriving DecidableEq, Repr

/-- A stage-2 root (R280). -/
structure S2Root where
  part : Nat
  home : Nat
  rootHome : Nat
  rootPa : Nat
deriving DecidableEq, Repr

/-- A cached stage-1 or stage-2 leaf (R287): for stage 1 the ASID's 4 KiB VA page, for stage 2 the home's 4 KiB GPA page. -/
structure TlbEntry where
  stage2 : Bool
  part : Nat
  asid : BitVec 16
  home : Nat
  page : Nat
  out : Nat
  r : Bool
  w : Bool
  ct : Bool
  dt : Bool
  gen : Nat
deriving DecidableEq, Repr

/-- A partition: its quotas (R369), when its time slice began (R321), its fault queue (R288), its dump registers (R402). -/
structure Partition where
  id : Nat
  clusters : BitVec 24
  hbmQuota : SMap 64
  cellQuota : SMap 64
  tagQuota : Nat
  queueQuota : Nat
  creelQuota : Nat
  slice : Nat
  sliceFrom : Nat
  treeQuota : Nat
  drives : Word
  fqAddr : DWord
  fqLog2 : Option Nat
  fqWr : Nat
  fqHub : Nat
  dmpAsid : BitVec 16
  dmpEn : Bool
  dmpVa : DWord
  dmpSize : DWord
  dmpBytes : Word
  dmpMissed : BitVec 8
  dmpNested : Bool
  dmpTrunc : Bool
  dmpTaken : BitVec 16
deriving DecidableEq, Repr

/-- A function's BAR 0 registers, event ring and BAR 2 window, and the vectors it has raised (R358, R359, R367). -/
structure FnRegs where
  fn : Fn
  mgBase : DWord
  mgSize : Nat
  mgDb : Word
  mgRd : Word
  evAddr : DWord
  evLog2 : Option Nat
  evWr : Nat
  evLost : Bool
  bar2 : Option (BitVec 16 × DWord)
  vectors : List Nat
deriving DecidableEq, Repr

/-- A SIGNAL packet that has started and waits for earlier packets of its queue (R302). -/
structure PendingSignal where
  awaits : List Nat
  token : Nat
deriving DecidableEq, Repr

/-- A command queue (R300, R361). `turn` is its place in the round of the queues of its priority: the one with the lowest is served next (R301). -/
structure CmdQueue where
  part : Nat
  q : Nat
  hub : Nat
  ring : DWord
  log2 : Nat
  writeBack : DWord
  asid : BitVec 16
  prio : Nat
  kinds : List Nat
  ranges : List (Nat × Nat)
  preemptible : Bool
  deferUs : Nat
  rd : Word
  wr : Word
  halted : Bool
  running : List Nat
  signals : List PendingSignal
  turn : Nat
deriving DecidableEq, Repr

/-- A process's tokens (R302): the queues that share one address space. -/
structure Tokens where
  part : Nat
  asid : BitVec 16
  vals : SMap 64
deriving DecidableEq, Repr

/-- An error entry of a completion record (R366). -/
structure ErrEntry where
  tval : DWord
  epc : DWord
  team : Word
  member : Nat
  group : Nat
  cause : BitVec 8
deriving DecidableEq, Repr

/-- A packet that has started and whose completion record is not yet written (R303, R366). `bundle` names the bundle it is a member
of, and its index there; `open_` are the members of a bundle that still run. `move` are the handle and the target of a MOVE whose request stalls (R273). -/
structure Packet where
  id : Nat
  part : Nat
  q : Nat
  kind : Nat
  tag : BitVec 16
  recVa : DWord
  irq : Bool
  errCap : Nat
  bundle : Option (Nat × Nat)
  open_ : List Nat
  finished : Bool
  failed : Nat
  done : Nat
  errors : List ErrEntry
  detail : BitVec 16
  discarded : Bool
  move : Option (Word × Nat)
deriving DecidableEq, Repr

/-- The halt of a process whose error record is still to be written (R305): the partition, the queue, its hub, the address of the malformed packet, the
failed check, and the launches that it has ended. -/
structure Halt where
  part : Nat
  q : Nat
  hub : Nat
  slot : DWord
  check : Nat
  launches : List Nat
deriving DecidableEq, Repr

/-- A hank record (R408). -/
structure HankRec where
  seq : Nat
  kind : BitVec 8
  sev : BitVec 4
  part : BitVec 8
  die : BitVec 4
  boot : BitVec 8
  info0 : DWord
  info1 : DWord
  time : DWord
deriving DecidableEq, Repr

/-- A spindle's debug block (R386-R400): registers, profile counters (cell quad × 32 + number, numbered as R389 lists them in words),
trace slots, staged records, and what the trace keeps between records. -/
structure Dbg where
  spindle : Nat
  ctl : BitVec 12
  trq : BitVec 7
  trbase : DWord
  trsize : Nat
  trwp : DWord
  trfull : Bool
  freeze : Bool
  gsel : BitVec 7
  wpaddr : SMap 64
  wpcfg : SMap 64
  bpaddr : SMap 64
  bpcfg : SMap 64
  counters : SMap 64
  slots : List (Nat × Nat)
  staged : List (BitVec 128)
  lost : Nat
  sinceSync : Nat
  lastRec : Nat
  full : List Nat
deriving DecidableEq, Repr

/-- A write a debugger made in the group window, to take effect when the group resumes (R400). -/
structure WindowWrite where
  key : GKey
  off : Nat
  v : DWord
deriving DecidableEq, Repr

/-- A key slot of the memory encryption unit (R374): a generation number stands for the key, which nothing can read. -/
structure KeySlot where
  num : Nat
  gen : Nat
deriving DecidableEq, Repr

/-- A Read that the device has submitted for a page and that has not completed (R363, R372): 16 KiB from the block `lba` of a namespace of a drive,
into a landing slot. -/
structure NvmeRead where
  launch : Nat
  page : Nat
  drive : Nat
  ns : Nat
  lba : Nat
  cluster : Nat
  slot : Nat
deriving DecidableEq, Repr

/-- The firmware image that runs and the fused counter (R375-R377). `next` is the image that FWLOAD has written to the boot region, `writing` the
one it is writing, with the function that gave the command and the commit flag; `broken` says that a write was interrupted. -/
structure Firmware where
  version : Word
  svn : Word
  fuse : Word
  bodyHash : List Byte
  next : Option (Word × Word × List Byte)
  writing : Option (Fn × (Word × Word × List Byte) × Bool)
  broken : Bool
  recovery : Option (BitVec 8)
deriving DecidableEq, Repr

/-- A write of the boot region that a reset interrupts (R377). -/
def Firmware.interrupted (f : Firmware) : Firmware :=
  if f.writing.isSome then { f with next := none, writing := none, broken := true } else f

/-- An import binding (R340). -/
structure Import where
  srcDev : Nat
  srcPart : Nat
  part : Nat
  asid : BitVec 16
deriving DecidableEq, Repr

/-- A peer's request that waits for the answer to a fault record of its import address space (R340): the record, the device and the address.
`answer` is an answer that is held back, with whether it is FAIL, while the replies to the device are paused (R338). -/
structure PeerWait where
  record : Nat
  dev : Nat
  va : DWord
  answer : Option Bool
deriving DecidableEq, Repr

/-- What a host or a peer got back from one of its accesses: the bytes read, or UR (R358), or a fault cause (R340). `released` is the later
answer to a request of device `dev` at an address that has answered PAGE: the request is made again, or, failed, its thread gets ADDR (R289,
R340). -/
inductive Reply where
  | data (bytes : List Byte)
  | done
  | ur
  | fault (cause : BitVec 8)
  | released (dev : Nat) (va : DWord) (failed : Bool)
deriving DecidableEq, Repr

/-- An NVMe command that was passed through and has not completed (R372). -/
structure PassCmd where
  drive : Nat
  cpl : DWord
  cmd : List Byte
deriving DecidableEq, Repr

/-- One entry of the order in which the device's agents move: an event that a unit, the host or the fabric brings about; an issue
slot of a group, or of a merged pair (R317); time passing, in units of pod time; a read of the debug window by the host (R386). -/
inductive Move where
  | event (i : Instr)
  | issue (k : GKey)
  | pair (a b : GKey)
  | tick (n : Nat)
  | debugRead (off n : Nat)
deriving DecidableEq, Repr

/-- The device. `now` is pod time in units of 0.5 ns; `ticks` counts the units that have passed, which a time master does not steer
(R341); `cycles` counts tenths of arithmetic cycles (R1, R379); `laneBusy` is the value of `cycles`
at which lane n of spindle p, cell p × 32 + n, has spent what is charged to it (R125, R316). `byteGen` is the
generation of the key under which a byte of `mem` was written, 2^32 - 1 where a write of its block under another key has lost it (R373). `steer`
is how far the time master's count was
ahead of this device's at its last beacon, less what the device has steered since (R341). `hankFlash` is the hank's copy in flash, a record for each of its slots (R407). `metaNs` are the drives and namespaces that bring-up has
found formatted with metadata (R371); `nextTurn` counts what the front ends have served (R301). -/
structure State where
  agenda : List Move
  grp : Group
  team : Team
  grid : Grid
  groups : List Group
  teams : List Team
  grids : List Grid
  ops : List Op
  nextOp : Nat
  nextAccept : Nat
  nextLaunch : Nat
  nextPacket : Nat
  nextAge : Nat
  fresh : Nat
  now : Nat
  ticks : Nat
  cycles : Nat
  nextPromo : Nat
  laneBusy : SMap 64
  mem : SMap 8
  byteGen : SMap 32
  ecc : List Loc
  poison : List Loc
  aborting : List Loc
  peerFaults : List (Nat × BitVec 8)
  slots : List Slot
  creels : List Creel
  tags : List Tag
  cells : List CtxCell
  cellStore : SMap 64
  ctxWaiters : List GKey
  tensors : List Tensor
  trees : List Tree
  rings : List Ring
  ports : List Port
  holdBuf : List HeldMsg
  outBuf : List OutMsg
  egress : List Egress
  floor : Nat
  stallUs : Nat
  tmaster : Bool
  synced : Bool
  steer : Int
  devId : Nat
  dropUnbound : Word
  dropKind : Word
  routes : SMap 16
  imports : List Import
  aspaces : List ASpace
  s2roots : List S2Root
  tlb : List TlbEntry
  records : List FaultRec
  nextRecord : Nat
  nextTree : Nat
  parts : List Partition
  fns : List FnRegs
  queues : List CmdQueue
  tokens : List Tokens
  packets : List Packet
  keys : List KeySlot
  nextKey : Nat
  firmware : Firmware
  pstate : Nat
  warnTemp : Nat
  power : DWord
  temp : SMap 16
  cxl : List Nat
  cxlBase : Nat
  cxlSize : Nat
  atomicsOff : List Nat
  /-- Device Control 2 [4:0] of each hub's link: the completion timeout and its disabling bit (R354). -/
  cto : SMap 5
  replies : List Reply
  peerWaits : List PeerWait
  nvmeMs : SMap 64
  passing : List PassCmd
  nvmeReads : List NvmeRead
  metaNs : List (Nat × Nat)
  nextTurn : Nat
  halts : List Halt
  dbg : List Dbg
  windowWrites : List WindowWrite
  hank : List HankRec
  hankFlash : List HankRec
  hankHead : Nat
  boots : BitVec 8
  linkDown : List Link
  off : Bool
deriving DecidableEq, Repr

/-- Why a step stops. -/
inductive Fault where
  /-- Raised by `step` when the agenda holds, as an event, an instruction word: no agent of the device delivers an instruction as an
  event, so no such agenda describes a run. Safe: the machine stops where no hardware goes. -/
  | notAnEvent
deriving DecidableEq, Repr

/-- Why an instruction has no meaning in this model. -/
inductive Refusal where
  /-- An instruction whose meaning has not been written. Raised by a refused arm of `exec`. Safe: the machine stops. -/
  | notModelled (mnemonic : String)
deriving DecidableEq, Repr

/-- No flag set (R26). -/
def CC.zero : CC := ⟨false, false, false, false⟩

/-- A group's state at launch as far as R43 gives every group the same value; `phase` says that there is no such group yet. -/
def Group.initial : Group where
  key := ⟨0, 0, 0⟩
  phase := .absent
  role := 0
  quad := 0
  laneInQuad := 0
  laneSlot := 0
  priv := false
  pc := 0
  live := 0xFFFFFFFF
  masks := []
  sregs := []
  vregs := []
  alloc := 1
  winbase := 0
  cc := .zero
  gang := 0
  fpctl := 0
  cntL := 0
  cntS := 0
  cntC := 0
  cntT := 0
  clk := 0
  ctx := 0
  bwto := 10000
  tvec := 0
  epc := 0
  tcause := 0
  tval := 0
  unf := 0
  tgroup := 0
  replay := false
  ppriv := false
  intrap := false
  wpHit := 0
  wpEn := 0
  batchOpen := 0
  batchPend := []
  curBatch := none
  copyCount := 0
  copyCode := 0
  copyWhere := 0
  wait := .none
  replayMask := none
  park := none
  held := none
  heldTrap := none
  posted := none
  haltedBy := []
  stopped := false
  stepping := false
  bpSkip := none
  decoded := none
  hits := none
  hitsTrap := none
  eccPend := []
  mtxAfter := []
  lastSend := 0
  lastRecv := 0
  set := .active
  order := 0
  age := 0
  eligCycles := 0
  promoted := none
  stallAt := 0
  commAt := []
  commCnt := 0
  heldFree := false
  pcNext := none
  atHalt := none

/-- A queue at launch that no `.queue` names (R30). -/
def Queue.initial : Queue := ⟨false, 0, [], [], []⟩

/-- A barrier at launch (R109). -/
def Barrier.initial : Barrier := ⟨0, 0, 0, 0⟩

/-- No team (R43 for the values a team begins with). -/
def Team.initial : Team where
  key := ⟨0, 0⟩
  phase := .absent
  spindle := 0
  base := 0
  pgidx := 0
  pstat := 0
  slot := 0
  slotFreed := false
  pageTrapped := false
  ngroups := 0
  scratchBytes := 0
  scratch := []
  tagSlots := 0
  tags := []
  tileWin := 0
  tshape := List.replicate 16 0
  tqueue := List.replicate 16 0xF
  tiles := []
  accCount := 0
  accs := []
  queues := List.replicate 16 .initial
  barriers := List.replicate 16 .initial
  latches := []
  placed := 0
  endRec := none
  dumping := false
  preempt := none
  saving := false
  forced := false

/-- An empty launch description. -/
def LaunchDesc.initial : LaunchDesc := ⟨0, 0, 0, 0, 0, none, [], [], [], []⟩

/-- No grid. -/
def Grid.initial : Grid where
  id := 0
  packet := 0
  part := 0
  asid := 0
  queue := 0
  hub := 0
  tag := 0
  prio := 0
  source := .memory
  policy := .fault
  hold := false
  det := false
  codeBase := 0
  codeLen := 0
  code := []
  dataBase := 0
  args := 0
  ctx := 0
  creelBytes := 0
  clusters := 0
  desc := .initial
  pages := []
  nextCluster := 0
  arrivals := 0
  detSends := []
  progress := 0
  ended := true

/-- A port at reset: FENCED, its link not trained (R347, R350). -/
def Port.initial : Port := ⟨.fenced, 0, 0, 0, false, 0, 0, 0, 0, 0, 0, 0, 0, []⟩

/-- A partition whose resources are all 0 (R369) and whose dump is not armed (R402). -/
def Partition.initial (id : Nat) : Partition :=
  ⟨id, 0, [], [], 0, 0, 0, 0, 0, 0, 0, 0, none, 0, 0, 0, false, 0, 0, 0, 0, false, false, 0⟩

/-- A partition's shares and queues as when its function is enabled; its dump registers are the PF's (R370, R386, R402). -/
def Partition.cleared (p : Partition) : Partition :=
  { Partition.initial p.id with
    dmpAsid := p.dmpAsid
    dmpEn := p.dmpEn
    dmpVa := p.dmpVa
    dmpSize := p.dmpSize
    dmpBytes := p.dmpBytes
    dmpMissed := p.dmpMissed
    dmpNested := p.dmpNested
    dmpTrunc := p.dmpTrunc
    dmpTaken := p.dmpTaken }

/-- A function whose rings are not set (R359, R367). -/
def FnRegs.initial (fn : Fn) : FnRegs := ⟨fn, 0, 0, 0, 0, 0, none, 0, false, none, []⟩

/-- A debug block at reset (R389, R390, R397-R399); TRSIZE is 8. -/
def Dbg.initial (spindle : Nat) : Dbg :=
  ⟨spindle, 0, 0, 0, 8, 0, false, false, 0, [], [], [], [], [], [], [], 0, 0, 0, []⟩

/-- The device right after fundamental reset and bring-up (R382): no launch, no queue, no address space, every port FENCED, every
context tag FREE, memory zero (R382 step 3), every device register at the reset value its map gives, power state 0. -/
def State.reset : State where
  agenda := []
  grp := .initial
  team := .initial
  grid := .initial
  groups := []
  teams := []
  grids := []
  ops := []
  nextOp := 0
  nextAccept := 0
  nextLaunch := 1
  nextPacket := 1
  nextAge := 0
  fresh := 0
  now := 0
  ticks := 0
  cycles := 0
  nextPromo := 0
  laneBusy := []
  mem := []
  byteGen := []
  ecc := []
  poison := []
  aborting := []
  peerFaults := []
  slots := []
  creels := []
  tags := []
  cells := []
  cellStore := []
  ctxWaiters := []
  tensors := []
  trees := []
  rings := []
  ports := List.replicate 16 .initial
  holdBuf := []
  outBuf := []
  egress := []
  floor := 0
  stallUs := 50
  tmaster := false
  synced := false
  steer := 0
  devId := 0
  dropUnbound := 0
  dropKind := 0
  routes := []
  imports := []
  aspaces := []
  s2roots := []
  tlb := []
  records := []
  nextRecord := 0
  nextTree := 0
  parts := []
  fns := []
  queues := []
  tokens := []
  packets := []
  keys := []
  nextKey := 1
  firmware := ⟨0, 0, 0, List.replicate 64 0, none, none, false, none⟩
  pstate := 0
  warnTemp := 0
  power := 0
  temp := []
  cxl := []
  cxlBase := 0
  cxlSize := 0
  atomicsOff := [0, 1]
  cto := []
  replies := []
  peerWaits := []
  nvmeMs := []
  passing := []
  nvmeReads := []
  metaNs := []
  nextTurn := 0
  halts := []
  dbg := []
  windowWrites := []
  hank := []
  hankFlash := []
  hankHead := 0
  boots := 0
  linkDown := []
  off := false

end Sys2Proof.Machine
end

