-- ==== Sys2Proof/Machine/Access.lean ====
section
/-! DEFINITION. Finding and changing the parts of the state: registers, masks and vector elements of a group (R20-R24), groups, teams,
grids and the other numbered things of the device. -/

namespace Sys2Proof.Machine

/-- Reads scalar register `n`; s127 reads as zero (R23). -/
def getS (g : Group) (n : Nat) : DWord := if n = 127 then 0 else mget g.sregs n

/-- Writes scalar register `n`; a write to s127 is discarded (R23). -/
def setS (n : Nat) (v : DWord) (g : Group) : Group :=
  if n = 127 then g else { g with sregs := mset g.sregs n v }

/-- Reads mask `n`; k0 is LIVE (R24). -/
def getK (g : Group) (n : Nat) : Word := if n = 0 then g.live else mget g.masks n

/-- Writes mask `n` of k1-k7 (R24). -/
def setK (n : Nat) (v : Word) (g : Group) : Group := { g with masks := mset g.masks n v }

/-- The register of the allocation that name `n` denotes (R20). -/
def vreg (g : Group) (n : Nat) : Nat := g.winbase.toNat * 16 + n

/-- Element `t` of vector register `n` (R20). -/
def getV (g : Group) (n t : Nat) : Word := mget g.vregs (vreg g n * 32 + t)

/-- Writes element `t` of vector register `n`. -/
def setV (n t : Nat) (v : Word) (g : Group) : Group :=
  { g with vregs := mset g.vregs (vreg g n * 32 + t) v }

/-- The pair of registers `n`, `n + 1` (R21). -/
def getV64 (g : Group) (n t : Nat) : DWord := getV g (n + 1) t ++ getV g n t

/-- Writes the pair of registers `n`, `n + 1` (R21). -/
def setV64 (n t : Nat) (v : DWord) (g : Group) : Group :=
  setV (n + 1) t (v.extractLsb' 32 32) (setV n t (v.extractLsb' 0 32) g)

/-- A vector source operand of 32 bits; fields 96-127 name s0-s31 (R22). -/
def opnd32 (g : Group) (n t : Nat) : Word :=
  if 96 ≤ n then (getS g (n - 96)).extractLsb' 0 32 else getV g n t

/-- A vector source operand of 64 bits (R21, R22). -/
def opnd64 (g : Group) (n t : Nat) : DWord :=
  if 96 ≤ n then getS g (n - 96) else getV64 g n t

/-- The mask a guard field selects (R25). -/
def guardOf (g : Group) (gd : BitVec 2) : Word :=
  if gd = 0 then g.live else g.live &&& getK g gd.toNat

/-- The threads on which an instruction acts: LIVE & guard, and at a replay the unfinished threads alone (R25, R119, R149). -/
def actOf (g : Group) (gd : BitVec 2) : Word :=
  guardOf g gd &&& g.replayMask.getD 0xFFFFFFFF

/-- The threads of a mask, lowest first. -/
def threads (m : Word) : List Nat := (List.range 32).filter fun t => tbit m t

/-- The group's index among the flags of CC as SMFS reads them (R26). -/
def CC.bits (c : CC) : DWord :=
  BitVec.ofNat 64 (8 * bitOf c.z + 4 * bitOf c.n + 2 * bitOf c.c + bitOf c.v)

/-- Flags from bits [3:0] (R26). -/
def ccOf (x : DWord) : CC := ⟨tbit x 3, tbit x 2, tbit x 1, tbit x 0⟩

/-- The flags Z and C of an outcome: Z alone for success, C alone for failure (R108, R165). -/
def ccOk (ok : Bool) : CC := ⟨ok, false, !ok, false⟩

/-- The counter of a class (R33). -/
def Group.cnt (g : Group) : CntClass → Nat
  | .load => g.cntL
  | .store => g.cntS
  | .copy => g.cntC
  | .tile => g.cntT

/-- Sets the counter of a class. -/
def setCnt (c : CntClass) (n : Nat) (g : Group) : Group :=
  match c with
  | .load => { g with cntL := n }
  | .store => { g with cntS := n }
  | .copy => { g with cntC := n }
  | .tile => { g with cntT := n }

/-- Raises a counter. -/
def cntUp (c : CntClass) (g : Group) : Group := setCnt c (g.cnt c + 1) g

/-- Lowers a counter. -/
def cntDown (c : CntClass) (g : Group) : Group := setCnt c (g.cnt c - 1) g

/-- The stall reason that names a class (R103). -/
def CntClass.reason : CntClass → Reason
  | .load => .load
  | .store => .store
  | .copy => .copy
  | .tile => .tile

/-- The classes of R103 whose counter exceeds its bound, the first of them. -/
def overBound (g : Group) (l st c t : Nat) : Option Reason :=
  if l < g.cntL then some .load
  else if st < g.cntS then some .store
  else if c < g.cntC then some .copy
  else if t < g.cntT then some .tile
  else none

/-- Changes the issuing group. -/
def onGrp (f : Group → Group) (s : State) : State := { s with grp := f s.grp }

/-- Changes the issuing group's team. -/
def onTeam (f : Team → Team) (s : State) : State := { s with team := f s.team }

/-- Changes the issuing group's grid. -/
def onGrid (f : Grid → Grid) (s : State) : State := { s with grid := f s.grid }

/-- The team a group belongs to. -/
def tkeyOf (k : GKey) : TKey := ⟨k.launch, k.team⟩

/-- All groups the device knows, the issuing one first. -/
def allGroups (s : State) : List Group :=
  (if s.grp.phase = .absent then [] else [s.grp]) ++ s.groups

/-- All teams the device knows. -/
def allTeams (s : State) : List Team :=
  (if s.team.phase = .absent then [] else [s.team]) ++ s.teams

/-- All grids the device knows. -/
def allGrids (s : State) : List Grid :=
  (if s.grid.id = 0 then [] else [s.grid]) ++ s.grids

/-- The group of a key. -/
def findGroup (s : State) (k : GKey) : Option Group := (allGroups s).find? fun g => g.key = k

/-- The team of a key. -/
def findTeam (s : State) (k : TKey) : Option Team := (allTeams s).find? fun t => t.key = k

/-- The grid of a launch. -/
def findGrid (s : State) (n : Nat) : Option Grid := (allGrids s).find? fun g => g.id = n

/-- Changes the group of a key. -/
def updGroup (k : GKey) (f : Group → Group) (s : State) : State :=
  if s.grp.key = k ∧ s.grp.phase ≠ .absent then { s with grp := f s.grp }
  else { s with groups := updFirst (fun g => g.key = k) f s.groups }

/-- Changes the team of a key. -/
def updTeam (k : TKey) (f : Team → Team) (s : State) : State :=
  if s.team.key = k ∧ s.team.phase ≠ .absent then { s with team := f s.team }
  else { s with teams := updFirst (fun t => t.key = k) f s.teams }

/-- Changes the grid of a launch. -/
def updGrid (n : Nat) (f : Grid → Grid) (s : State) : State :=
  if s.grid.id = n then { s with grid := f s.grid }
  else { s with grids := updFirst (fun g => g.id = n) f s.grids }

/-- Changes every group for which `p` holds. -/
def updGroups (p : Group → Bool) (f : Group → Group) (s : State) : State :=
  let h := fun g => if p g then f g else g
  { s with grp := (if s.grp.phase = .absent then s.grp else h s.grp), groups := s.groups.map h }

/-- The groups of a team. -/
def groupsOf (s : State) (k : TKey) : List Group := (allGroups s).filter fun g => tkeyOf g.key = k

/-- Makes group `k`, its team and its grid the issuing ones. -/
def checkout (k : GKey) (s : State) : State :=
  match findGroup s k, findTeam s (tkeyOf k), findGrid s k.launch with
  | some g, some t, some d =>
    { s with
      grp := g
      groups := (allGroups s).filter fun x => x.key ≠ k
      team := t
      teams := (allTeams s).filter fun x => x.key ≠ (tkeyOf k)
      grid := d
      grids := (allGrids s).filter fun x => x.id ≠ k.launch }
  | _, _, _ => s

/-- The cluster (die × 3 + cluster in die) of a spindle number (R306, R386). -/
def clusterOf (spindle : Nat) : Nat := spindle / 24

/-- The die of a spindle number. -/
def dieOf (spindle : Nat) : Nat := spindle / 72

/-- A spindle number in the SPINDLE format (R35). -/
def spindleFmt (n : Nat) : Nat := n / 72 * 256 + n / 24 % 3 * 32 + n % 24

/-- GID (R35). -/
def gidOf (k : GKey) : Nat := k.team * 32 + k.idx

/-- QUANT (R35). -/
def quantOf (g : Group) : Nat := g.clk.toNat / 4096

/-- The partition of an identifier; one without resources where the PF has set none (R369). -/
def partOf (s : State) (p : Nat) : Partition := (s.parts.find? fun x => x.id = p).getD (.initial p)

/-- Changes a partition. -/
def updPart (p : Nat) (f : Partition → Partition) (s : State) : State :=
  if s.parts.any fun x => x.id = p then { s with parts := updFirst (fun x => x.id = p) f s.parts }
  else { s with parts := s.parts ++ [f (.initial p)] }

/-- The debug block of a spindle. -/
def dbgOf (s : State) (n : Nat) : Dbg := (s.dbg.find? fun x => x.spindle = n).getD (.initial n)

/-- Changes the debug block of a spindle. -/
def updDbg (n : Nat) (f : Dbg → Dbg) (s : State) : State :=
  if s.dbg.any fun x => x.spindle = n then { s with dbg := updFirst (fun x => x.spindle = n) f s.dbg }
  else { s with dbg := s.dbg ++ [f (.initial n)] }

/-- The registers of a function. -/
def fnOf (s : State) (fn : Fn) : FnRegs := (s.fns.find? fun x => x.fn = fn).getD (.initial fn)

/-- Changes the registers of a function. -/
def updFn (fn : Fn) (f : FnRegs → FnRegs) (s : State) : State :=
  if s.fns.any fun x => x.fn = fn then { s with fns := updFirst (fun x => x.fn = fn) f s.fns }
  else { s with fns := s.fns ++ [f (.initial fn)] }

/-- A port. -/
def portOf (s : State) (n : Nat) : Port := s.ports.getD n .initial

/-- Changes a port. -/
def updPort (n : Nat) (f : Port → Port) (s : State) : State := { s with ports := s.ports.modify n f }

/-- Changes the operation of an identifier. -/
def updOp (id : Nat) (f : Op → Op) (s : State) : State :=
  { s with ops := updFirst (fun o => o.id = id) f s.ops }

/-- The operation of an identifier. -/
def findOp (s : State) (id : Nat) : Option Op := s.ops.find? fun o => o.id = id

/-- Removes an operation. -/
def dropOp (id : Nat) (s : State) : State := { s with ops := s.ops.filter fun o => o.id ≠ id }

/-- Whether an operation belongs to a group. -/
def Op.of (o : Op) (k : GKey) : Bool := o.owner = .group k

/-- Changes the packet of an identifier. -/
def updPacket (id : Nat) (f : Packet → Packet) (s : State) : State :=
  { s with packets := updFirst (fun p => p.id = id) f s.packets }

/-- Takes the number of the next free value. -/
def nextFree (s : State) : State := { s with fresh := s.fresh + 1 }

/-- Whether the hub and the fabric are off (R379): in P4 nothing but the PF's configuration space answers. -/
def dark (s : State) : Bool := s.pstate = 4

/-- Changes the tensor of a partition and a handle. -/
def updTensor (part : Nat) (h : Word) (f : Tensor → Tensor) (s : State) : State :=
  { s with tensors := updFirst (fun t => t.part = part ∧ t.handle = h) f s.tensors }

/-- The tensor of a partition and a handle. -/
def findTensor (s : State) (part : Nat) (h : Word) : Option Tensor :=
  s.tensors.find? fun t => t.part = part ∧ t.handle = h

/-- Adds a record to the hank, in the place of the one that its slot held (R407, R408). -/
def hankAdd (kind : BitVec 8) (sev : BitVec 4) (part : BitVec 8) (die : BitVec 4) (info0 info1 : DWord) (s : State) : State :=
  let r : HankRec := ⟨s.hankHead, kind, sev, part, die, s.boots, info0, info1, BitVec.ofNat 64 s.now⟩
  { s with hank := (s.hank.filter fun x => x.seq % 4096 ≠ s.hankHead % 4096) ++ [r], hankHead := s.hankHead + 1 }

/-- The hank's records reach flash, each in its slot (R407). -/
def mirrorHank (s : State) : State :=
  { s with hankFlash := (s.hankFlash.filter fun x => s.hank.all fun r => r.seq % 4096 ≠ x.seq % 4096) ++ s.hank }

end Sys2Proof.Machine
end

