-- ==== Sys2Proof/Machine/Sched.lean ====
section
/-! DEFINITION. Lanes and their sets of groups (R315-R319): which group holds the active place, the pending order, giving the place up. -/

namespace Sys2Proof.Machine

/-- Whether a group's place is on the lane of another group: same spindle, quad and lane; a team that does not run has no place. -/
def sameLane (s : State) (a b : Group) : Bool :=
  a.quad = b.quad && a.laneInQuad = b.laneInQuad &&
    (match findTeam s (tkeyOf a.key), findTeam s (tkeyOf b.key) with
    | some t, some u => t.spindle = u.spindle && t.phase = .running && u.phase = .running
    | _, _ => false)

/-- Whether a group's team runs, so that its waits may end. -/
def teamRuns (s : State) (k : GKey) : Bool := match findTeam s (tkeyOf k) with | some t => t.phase = .running | none => false

/-- Whether a group's team has neither ended nor been released: its waits go on, also while it is saved or swapped out (R197, R202, R298, R323). -/
def teamLives (s : State) (k : GKey) : Bool :=
  match findTeam s (tkeyOf k) with
  | some t => t.phase = .running || t.phase = .saved || t.phase = .swapped
  | none => false

/-- Whether a group's team runs and has not stopped for a save (R298, R323). -/
def teamIssues (s : State) (k : GKey) : Bool :=
  match findTeam s (tkeyOf k) with
  | some t => t.phase = .running && !t.saving
  | none => false

/-- Whether a group may issue as far as halts, stops, parks, its team and its life go (R121, R290, R298, R323, R396). -/
def mayIssue (s : State) (g : Group) : Bool :=
  g.phase = .running && !g.stopped && g.haltedBy.isEmpty && g.set != .suspended &&
    (match g.park with | some p => p.eligible | none => true) && teamIssues s g.key

/-- Whether a group replays a parked instruction, which it does although it is halted or stopped (R121, R396). -/
def replaying (s : State) (g : Group) : Bool :=
  g.phase = .running && g.park.isSome && g.replayMask.isSome && g.set != .suspended && teamIssues s g.key

/-- The number of a group's lane on the device. -/
def laneOf (s : State) (g : Group) : Nat :=
  ((findTeam s (tkeyOf g.key)).map (·.spindle)).getD 0 * 32 + g.laneInQuad * 4 + g.quad

/-- Whether a group's lane has spent every cycle charged to it (R125, R316). -/
def laneFree (s : State) (g : Group) : Bool := decide ((mget s.laneBusy (laneOf s g)).toNat ≤ s.cycles)

/-- R316: a group whose next instruction has no stall outstanding, and whose lane has spent its cycles. Between two moves `wait` says whether the next
instruction stalls, tried or not (`refresh`). A stopped or a halted group is not eligible, also in a parked replay, which goes on without it (R121,
R396). -/
def eligible (s : State) (g : Group) : Bool := mayIssue s g && g.wait = .none && laneFree s g

/-- The largest place in any pending order. -/
def lastOrder (s : State) : Nat := (allGroups s).foldl (fun m g => max m g.order) 0

/-- The first eligible group in the pending order of a group's lane (R315). -/
def nextPending (s : State) (g : Group) : Option Group :=
  ((allGroups s).filter fun x => x.key != g.key && x.set = .pending && sameLane s g x && eligible s x).foldl
    (fun m x => match m with | none => some x | some y => if x.order < y.order then some x else some y) none

/-- Puts a group at the back of its lane's pending order (R315). -/
def toBack (k : GKey) (s : State) : State :=
  let n := lastOrder s + 1
  updGroup k (fun g => { g with set := .pending, order := n }) s

/-- Puts a group ahead of every pending group that is not promoted (R320); a promoted one takes its place without regard to the order. -/
def toFront (k : GKey) (s : State) : State :=
  updGroup k (fun g => { g with set := .pending, order := 0 }) (updGroups (fun _ => true) (fun g => { g with order := g.order + 1 }) s)

/-- Gives the active place of a lane to a group. -/
def toActive (k : GKey) (s : State) : State := updGroup k (fun g => { g with set := .active }) s

/-- YIELD (R106): the place goes to the first eligible pending group, and the yielding group behind the others. -/
def yieldPlace (s : State) : State :=
  match nextPending s s.grp with
  | some x => toActive x.key (toBack s.grp.key s)
  | none => s

/-- The place is given up whether or not another group is eligible (R106). -/
def leavePlace (s : State) : State :=
  let n := nextPending s s.grp
  let s := toBack s.grp.key s
  match n with
  | some x => toActive x.key s
  | none => s

/-- A group leaves the active and pending sets (R315). -/
def suspend (k : GKey) (s : State) : State := updGroup k (fun g => { g with set := .suspended }) s

/-- A group returns from suspension to the back of its lane's pending order (R315). -/
def unsuspend (k : GKey) (s : State) : State :=
  match findGroup s k with
  | some g => if g.set = .suspended then toBack k s else s
  | none => s

/-- Whether no group holds the active place of a group's lane (R315). -/
def placeEmpty (s : State) (g : Group) : Bool :=
  !(allGroups s).any fun x => x.key != g.key && x.set = .active && (x.phase = .running || x.phase = .exiting) && sameLane s g x

/-- An empty active place goes at once to the first eligible group in its lane's pending order (R315). -/
def fillPlaces (s : State) : State :=
  ((allGroups s).filter fun g => g.set = .pending && eligible s g).foldl (fun s g =>
    if placeEmpty s g && (match nextPending s g with | some x => g.order ≤ x.order | none => true) then toActive g.key s else s) s

end Sys2Proof.Machine
end

