-- ==== Sys2Proof/Machine/Fetch.lean ====
section
/-! DEFINITION. Fetch: the word at an address of the launch's code copy (R50), and how a word is put where the next step fetches it. -/

namespace Sys2Proof.Machine

/-- The instruction word at the issuing group's PC, from the code copy of its launch; nothing outside the section (R50). -/
def fetchWord (s : State) : Option Word :=
  let d := s.grid
  let off := s.grp.pc.toNat - d.codeBase.toNat
  if d.codeBase.toNat ≤ s.grp.pc.toNat ∧ off + 4 ≤ d.codeLen ∧ off % 4 = 0 then some (mget d.code (off / 4)) else none

/-- The bits of an instruction as the opcode table numbers them: one word, bit 0 the least significant (R49). -/
def tableWord (nbits w : Nat) : Word := BitVec.ofNat 32 (if nbits < 32 then w % 2 ^ nbits else w)

/-- Where `placeWord` puts a program in a machine that runs none. -/
def probeBase : DWord := 0x1000

/-- A launch of one memory page whose one team runs on spindle 0, with a code section of 64 KiB. -/
def probeGrid (s : State) : Grid :=
  { Grid.initial with
    id := s.nextLaunch
    hold := true
    codeBase := probeBase
    codeLen := 0x10000
    desc := { LaunchDesc.initial with groups := 1 }
    pages := [⟨0, 0, .running, 0x10000, none, none, (0, 0)⟩]
    ended := false }

/-- Its team, with one group. -/
def probeTeam (s : State) : Team :=
  { Team.initial with key := ⟨s.nextLaunch, 0⟩, phase := .running, pstat := 0x10000, ngroups := 1, placed := s.now }

/-- Its group at the first instruction, in the state of R43. -/
def probeGroup (s : State) : Group :=
  { Group.initial with
    key := ⟨s.nextLaunch, 0, 0⟩
    phase := .running
    pc := probeBase
    alloc := 8 }

/-- A machine in which a group stands ready to issue: itself where its issuing group does, else with the launch of `probeGrid` placed. -/
def withProbe (s : State) : State :=
  if mayIssue s s.grp && (fetchWord s).isSome then s
  else { s with
    grp := probeGroup s, groups := allGroups s
    team := probeTeam s, teams := allTeams s
    grid := probeGrid s, grids := allGrids s
    nextLaunch := s.nextLaunch + 1 }

/-- The issuing group holds its lane's active place, the lane has spent its cycles, and of the groups of its quad it is the one that R316 lets
issue: where there are others, as the longest promoted. -/
def withSlot (s : State) : State :=
  let others := s.groups.map fun g => { g with
    promoted := g.promoted.map (· + 1)
    set := if g.set = .active && sameLane s s.grp g then .pending else g.set }
  onGrp (fun g => { g with set := .active, promoted := if s.groups.isEmpty then none else some 0 })
    { s with groups := others, nextPromo := if s.groups.isEmpty then s.nextPromo else s.nextPromo + 1, laneBusy := mset s.laneBusy (laneOf s s.grp) 0 }

/-- The word stored where the issuing group fetches, and nothing in the way of its issue. -/
def placeWord (w : Word) (s : State) : State :=
  let s := withProbe s
  let n := (s.grp.pc.toNat - s.grid.codeBase.toNat) / 4
  let s := onGrid (fun d => { d with code := mset d.code n w }) { s with agenda := [], off := false }
  let s := updDbg s.team.spindle (fun d => { d with bpcfg := [] }) s
  withSlot (onGrp (fun g => { g with
    wait := .none, posted := none, park := none, replayMask := none, decoded := none, hits := none
    live := if g.live = 0 then 0xFFFFFFFF else g.live }) s)

end Sys2Proof.Machine
end

