-- ==== Sys2Proof/Machine/Flags.lean ====
section
/-! DEFINITION. The condition flags: the compares that set them (R94), the branch conditions that read them (R61), and the outcomes
that instructions report in them. -/

namespace Sys2Proof.Machine

/-- The flags of a signed compare (R94). -/
def cmpFlags (x y : DWord) : CC :=
  let d := x - y
  ⟨d = 0, d.msb, y.ule x, x.msb != y.msb && d.msb != x.msb⟩

/-- The flags of an unsigned compare (R94). -/
def cmpuFlags (x y : DWord) : CC := ⟨x - y = 0, x.ult y, y.ule x, false⟩

/-- Whether a branch condition holds (R61); codes 0-14 test CC, 16-31 a mask. -/
def condHolds (g : Group) (c : Nat) : Bool :=
  let f := g.cc
  if 24 ≤ c then getK g (c - 24) &&& g.live != 0
  else if 16 ≤ c then getK g (c - 16) &&& g.live == 0
  else match c with
    | 0 => true
    | 1 => f.z
    | 2 => !f.z
    | 3 => f.n != f.v
    | 4 => f.n == f.v
    | 5 => f.z || f.n != f.v
    | 6 => !f.z && f.n == f.v
    | 7 => !f.c
    | 8 => f.c
    | 9 => !f.c || f.z
    | 10 => f.c && !f.z
    | 11 => f.v
    | 12 => !f.v
    | 13 => f.n
    | 14 => !f.n
    | _ => false

/-- Sets CC. -/
def setCC (c : CC) (g : Group) : Group := { g with cc := c }

/-- The flags of a tensor status (R170). -/
def tensorCC (code : Nat) : CC := ⟨code = 0, false, 4 ≤ code, false⟩

end Sys2Proof.Machine
end

