-- ==== Sys2Proof/Machine/Float.lean ====
section
/-! DEFINITION. Floating point (R66-R77, R83, R90, R91). A number is computed exactly and narrowed once, by `roundFin`. -/

namespace Sys2Proof.Machine

/-- A binary format: widths of exponent and fraction (R66). -/
structure Fmt where
  eb : Nat
  fb : Nat
deriving DecidableEq, Repr

/-- FP64 (R66). -/
def fp64 : Fmt := ⟨11, 52⟩
/-- FP32 (R66). -/
def fp32 : Fmt := ⟨8, 23⟩
/-- FP16 (R66). -/
def fp16 : Fmt := ⟨5, 10⟩
/-- BF16 (R66). -/
def bf16 : Fmt := ⟨8, 7⟩

/-- What a floating-point operand stands for: `fin neg m e` is m × 2^e with the sign, zeros included. -/
inductive FVal where
  | nan
  | inf (neg : Bool)
  | fin (neg : Bool) (m : Nat) (e : Int)
deriving DecidableEq, Repr

/-- The exponent bias (R66). -/
def Fmt.bias (f : Fmt) : Nat := 2 ^ (f.eb - 1) - 1

/-- The exponent of the last place of the subnormals. -/
def Fmt.qmin (f : Fmt) : Int := 1 - (f.bias : Int) - f.fb

/-- The bits of ∞ without the sign. -/
def Fmt.infBits (f : Fmt) : Nat := (2 ^ f.eb - 1) * 2 ^ f.fb

/-- The canonical NaN (R66, R67). -/
def Fmt.nanBits (f : Fmt) : Nat := f.infBits + 2 ^ (f.fb - 1)

/-- The sign bit's value where `neg` holds. -/
def Fmt.sign (f : Fmt) (neg : Bool) : Nat := if neg then 2 ^ (f.eb + f.fb) else 0

/-- Reads an operand; with `ftz`, a subnormal is a zero of its sign (R69). -/
def ofBits (f : Fmt) (ftz : Bool) (x : Nat) : FVal :=
  let neg := x.testBit (f.eb + f.fb)
  let e := x / 2 ^ f.fb % 2 ^ f.eb
  let m := x % 2 ^ f.fb
  if e = 2 ^ f.eb - 1 then (if m = 0 then .inf neg else .nan)
  else if e = 0 then (if ftz then .fin neg 0 0 else .fin neg m f.qmin)
  else .fin neg (m + 2 ^ f.fb) (f.qmin + (e - 1 : Nat))

/-- Rounds up (R39)? `keep` is what is kept, `rem` what is dropped, of `half` × 2. -/
def roundsUp (rm : BitVec 2) (neg : Bool) (keep rem half : Nat) : Bool :=
  if rm = 0 then decide (half < rem) || (rem == half && keep % 2 == 1)
  else if rm = 1 then false
  else if rm = 2 then neg && rem != 0
  else !neg && rem != 0

/-- The bits of an overflow (R70). -/
def overflowBits (f : Fmt) (rm : BitVec 2) (neg : Bool) : Nat :=
  f.sign neg + (if rm = 0 || (rm = 2 && neg) || (rm = 3 && !neg) then f.infBits else f.infBits - 1)

/-- Rounds the positive number (m + ε) × 2^e, 0 < ε < 1 where `sticky` holds and ε = 0 elsewhere, to the format (R68-R70); with
`sticky`, m has at least `fb + 2` bits. A zero keeps its sign. -/
def roundFin (f : Fmt) (rm : BitVec 2) (ftz neg : Bool) (m : Nat) (e : Int) (sticky : Bool) : Nat :=
  let m := 2 * m + bitOf sticky
  let e := e - 1
  if m = 0 then f.sign neg
  else
    let q := max (e + Nat.log2 m - f.fb) f.qmin
    let mant :=
      if q ≤ e then m * 2 ^ (e - q).toNat
      else
        let d := (q - e).toNat
        let keep := m / 2 ^ d
        keep + bitOf (roundsUp rm neg keep (m % 2 ^ d) (2 ^ (d - 1)))
    let r := (q - f.qmin).toNat * 2 ^ f.fb + mant
    if f.infBits ≤ r then overflowBits f rm neg
    else if ftz && r < 2 ^ f.fb then f.sign neg
    else f.sign neg + r

/-- A value in the format, rounded once. -/
def toBits (f : Fmt) (rm : BitVec 2) (ftz : Bool) : FVal → Nat
  | .nan => f.nanBits
  | .inf neg => f.sign neg + f.infBits
  | .fin neg m e => roundFin f rm ftz neg m e false

/-- The negative. -/
def FVal.neg : FVal → FVal
  | .nan => .nan
  | .inf n => .inf !n
  | .fin n m e => .fin (!n) m e

/-- The exact product; 0 × ∞ is NaN (R71). -/
def FVal.mul : FVal → FVal → FVal
  | .fin n m e, .fin n' m' e' => .fin (n != n') (m * m') (e + e')
  | .inf n, .inf n' => .inf (n != n')
  | .inf n, .fin n' m _ => if m = 0 then .nan else .inf (n != n')
  | .fin n m _, .inf n' => if m = 0 then .nan else .inf (n != n')
  | .nan, _ => .nan
  | _, .nan => .nan

/-- Whether a value is NaN. -/
def FVal.isNan : FVal → Bool
  | .nan => true
  | _ => false

/-- Whether a value is an infinity of the given sign. -/
def FVal.isInf (neg : Bool) : FVal → Bool
  | .inf n => n == neg
  | _ => false

/-- Whether a value is a zero of the given sign. -/
def FVal.isZero (neg : Bool) : FVal → Bool
  | .fin n m _ => m == 0 && n == neg
  | _ => false

/-- The smallest exponent among the finite terms that are not zero, at most `e`. -/
def minExp (e : Int) : List FVal → Int
  | [] => e
  | .fin _ m e' :: r => minExp (if m = 0 then e else min e e') r
  | _ :: r => minExp e r

/-- The exact sum of the finite terms, in units of 2^e. -/
def sumAt (e : Int) : List FVal → Int
  | [] => 0
  | .fin n m e' :: r => (if n then -1 else 1) * ((m * 2 ^ (e' - e).toNat : Nat) : Int) + sumAt e r
  | _ :: r => sumAt e r

/-- The exact sum of terms, narrowed once: R71 for two, R72 for a fused multiply-add, R90 for a dot product. -/
def fsum (f : Fmt) (rm : BitVec 2) (ftz : Bool) (ts : List FVal) : Nat :=
  if ts.any FVal.isNan || (ts.any (FVal.isInf true) && ts.any (FVal.isInf false)) then f.nanBits
  else if ts.any (FVal.isInf true) then f.sign true + f.infBits
  else if ts.any (FVal.isInf false) then f.infBits
  else
    let e := minExp 0 ts
    let x := sumAt e ts
    if x = 0 then
      f.sign (ts.all (FVal.isZero true) || (rm = 2 && !ts.all (FVal.isZero false)))
    else roundFin f rm ftz (decide (x < 0)) x.natAbs e false

/-- x / y (R73). -/
def fdiv (f : Fmt) (rm : BitVec 2) (ftz : Bool) : FVal → FVal → Nat
  | .fin n m e, .fin n' m' e' =>
    if m' = 0 then (if m = 0 then f.nanBits else f.sign (n != n') + f.infBits)
    else
      let k := f.fb + 4 + Nat.log2 m'
      roundFin f rm ftz (n != n') (m * 2 ^ k / m') (e - e' - k) (m * 2 ^ k % m' != 0)
  | .inf n, .fin n' _ _ => f.sign (n != n') + f.infBits
  | .fin n _ _, .inf n' => f.sign (n != n')
  | .inf _, .inf _ => f.nanBits
  | .nan, _ => f.nanBits
  | _, .nan => f.nanBits

/-- The integer square root of `n`, found bit by bit from 2^k down, above `r`. -/
def isqrtFrom (n r : Nat) : Nat → Nat
  | 0 => if (r + 1) * (r + 1) ≤ n then r + 1 else r
  | k + 1 =>
    let r' := r + 2 ^ (k + 1)
    isqrtFrom n (if r' * r' ≤ n then r' else r) k

/-- The integer square root. -/
def isqrt (n : Nat) : Nat := isqrtFrom n 0 (Nat.log2 n / 2 + 1)

/-- √x (R73). -/
def fsqrt (f : Fmt) (rm : BitVec 2) (ftz : Bool) : FVal → Nat
  | .nan => f.nanBits
  | .inf n => if n then f.nanBits else f.infBits
  | .fin n m e =>
    if m = 0 then f.sign n
    else if n then f.nanBits
    else
      let k := 2 * (f.fb + 4) + (e % 2).toNat
      let y := m * 2 ^ k
      let r := isqrt y
      roundFin f rm ftz false r ((e - k) / 2) (r * r != y)

/-- 1/√x (R75). -/
def frsq (f : Fmt) (ftz : Bool) : FVal → Nat
  | .nan => f.nanBits
  | .inf n => if n then f.nanBits else 0
  | .fin n m e =>
    if m = 0 then f.sign n + f.infBits
    else if n then f.nanBits
    else
      let k := 2 * (f.fb + 4 + Nat.log2 m) + (e % 2).toNat
      let r := isqrt (2 ^ k / m)
      roundFin f 0 ftz false r ((-e - k) / 2) (r * r * m != 2 ^ k)

/-- The fraction bits that `fexp2` and `flog2` work with (log 21). -/
def transBits : Nat := 320

/-- 2^(x / 2^n) in units of 2^-transBits, for x < 2^n, by the square roots of 2: `c` is 2^(2^-i) for the bit at hand. -/
def exp2Frac (x c acc : Nat) : Nat → Nat
  | 0 => acc
  | n + 1 =>
    let c := isqrt (c * 2 ^ transBits)
    exp2Frac x c (if x.testBit n then acc * c / 2 ^ transBits else acc) n

/-- 2^x (R75). -/
def fexp2 (f : Fmt) (ftz : Bool) : FVal → Nat
  | .nan => f.nanBits
  | .inf n => if n then 0 else f.infBits
  | .fin n m e =>
    let x : Int := if n then -(m : Int) else m
    if 0 ≤ e then
      let k := x * 2 ^ (min e 160).toNat
      roundFin f 0 ftz false 1 (max (-2000) (min 2000 k)) false
    else
      let w := (-e).toNat
      let k := x / 2 ^ w
      let r := (x % 2 ^ w).toNat
      if r = 0 then roundFin f 0 ftz false 1 (max (-2000) (min 2000 k)) false
      else
        roundFin f 0 ftz false (exp2Frac r (2 * 2 ^ transBits) (2 ^ transBits) w)
          (max (-2000) (min 2000 k) - transBits) true

/-- The first `n` fraction bits of log2 of x / 2^transBits, for 1 ≤ x / 2^transBits < 2, below `acc`. -/
def log2Frac (x acc : Nat) : Nat → Nat
  | 0 => acc
  | n + 1 =>
    let y := x * x / 2 ^ transBits
    if 2 ^ (transBits + 1) ≤ y then log2Frac (y / 2) (2 * acc + 1) n else log2Frac y (2 * acc) n

/-- log2 x (R75). -/
def flog2 (f : Fmt) (ftz : Bool) : FVal → Nat
  | .nan => f.nanBits
  | .inf n => if n then f.nanBits else f.infBits
  | .fin n m e =>
    if m = 0 then f.sign true + f.infBits
    else if n then f.nanBits
    else
      let l := Nat.log2 m
      let k : Int := e + l
      if m = 2 ^ l then roundFin f 0 ftz (decide (k < 0)) k.natAbs 0 false
      else
        let v : Int := k * 2 ^ 160 + log2Frac (m * 2 ^ (transBits - l)) 0 160
        if 0 ≤ v then roundFin f 0 ftz false v.natAbs (-160) true
        else roundFin f 0 ftz true (v.natAbs - 1) (-160) true

/-- The integral value that the mode selects (R76), the sign kept. -/
def roundInt (rm : BitVec 2) : FVal → FVal
  | .fin n m e =>
    if 0 ≤ e then .fin n m e
    else
      let d := (-e).toNat
      let keep := m / 2 ^ d
      .fin n (keep + bitOf (roundsUp rm n keep (m % 2 ^ d) (2 ^ (d - 1)))) 0
  | v => v

/-- Orders two numbers, −0 and +0 equal; nothing where one is NaN (R77). -/
def fcmp : FVal → FVal → Option Ordering
  | .nan, _ => none
  | _, .nan => none
  | .inf n, .inf n' => some (if n = n' then .eq else if n then .lt else .gt)
  | .inf n, .fin _ _ _ => some (if n then .lt else .gt)
  | .fin _ _ _, .inf n => some (if n then .gt else .lt)
  | .fin n m e, .fin n' m' e' =>
    let x := min e e'
    some (compare (sumAt x [.fin n m e]) (sumAt x [.fin n' m' e']))

/-- The sign of a number. -/
def FVal.sgn : FVal → Bool
  | .nan => false
  | .inf n => n
  | .fin n _ _ => n

/-- Whether x stands before y, −0 before +0 (R74). -/
def fbefore (x y : FVal) : Bool :=
  match fcmp x y with
  | some .lt => true
  | some .eq => x.sgn && !y.sgn
  | _ => false

/-- minimumNumber (R74). -/
def fminNum (x y : FVal) : FVal :=
  if x.isNan then y else if y.isNan then x else if fbefore y x then y else x

/-- maximumNumber (R74). -/
def fmaxNum (x y : FVal) : FVal :=
  if x.isNan then y else if y.isNan then x else if fbefore x y then y else x

/-- A conversion to an integer between `lo` and `hi` (R83). -/
def toIntClamp (rm : BitVec 2) (lo hi : Int) (v : FVal) : Int :=
  match roundInt rm v with
  | .nan => 0
  | .inf n => if n then lo else hi
  | .fin n m e => max lo (min hi ((if n then -1 else 1) * ((m * 2 ^ e.toNat : Nat) : Int)))

/-- An integer as an exact value. -/
def ofInt (x : Int) : FVal := .fin (decide (x < 0)) x.natAbs 0

end Sys2Proof.Machine
end

