-- ==== Sys2Proof/Decode.lean ====
section
/-! DEFINITION. The decoder, total on every word, and the encoder, both written from the encoding tables of R51-R60 and the
opcode table. A word that matches no row decodes to nothing: it is not an instruction (R54, R56, R58, R59), and the machine raises
ILL for it. The checks on the values of an instruction's fields (R53) are WellFormed's. -/

namespace Sys2Proof

/-- The unsigned value of the `len` bits of the word `w` that start at bit `lo` (R2). -/
def fld (lo len w : Nat) : Nat := w / 2 ^ lo % 2 ^ len

/-- The same bits as a field value. -/
def bits (lo len w : Nat) : BitVec len := BitVec.ofNat len (w / 2 ^ lo)

/-- Major 0x00 (R56). -/
def decodeSys (w : Nat) : Option Instr :=
  match fld 21 5 w with
  | 0 =>
    if fld 0 21 w = 0 then some .nop else
    none
  | 1 =>
    if fld 0 21 w = 0 then some .exit else
    none
  | 2 =>
    if fld 7 14 w = 0 then some (.trap (bits 0 7 w)) else
    none
  | 3 =>
    if fld 0 21 w = 0 then some .eret else
    none
  | 4 =>
    if fld 7 14 w = 0 then some (.brk (bits 0 7 w)) else
    none
  | 5 =>
    if fld 14 7 w = 0 then some (.mark (bits 0 14 w)) else
    none
  | 6 =>
    if fld 2 5 w = 0 ∧ fld 9 12 w = 0 then some (.fence (bits 7 2 w) (bits 0 2 w)) else
    none
  | 7 =>
    if fld 2 5 w = 0 ∧ fld 10 4 w = 0 ∧ fld 17 4 w = 0 then some (.fencex (bits 14 3 w) (bits 7 3 w) (bits 0 2 w)) else
    none
  | 8 =>
    if fld 0 21 w = 0 then some .yield else
    none
  | 9 =>
    if fld 6 15 w = 0 then some (.yieldc (bits 0 6 w)) else
    none
  | 10 =>
    if fld 3 18 w = 0 then some (.window (bits 0 3 w)) else
    none
  | 11 =>
    if fld 3 4 w = 0 ∧ fld 12 2 w = 0 ∧ fld 15 6 w = 0 then some (.donate (bits 14 1 w) (bits 7 5 w) (bits 0 3 w)) else
    none
  | 12 =>
    if fld 11 10 w = 0 then some (.bar (bits 7 4 w) (bits 0 7 w)) else
    none
  | 13 =>
    if fld 11 3 w = 0 then some (.bara (bits 14 7 w) (bits 7 4 w) (bits 0 7 w)) else
    none
  | 14 =>
    if fld 11 10 w = 0 then some (.barw (bits 7 4 w) (bits 0 7 w)) else
    none
  | 15 =>
    if fld 14 7 w = 0 then some (.waita (bits 7 7 w) (bits 0 7 w)) else
    none
  | 16 =>
    if fld 0 7 w = 0 ∧ fld 14 7 w = 0 then some (.wakea (bits 7 7 w)) else
    none
  | 17 =>
    if fld 0 7 w = 0 ∧ fld 14 7 w = 0 then some (.haltg (bits 7 7 w)) else
    if fld 0 7 w = 0 ∧ fld 14 7 w = 1 then some (.haltgRes (bits 7 7 w)) else
    none
  | 18 =>
    if fld 3 18 w = 0 then some (.mbatch (bits 0 3 w)) else
    none
  | 19 =>
    if fld 3 18 w = 0 then some (.mwait (bits 0 3 w)) else
    none
  | _ => none

/-- Major 0x01 (R56). -/
def decodeSalu (w : Nat) : Option Instr :=
  match fld 21 5 w with
  | 0 => some (.sadd (bits 14 7 w) (bits 7 7 w) (bits 0 7 w))
  | 1 => some (.ssub (bits 14 7 w) (bits 7 7 w) (bits 0 7 w))
  | 2 => some (.smul (bits 14 7 w) (bits 7 7 w) (bits 0 7 w))
  | 3 => some (.smulh (bits 14 7 w) (bits 7 7 w) (bits 0 7 w))
  | 4 => some (.smulhu (bits 14 7 w) (bits 7 7 w) (bits 0 7 w))
  | 5 => some (.sdiv (bits 14 7 w) (bits 7 7 w) (bits 0 7 w))
  | 6 => some (.sdivu (bits 14 7 w) (bits 7 7 w) (bits 0 7 w))
  | 7 => some (.srem (bits 14 7 w) (bits 7 7 w) (bits 0 7 w))
  | 8 => some (.sremu (bits 14 7 w) (bits 7 7 w) (bits 0 7 w))
  | 9 => some (.sand (bits 14 7 w) (bits 7 7 w) (bits 0 7 w))
  | 10 => some (.sor (bits 14 7 w) (bits 7 7 w) (bits 0 7 w))
  | 11 => some (.sxor (bits 14 7 w) (bits 7 7 w) (bits 0 7 w))
  | 12 => some (.sandn (bits 14 7 w) (bits 7 7 w) (bits 0 7 w))
  | 13 => some (.sshl (bits 14 7 w) (bits 7 7 w) (bits 0 7 w))
  | 14 => some (.sshr (bits 14 7 w) (bits 7 7 w) (bits 0 7 w))
  | 15 => some (.ssra (bits 14 7 w) (bits 7 7 w) (bits 0 7 w))
  | 16 => some (.smin (bits 14 7 w) (bits 7 7 w) (bits 0 7 w))
  | 17 => some (.smax (bits 14 7 w) (bits 7 7 w) (bits 0 7 w))
  | 18 => some (.sminu (bits 14 7 w) (bits 7 7 w) (bits 0 7 w))
  | 19 => some (.smaxu (bits 14 7 w) (bits 7 7 w) (bits 0 7 w))
  | 20 =>
    if fld 14 7 w = 0 then some (.scmp (bits 7 7 w) (bits 0 7 w)) else
    none
  | 21 =>
    if fld 14 7 w = 0 then some (.scmpu (bits 7 7 w) (bits 0 7 w)) else
    none
  | 22 => some (.ssel (bits 14 7 w) (bits 7 7 w) (bits 0 7 w))
  | 23 =>
    if fld 0 7 w = 0 then some (.spopc (bits 14 7 w) (bits 7 7 w)) else
    none
  | 24 =>
    if fld 0 7 w = 0 then some (.sclz (bits 14 7 w) (bits 7 7 w)) else
    none
  | 25 =>
    if fld 0 7 w = 0 then some (.sctz (bits 14 7 w) (bits 7 7 w)) else
    none
  | 26 =>
    if fld 0 7 w = 0 then some (.sbrev (bits 14 7 w) (bits 7 7 w)) else
    none
  | 27 => some (.sbfe (bits 14 7 w) (bits 7 7 w) (bits 0 7 w))
  | 28 => some (.sbfi (bits 14 7 w) (bits 7 7 w) (bits 0 7 w))
  | _ => none

/-- Major 0x02 (R56). -/
def decodeSaddi (w : Nat) : Option Instr :=
  some (.saddi (bits 19 7 w) (bits 12 7 w) (bits 0 12 w))

/-- Major 0x03 (R56). -/
def decodeSandi (w : Nat) : Option Instr :=
  some (.sandi (bits 19 7 w) (bits 12 7 w) (bits 0 12 w))

/-- Major 0x04 (R56). -/
def decodeSori (w : Nat) : Option Instr :=
  some (.sori (bits 19 7 w) (bits 12 7 w) (bits 0 12 w))

/-- Major 0x05 (R56). -/
def decodeSxori (w : Nat) : Option Instr :=
  some (.sxori (bits 19 7 w) (bits 12 7 w) (bits 0 12 w))

/-- Major 0x06 (R56). -/
def decodeSshi (w : Nat) : Option Instr :=
  if fld 6 6 w = 0 then some (.sshli (bits 19 7 w) (bits 12 7 w) (bits 0 6 w)) else
  if fld 6 6 w = 1 then some (.sshri (bits 19 7 w) (bits 12 7 w) (bits 0 6 w)) else
  if fld 6 6 w = 2 then some (.ssrai (bits 19 7 w) (bits 12 7 w) (bits 0 6 w)) else
  none

/-- Major 0x07 (R56). -/
def decodeScmpi (w : Nat) : Option Instr :=
  if fld 19 7 w = 0 then some (.scmpi (bits 12 7 w) (bits 0 12 w)) else
  if fld 19 7 w = 1 then some (.scmpiu (bits 12 7 w) (bits 0 12 w)) else
  none

/-- Major 0x08 (R56). -/
def decodeSli (w : Nat) : Option Instr :=
  some (.sli (bits 19 7 w) (bits 18 1 w) (bits 16 2 w) (bits 0 16 w))

/-- Major 0x09 (R56). -/
def decodeSld (w : Nat) : Option Instr :=
  if fld 24 2 w = 0 then some (.sld (bits 17 7 w) (bits 10 7 w) (bits 8 2 w) (bits 6 2 w) (bits 4 2 w) (bits 0 4 w)) else
  none

/-- Major 0x0A (R56). -/
def decodeSst (w : Nat) : Option Instr :=
  if fld 24 2 w = 0 then some (.sst (bits 17 7 w) (bits 10 7 w) (bits 8 2 w) (bits 6 2 w) (bits 4 2 w) (bits 0 4 w)) else
  none

/-- Major 0x0B (R56). -/
def decodeSmov (w : Nat) : Option Instr :=
  match fld 21 5 w with
  | 0 =>
    if fld 0 7 w = 0 then some (.smfs (bits 14 7 w) (bits 7 7 w)) else
    none
  | 1 =>
    if fld 0 7 w = 0 then some (.smts (bits 14 7 w) (bits 7 7 w)) else
    none
  | 2 =>
    if fld 0 7 w = 0 ∧ fld 10 4 w = 0 then some (.smfk (bits 14 7 w) (bits 7 3 w)) else
    none
  | 3 =>
    if fld 0 7 w = 0 ∧ fld 17 4 w = 0 then some (.smtk (bits 14 3 w) (bits 7 7 w)) else
    none
  | _ => none

/-- Major 0x0C (R56). -/
def decodeB (w : Nat) : Option Instr :=
  some (.b (bits 21 5 w) (bits 0 21 w))

/-- Major 0x0D (R56). -/
def decodeCall (w : Nat) : Option Instr :=
  some (.call (bits 0 26 w))

/-- Major 0x0E (R56). -/
def decodeJmpr (w : Nat) : Option Instr :=
  match fld 21 5 w with
  | 0 =>
    if fld 0 7 w = 0 ∧ fld 14 7 w = 0 then some (.jr (bits 7 7 w)) else
    none
  | 1 =>
    if fld 0 7 w = 0 ∧ fld 14 7 w = 0 then some (.callr (bits 7 7 w)) else
    none
  | 2 =>
    if fld 0 21 w = 0 then some .ret else
    none
  | _ => none

/-- Major 0x0F (R56). -/
def decodeMask (w : Nat) : Option Instr :=
  match fld 21 5 w with
  | 0 =>
    if fld 3 4 w = 0 ∧ fld 10 4 w = 0 ∧ fld 17 4 w = 0 then some (.kand (bits 14 3 w) (bits 7 3 w) (bits 0 3 w)) else
    none
  | 1 =>
    if fld 3 4 w = 0 ∧ fld 10 4 w = 0 ∧ fld 17 4 w = 0 then some (.kor (bits 14 3 w) (bits 7 3 w) (bits 0 3 w)) else
    none
  | 2 =>
    if fld 3 4 w = 0 ∧ fld 10 4 w = 0 ∧ fld 17 4 w = 0 then some (.kxor (bits 14 3 w) (bits 7 3 w) (bits 0 3 w)) else
    none
  | 3 =>
    if fld 3 4 w = 0 ∧ fld 10 4 w = 0 ∧ fld 17 4 w = 0 then some (.kandn (bits 14 3 w) (bits 7 3 w) (bits 0 3 w)) else
    none
  | 4 =>
    if fld 0 7 w = 0 ∧ fld 10 4 w = 0 ∧ fld 17 4 w = 0 then some (.knot (bits 14 3 w) (bits 7 3 w)) else
    none
  | 5 =>
    if fld 0 7 w = 0 ∧ fld 10 4 w = 0 ∧ fld 17 4 w = 0 then some (.kmov (bits 14 3 w) (bits 7 3 w)) else
    none
  | 6 =>
    if fld 0 7 w = 0 ∧ fld 10 4 w = 0 then some (.kpopc (bits 14 7 w) (bits 7 3 w)) else
    none
  | 7 =>
    if fld 0 7 w = 0 ∧ fld 10 4 w = 0 then some (.kffs (bits 14 7 w) (bits 7 3 w)) else
    none
  | 8 =>
    if fld 17 4 w = 0 then some (.kfroms (bits 14 3 w) (bits 7 7 w) (bits 0 7 w)) else
    none
  | 9 =>
    if fld 10 4 w = 0 then some (.ktos (bits 14 7 w) (bits 7 3 w) (bits 0 7 w)) else
    none
  | 10 =>
    if fld 7 7 w = 0 ∧ fld 17 4 w = 0 then some (.kall (bits 14 3 w) (bits 0 7 w)) else
    none
  | _ => none

/-- Major 0x10 (R56). -/
def decodeVia (w : Nat) : Option Instr :=
  match fld 21 3 w with
  | 0 => some (.vadd (bits 24 2 w) (bits 14 7 w) (bits 7 7 w) (bits 0 7 w))
  | 1 => some (.vsub (bits 24 2 w) (bits 14 7 w) (bits 7 7 w) (bits 0 7 w))
  | 2 => some (.vmul (bits 24 2 w) (bits 14 7 w) (bits 7 7 w) (bits 0 7 w))
  | 3 => some (.vmulh (bits 24 2 w) (bits 14 7 w) (bits 7 7 w) (bits 0 7 w))
  | 4 => some (.vmulhu (bits 24 2 w) (bits 14 7 w) (bits 7 7 w) (bits 0 7 w))
  | 5 => some (.vmin (bits 24 2 w) (bits 14 7 w) (bits 7 7 w) (bits 0 7 w))
  | 6 => some (.vmax (bits 24 2 w) (bits 14 7 w) (bits 7 7 w) (bits 0 7 w))
  | 7 => some (.vminu (bits 24 2 w) (bits 14 7 w) (bits 7 7 w) (bits 0 7 w))
  | _ => none

/-- Major 0x11 (R56). -/
def decodeVib (w : Nat) : Option Instr :=
  match fld 21 3 w with
  | 0 => some (.vmaxu (bits 24 2 w) (bits 14 7 w) (bits 7 7 w) (bits 0 7 w))
  | 1 => some (.vand (bits 24 2 w) (bits 14 7 w) (bits 7 7 w) (bits 0 7 w))
  | 2 => some (.vor (bits 24 2 w) (bits 14 7 w) (bits 7 7 w) (bits 0 7 w))
  | 3 => some (.vxor (bits 24 2 w) (bits 14 7 w) (bits 7 7 w) (bits 0 7 w))
  | 4 => some (.vandn (bits 24 2 w) (bits 14 7 w) (bits 7 7 w) (bits 0 7 w))
  | 5 => some (.vshl (bits 24 2 w) (bits 14 7 w) (bits 7 7 w) (bits 0 7 w))
  | 6 => some (.vshr (bits 24 2 w) (bits 14 7 w) (bits 7 7 w) (bits 0 7 w))
  | 7 => some (.vsra (bits 24 2 w) (bits 14 7 w) (bits 7 7 w) (bits 0 7 w))
  | _ => none

/-- Major 0x12 (R56). -/
def decodeVbit (w : Nat) : Option Instr :=
  match fld 21 3 w with
  | 0 => some (.vbfe (bits 24 2 w) (bits 14 7 w) (bits 7 7 w) (bits 0 7 w))
  | 1 => some (.vbfeu (bits 24 2 w) (bits 14 7 w) (bits 7 7 w) (bits 0 7 w))
  | 2 => some (.vbfi (bits 24 2 w) (bits 14 7 w) (bits 7 7 w) (bits 0 7 w))
  | 3 =>
    if fld 0 7 w = 0 then some (.vbrev (bits 24 2 w) (bits 14 7 w) (bits 7 7 w)) else
    none
  | 4 =>
    if fld 0 7 w = 0 then some (.vpopc (bits 24 2 w) (bits 14 7 w) (bits 7 7 w)) else
    none
  | 5 =>
    if fld 0 7 w = 0 then some (.vclz (bits 24 2 w) (bits 14 7 w) (bits 7 7 w)) else
    none
  | 6 =>
    if fld 0 7 w = 0 then some (.vctz (bits 24 2 w) (bits 14 7 w) (bits 7 7 w)) else
    none
  | 7 =>
    if fld 0 7 w = 0 then some (.vabs (bits 24 2 w) (bits 14 7 w) (bits 7 7 w)) else
    none
  | _ => none

/-- Major 0x13 (R56). -/
def decodeVaddi (w : Nat) : Option Instr :=
  some (.vaddi (bits 24 2 w) (bits 17 7 w) (bits 10 7 w) (bits 0 10 w))

/-- Major 0x14 (R56). -/
def decodeVandi (w : Nat) : Option Instr :=
  some (.vandi (bits 24 2 w) (bits 17 7 w) (bits 10 7 w) (bits 0 10 w))

/-- Major 0x15 (R56). -/
def decodeVori (w : Nat) : Option Instr :=
  some (.vori (bits 24 2 w) (bits 17 7 w) (bits 10 7 w) (bits 0 10 w))

/-- Major 0x16 (R56). -/
def decodeVxori (w : Nat) : Option Instr :=
  some (.vxori (bits 24 2 w) (bits 17 7 w) (bits 10 7 w) (bits 0 10 w))

/-- Major 0x17 (R56). -/
def decodeVshi (w : Nat) : Option Instr :=
  if fld 5 5 w = 0 then some (.vshli (bits 24 2 w) (bits 17 7 w) (bits 10 7 w) (bits 0 5 w)) else
  if fld 5 5 w = 2 then some (.vshri (bits 24 2 w) (bits 17 7 w) (bits 10 7 w) (bits 0 5 w)) else
  if fld 5 5 w = 4 then some (.vsrai (bits 24 2 w) (bits 17 7 w) (bits 10 7 w) (bits 0 5 w)) else
  none

/-- Major 0x18 (R56). -/
def decodeVfa (w : Nat) : Option Instr :=
  match fld 21 3 w with
  | 0 => some (.vfadd (bits 24 2 w) (bits 14 7 w) (bits 7 7 w) (bits 0 7 w))
  | 1 => some (.vfsub (bits 24 2 w) (bits 14 7 w) (bits 7 7 w) (bits 0 7 w))
  | 2 => some (.vfmul (bits 24 2 w) (bits 14 7 w) (bits 7 7 w) (bits 0 7 w))
  | 3 => some (.vfma (bits 24 2 w) (bits 14 7 w) (bits 7 7 w) (bits 0 7 w))
  | 4 => some (.vfms (bits 24 2 w) (bits 14 7 w) (bits 7 7 w) (bits 0 7 w))
  | 5 => some (.vfmin (bits 24 2 w) (bits 14 7 w) (bits 7 7 w) (bits 0 7 w))
  | 6 => some (.vfmax (bits 24 2 w) (bits 14 7 w) (bits 7 7 w) (bits 0 7 w))
  | 7 =>
    if fld 0 7 w = 0 then some (.vfabs (bits 24 2 w) (bits 14 7 w) (bits 7 7 w)) else
    none
  | _ => none

/-- Major 0x19 (R56). -/
def decodeVfb (w : Nat) : Option Instr :=
  match fld 21 3 w with
  | 0 => some (.vfdiv (bits 24 2 w) (bits 14 7 w) (bits 7 7 w) (bits 0 7 w))
  | 1 =>
    if fld 0 7 w = 0 then some (.vfsqrt (bits 24 2 w) (bits 14 7 w) (bits 7 7 w)) else
    none
  | 2 =>
    if fld 0 7 w = 0 then some (.vfrcp (bits 24 2 w) (bits 14 7 w) (bits 7 7 w)) else
    none
  | 3 =>
    if fld 0 7 w = 0 then some (.vfrsq (bits 24 2 w) (bits 14 7 w) (bits 7 7 w)) else
    none
  | 4 =>
    if fld 0 7 w = 0 then some (.vfexp2 (bits 24 2 w) (bits 14 7 w) (bits 7 7 w)) else
    none
  | 5 =>
    if fld 0 7 w = 0 then some (.vflog2 (bits 24 2 w) (bits 14 7 w) (bits 7 7 w)) else
    none
  | 6 =>
    if fld 0 7 w = 0 then some (.vffloor (bits 24 2 w) (bits 14 7 w) (bits 7 7 w)) else
    none
  | 7 =>
    if fld 0 7 w = 0 then some (.vfrint (bits 24 2 w) (bits 14 7 w) (bits 7 7 w)) else
    none
  | _ => none

/-- Major 0x1A (R56). -/
def decodeVdf (w : Nat) : Option Instr :=
  match fld 21 3 w with
  | 0 => some (.vdadd (bits 24 2 w) (bits 14 7 w) (bits 7 7 w) (bits 0 7 w))
  | 1 => some (.vdsub (bits 24 2 w) (bits 14 7 w) (bits 7 7 w) (bits 0 7 w))
  | 2 => some (.vdmul (bits 24 2 w) (bits 14 7 w) (bits 7 7 w) (bits 0 7 w))
  | 3 => some (.vdfma (bits 24 2 w) (bits 14 7 w) (bits 7 7 w) (bits 0 7 w))
  | 4 => some (.vddiv (bits 24 2 w) (bits 14 7 w) (bits 7 7 w) (bits 0 7 w))
  | 5 =>
    if fld 0 7 w = 0 then some (.vdsqrt (bits 24 2 w) (bits 14 7 w) (bits 7 7 w)) else
    none
  | 6 => some (.vdmin (bits 24 2 w) (bits 14 7 w) (bits 7 7 w) (bits 0 7 w))
  | 7 => some (.vdmax (bits 24 2 w) (bits 14 7 w) (bits 7 7 w) (bits 0 7 w))
  | _ => none

/-- Major 0x1B (R56). -/
def decodeVcvt (w : Nat) : Option Instr :=
  match fld 21 3 w with
  | 0 => some (.vcvt (bits 24 2 w) (bits 14 7 w) (bits 7 7 w) (bits 0 7 w))
  | _ => none

/-- Major 0x1C (R56). -/
def decodeVcmp (w : Nat) : Option Instr :=
  match fld 21 3 w with
  | 0 =>
    if fld 17 4 w = 0 then some (.vceq (bits 24 2 w) (bits 14 3 w) (bits 7 7 w) (bits 0 7 w)) else
    none
  | 1 =>
    if fld 17 4 w = 0 then some (.vcne (bits 24 2 w) (bits 14 3 w) (bits 7 7 w) (bits 0 7 w)) else
    none
  | 2 =>
    if fld 17 4 w = 0 then some (.vclt (bits 24 2 w) (bits 14 3 w) (bits 7 7 w) (bits 0 7 w)) else
    none
  | 3 =>
    if fld 17 4 w = 0 then some (.vcle (bits 24 2 w) (bits 14 3 w) (bits 7 7 w) (bits 0 7 w)) else
    none
  | 4 =>
    if fld 17 4 w = 0 then some (.vcltu (bits 24 2 w) (bits 14 3 w) (bits 7 7 w) (bits 0 7 w)) else
    none
  | 5 =>
    if fld 17 4 w = 0 then some (.vcleu (bits 24 2 w) (bits 14 3 w) (bits 7 7 w) (bits 0 7 w)) else
    none
  | _ => none

/-- Major 0x1D (R56). -/
def decodeVfcmp (w : Nat) : Option Instr :=
  match fld 21 3 w with
  | 0 =>
    if fld 17 4 w = 0 then some (.vfceq (bits 24 2 w) (bits 14 3 w) (bits 7 7 w) (bits 0 7 w)) else
    none
  | 1 =>
    if fld 17 4 w = 0 then some (.vfcne (bits 24 2 w) (bits 14 3 w) (bits 7 7 w) (bits 0 7 w)) else
    none
  | 2 =>
    if fld 17 4 w = 0 then some (.vfclt (bits 24 2 w) (bits 14 3 w) (bits 7 7 w) (bits 0 7 w)) else
    none
  | 3 =>
    if fld 17 4 w = 0 then some (.vfcle (bits 24 2 w) (bits 14 3 w) (bits 7 7 w) (bits 0 7 w)) else
    none
  | 4 =>
    if fld 17 4 w = 0 then some (.vfcun (bits 24 2 w) (bits 14 3 w) (bits 7 7 w) (bits 0 7 w)) else
    none
  | 5 =>
    if fld 17 4 w = 0 then some (.vdceq (bits 24 2 w) (bits 14 3 w) (bits 7 7 w) (bits 0 7 w)) else
    none
  | 6 =>
    if fld 17 4 w = 0 then some (.vdclt (bits 24 2 w) (bits 14 3 w) (bits 7 7 w) (bits 0 7 w)) else
    none
  | 7 =>
    if fld 17 4 w = 0 then some (.vdcle (bits 24 2 w) (bits 14 3 w) (bits 7 7 w) (bits 0 7 w)) else
    none
  | _ => none

/-- Major 0x1E (R56). -/
def decodeVxt (w : Nat) : Option Instr :=
  match fld 21 3 w with
  | 0 => some (.vshfl (bits 24 2 w) (bits 14 7 w) (bits 7 7 w) (bits 0 7 w))
  | 1 => some (.vshflx (bits 24 2 w) (bits 14 7 w) (bits 7 7 w) (bits 0 7 w))
  | 2 => some (.vshflu (bits 24 2 w) (bits 14 7 w) (bits 7 7 w) (bits 0 7 w))
  | 3 => some (.vshfld (bits 24 2 w) (bits 14 7 w) (bits 7 7 w) (bits 0 7 w))
  | 4 =>
    if fld 5 2 w = 3 then some (.vbcast (bits 24 2 w) (bits 14 7 w) (bits 7 7 w) (bits 0 5 w)) else
    none
  | 5 => some (.vsel (bits 24 2 w) (bits 14 7 w) (bits 7 7 w) (bits 0 7 w))
  | 6 =>
    if fld 0 7 w = 0 ∧ fld 19 2 w = 3 then some (.vballot (bits 24 2 w) (bits 14 5 w) (bits 7 7 w)) else
    none
  | 7 =>
    if fld 0 14 w = 0 then some (.vtid (bits 24 2 w) (bits 14 7 w)) else
    none
  | _ => none

/-- Major 0x1F (R56). -/
def decodeVred (w : Nat) : Option Instr :=
  match fld 21 3 w with
  | 0 =>
    if fld 0 7 w = 0 ∧ fld 19 2 w = 3 then some (.vredadd (bits 24 2 w) (bits 14 5 w) (bits 7 7 w)) else
    none
  | 1 =>
    if fld 0 7 w = 0 ∧ fld 19 2 w = 3 then some (.vredmin (bits 24 2 w) (bits 14 5 w) (bits 7 7 w)) else
    none
  | 2 =>
    if fld 0 7 w = 0 ∧ fld 19 2 w = 3 then some (.vredmax (bits 24 2 w) (bits 14 5 w) (bits 7 7 w)) else
    none
  | 3 =>
    if fld 0 7 w = 0 ∧ fld 19 2 w = 3 then some (.vredminu (bits 24 2 w) (bits 14 5 w) (bits 7 7 w)) else
    none
  | 4 =>
    if fld 0 7 w = 0 ∧ fld 19 2 w = 3 then some (.vredmaxu (bits 24 2 w) (bits 14 5 w) (bits 7 7 w)) else
    none
  | 5 =>
    if fld 0 7 w = 0 ∧ fld 19 2 w = 3 then some (.vredfadd (bits 24 2 w) (bits 14 5 w) (bits 7 7 w)) else
    none
  | 6 =>
    if fld 0 7 w = 0 then some (.vscan (bits 24 2 w) (bits 14 7 w) (bits 7 7 w)) else
    none
  | 7 =>
    if fld 0 7 w = 0 then some (.vscanf (bits 24 2 w) (bits 14 7 w) (bits 7 7 w)) else
    none
  | _ => none

/-- Major 0x20 (R56). -/
def decodeVmov (w : Nat) : Option Instr :=
  match fld 21 3 w with
  | 0 =>
    if fld 0 7 w = 0 then some (.vmov (bits 24 2 w) (bits 14 7 w) (bits 7 7 w)) else
    none
  | 1 =>
    if fld 1 6 w = 0 then some (.vmfs (bits 24 2 w) (bits 14 7 w) (bits 7 7 w) (bits 0 1 w)) else
    none
  | 2 => some (.vmerge (bits 24 2 w) (bits 14 7 w) (bits 7 7 w) (bits 0 7 w))
  | _ => none

/-- Major 0x21 (R56). -/
def decodeVld (w : Nat) : Option Instr :=
  some (.vld (bits 24 2 w) (bits 17 7 w) (bits 10 7 w) (bits 8 2 w) (bits 6 2 w) (bits 4 2 w) (bits 0 4 w))

/-- Major 0x22 (R56). -/
def decodeVldu (w : Nat) : Option Instr :=
  if fld 9 1 w = 0 then some (.vldu (bits 24 2 w) (bits 17 7 w) (bits 10 7 w) (bits 8 1 w) (bits 6 2 w) (bits 4 2 w) (bits 0 4 w)) else
  none

/-- Major 0x23 (R56). -/
def decodeVst (w : Nat) : Option Instr :=
  some (.vst (bits 24 2 w) (bits 17 7 w) (bits 10 7 w) (bits 8 2 w) (bits 6 2 w) (bits 4 2 w) (bits 0 4 w))

/-- Major 0x24 (R56). -/
def decodeVldx (w : Nat) : Option Instr :=
  if fld 5 2 w = 3 then some (.vldx (bits 24 2 w) (bits 21 3 w) (bits 14 7 w) (bits 7 7 w) (bits 0 5 w)) else
  none

/-- Major 0x25 (R56). -/
def decodeVamo (w : Nat) : Option Instr :=
  match fld 21 3 w with
  | 0 => some (.vamoadd (bits 24 2 w) (bits 14 7 w) (bits 7 7 w) (bits 0 7 w))
  | 1 => some (.vamomin (bits 24 2 w) (bits 14 7 w) (bits 7 7 w) (bits 0 7 w))
  | 2 => some (.vamomax (bits 24 2 w) (bits 14 7 w) (bits 7 7 w) (bits 0 7 w))
  | 3 => some (.vamominu (bits 24 2 w) (bits 14 7 w) (bits 7 7 w) (bits 0 7 w))
  | 4 => some (.vamomaxu (bits 24 2 w) (bits 14 7 w) (bits 7 7 w) (bits 0 7 w))
  | 5 => some (.vamoand (bits 24 2 w) (bits 14 7 w) (bits 7 7 w) (bits 0 7 w))
  | 6 => some (.vamoor (bits 24 2 w) (bits 14 7 w) (bits 7 7 w) (bits 0 7 w))
  | 7 => some (.vamoxor (bits 24 2 w) (bits 14 7 w) (bits 7 7 w) (bits 0 7 w))
  | _ => none

/-- Major 0x26 (R56). -/
def decodeVamx (w : Nat) : Option Instr :=
  match fld 21 3 w with
  | 0 => some (.vcas (bits 24 2 w) (bits 14 7 w) (bits 7 7 w) (bits 0 7 w))
  | 1 => some (.vxchg (bits 24 2 w) (bits 14 7 w) (bits 7 7 w) (bits 0 7 w))
  | 2 => some (.vamofadd (bits 24 2 w) (bits 14 7 w) (bits 7 7 w) (bits 0 7 w))
  | 3 => some (.vamofmin (bits 24 2 w) (bits 14 7 w) (bits 7 7 w) (bits 0 7 w))
  | 4 => some (.vamofmax (bits 24 2 w) (bits 14 7 w) (bits 7 7 w) (bits 0 7 w))
  | _ => none

/-- Major 0x27 (R56). -/
def decodeSamo (w : Nat) : Option Instr :=
  match fld 21 5 w with
  | 0 => some (.samoadd (bits 14 7 w) (bits 7 7 w) (bits 0 7 w))
  | 1 => some (.samomin (bits 14 7 w) (bits 7 7 w) (bits 0 7 w))
  | 2 => some (.samomax (bits 14 7 w) (bits 7 7 w) (bits 0 7 w))
  | 3 => some (.samoand (bits 14 7 w) (bits 7 7 w) (bits 0 7 w))
  | 4 => some (.samoor (bits 14 7 w) (bits 7 7 w) (bits 0 7 w))
  | 5 => some (.samoxor (bits 14 7 w) (bits 7 7 w) (bits 0 7 w))
  | 6 => some (.scas (bits 14 7 w) (bits 7 7 w) (bits 0 7 w))
  | 7 => some (.sxchg (bits 14 7 w) (bits 7 7 w) (bits 0 7 w))
  | _ => none

/-- Major 0x28 (R56). -/
def decodeTag (w : Nat) : Option Instr :=
  match fld 21 5 w with
  | 0 =>
    if fld 0 7 w = 0 then some (.tlook (bits 14 7 w) (bits 7 7 w)) else
    none
  | 1 =>
    if fld 14 7 w = 0 then some (.tset (bits 7 7 w) (bits 0 7 w)) else
    none
  | 2 =>
    if fld 0 7 w = 0 ∧ fld 14 7 w = 0 then some (.tinv (bits 7 7 w)) else
    none
  | 3 =>
    if fld 0 21 w = 0 then some .tclr else
    none
  | 4 =>
    if fld 0 7 w = 0 then some (.tslot (bits 14 7 w) (bits 7 7 w)) else
    none
  | _ => none

/-- Major 0x29 (R56). -/
def decodeCpy (w : Nat) : Option Instr :=
  match fld 21 5 w with
  | 0 => some (.cpy (bits 14 7 w) (bits 7 7 w) (bits 0 7 w))
  | 1 => some (.cpym (bits 14 7 w) (bits 7 7 w) (bits 0 7 w))
  | 2 => some (.cpyd (bits 14 7 w) (bits 7 7 w) (bits 0 7 w))
  | 3 => some (.cpyc (bits 14 7 w) (bits 7 7 w) (bits 0 7 w))
  | 4 => some (.cpyg (bits 14 7 w) (bits 7 7 w) (bits 0 7 w))
  | 5 => some (.cpys (bits 14 7 w) (bits 7 7 w) (bits 0 7 w))
  | _ => none

/-- Major 0x2A (R56). -/
def decodeQue (w : Nat) : Option Instr :=
  match fld 21 5 w with
  | 0 =>
    if fld 7 7 w = 0 ∧ fld 18 3 w = 0 then some (.qinit (bits 14 4 w) (bits 0 7 w)) else
    none
  | 1 =>
    if fld 0 7 w = 0 ∧ fld 18 3 w = 0 then some (.qpush (bits 14 4 w) (bits 7 7 w)) else
    none
  | 2 =>
    if fld 0 7 w = 0 ∧ fld 11 3 w = 0 then some (.qpop (bits 14 7 w) (bits 7 4 w)) else
    none
  | 3 =>
    if fld 0 7 w = 0 ∧ fld 11 3 w = 0 ∧ fld 18 3 w = 0 then some (.qpusht (bits 14 4 w) (bits 7 4 w)) else
    none
  | 4 =>
    if fld 0 7 w = 0 ∧ fld 11 3 w = 0 then some (.qpopt (bits 14 7 w) (bits 7 4 w)) else
    none
  | 5 =>
    if fld 7 7 w = 0 ∧ fld 18 3 w = 0 then some (.qallow (bits 14 4 w) (bits 0 7 w)) else
    none
  | _ => none

/-- Major 0x2B (R56). -/
def decodeTen (w : Nat) : Option Instr :=
  match fld 21 5 w with
  | 0 => some (.tnmov (bits 14 7 w) (bits 7 7 w) (bits 0 7 w))
  | 1 =>
    if fld 0 7 w = 0 then some (.tnpin (bits 14 7 w) (bits 7 7 w)) else
    none
  | 2 =>
    if fld 0 7 w = 0 then some (.tnunpin (bits 14 7 w) (bits 7 7 w)) else
    none
  | 3 =>
    if fld 0 7 w = 0 then some (.tnevict (bits 14 7 w) (bits 7 7 w)) else
    none
  | 4 =>
    if fld 0 7 w = 0 then some (.tnwait (bits 14 7 w) (bits 7 7 w)) else
    none
  | 5 =>
    if fld 0 7 w = 0 then some (.tnstat (bits 14 7 w) (bits 7 7 w)) else
    none
  | _ => none

/-- Major 0x30 (R56). -/
def decodeTile (w : Nat) : Option Instr :=
  match fld 21 5 w with
  | 0 =>
    if fld 18 3 w = 0 then some (.tld (bits 14 4 w) (bits 7 7 w) (bits 0 7 w)) else
    none
  | 1 =>
    if fld 18 3 w = 0 then some (.tst (bits 14 4 w) (bits 7 7 w) (bits 0 7 w)) else
    none
  | 2 =>
    if fld 0 14 w = 0 ∧ fld 18 3 w = 0 then some (.tzero (bits 14 4 w)) else
    none
  | _ => none

/-- Major 0x31 (R56). -/
def decodeMma (w : Nat) : Option Instr :=
  match fld 21 5 w with
  | 0 =>
    if fld 4 3 w = 0 ∧ fld 11 3 w = 0 ∧ fld 17 4 w = 0 then some (.mma (bits 14 3 w) (bits 7 4 w) (bits 0 4 w)) else
    none
  | 1 =>
    if fld 4 3 w = 0 ∧ fld 11 3 w = 0 ∧ fld 17 4 w = 0 then some (.mmaz (bits 14 3 w) (bits 7 4 w) (bits 0 4 w)) else
    none
  | 2 =>
    if fld 4 3 w = 0 ∧ fld 11 3 w = 0 ∧ fld 17 4 w = 0 then some (.mmar (bits 14 3 w) (bits 7 4 w) (bits 0 4 w)) else
    none
  | _ => none

/-- Major 0x32 (R56). -/
def decodeAcc (w : Nat) : Option Instr :=
  match fld 21 5 w with
  | 0 =>
    if fld 0 14 w = 0 ∧ fld 17 4 w = 0 then some (.accz (bits 14 3 w)) else
    none
  | 1 =>
    if fld 10 4 w = 0 then some (.accld (bits 14 7 w) (bits 7 3 w) (bits 0 7 w)) else
    none
  | 2 =>
    if fld 17 4 w = 0 then some (.draina (bits 14 3 w) (bits 7 7 w) (bits 0 7 w)) else
    none
  | 3 =>
    if fld 17 4 w = 0 then some (.drains (bits 14 3 w) (bits 7 7 w) (bits 0 7 w)) else
    none
  | _ => none

/-- Major 0x38 (R56). -/
def decodeReel (w : Nat) : Option Instr :=
  match fld 21 5 w with
  | 0 =>
    if fld 0 7 w = 0 then some (.trnew (bits 14 7 w) (bits 7 7 w)) else
    none
  | 1 =>
    if fld 1 6 w = 0 then some (.trroot (bits 14 7 w) (bits 7 7 w) (bits 0 1 w)) else
    none
  | 2 =>
    if fld 0 7 w = 0 then some (.trdesc (bits 14 7 w) (bits 7 7 w)) else
    none
  | 3 =>
    if fld 1 6 w = 0 then some (.trexp (bits 14 7 w) (bits 7 7 w) (bits 0 1 w)) else
    none
  | 4 =>
    if fld 14 7 w = 0 then some (.trback (bits 7 7 w) (bits 0 7 w)) else
    none
  | 5 =>
    if fld 0 7 w = 0 then some (.trreuse (bits 14 7 w) (bits 7 7 w)) else
    none
  | 6 =>
    if fld 1 6 w = 0 ∧ fld 14 7 w = 0 then some (.trfree (bits 7 7 w) (bits 0 1 w)) else
    none
  | 7 => some (.trleaf (bits 14 7 w) (bits 7 7 w) (bits 0 7 w))
  | 8 =>
    if fld 3 4 w = 0 then some (.trstat (bits 14 7 w) (bits 7 7 w) (bits 0 3 w)) else
    none
  | _ => none

/-- Major 0x39 (R56). -/
def decodeCtxi (w : Nat) : Option Instr :=
  match fld 21 5 w with
  | 0 =>
    if fld 0 7 w = 0 then some (.cxnew (bits 14 7 w) (bits 7 7 w)) else
    none
  | 1 =>
    if fld 0 7 w = 0 then some (.cxtnew (bits 14 7 w) (bits 7 7 w)) else
    none
  | 2 =>
    if fld 0 7 w = 0 ∧ fld 14 7 w = 0 then some (.cxret (bits 7 7 w)) else
    none
  | 3 =>
    if fld 0 7 w = 0 ∧ fld 14 7 w = 0 then some (.cxset (bits 7 7 w)) else
    none
  | 4 =>
    if fld 0 7 w = 0 then some (.cxget (bits 14 7 w) (bits 7 7 w)) else
    none
  | 5 =>
    if fld 0 7 w = 0 then some (.cxpar (bits 14 7 w) (bits 7 7 w)) else
    none
  | _ => none

/-- Major 0x3A (R56). -/
noncomputable def decodeFab (w : Nat) : Option Instr :=
  match fld 21 5 w with
  | 0 => some (.osend (bits 14 7 w) (bits 7 7 w) (bits 0 7 w))
  | 1 => some (.usend (bits 14 7 w) (bits 7 7 w) (bits 0 7 w))
  | 2 => some (.orecv (bits 14 7 w) (bits 7 7 w) (bits 0 7 w))
  | 3 =>
    if fld 0 7 w = 0 then some (.opeek (bits 14 7 w) (bits 7 7 w)) else
    none
  | 4 =>
    if fld 2 12 w = 0 then some (.ostamp (bits 14 7 w) (bits 0 2 w)) else
    none
  | 5 =>
    if fld 0 7 w = 0 then some (.owm (bits 14 7 w) (bits 7 7 w)) else
    none
  | _ => none

/-- Major 0x3B (R56). -/
def decodePage (w : Nat) : Option Instr :=
  match fld 21 5 w with
  | 0 =>
    if fld 0 7 w = 0 then some (.pstatr (bits 14 7 w) (bits 7 7 w)) else
    none
  | 1 =>
    if fld 0 7 w = 0 then some (.bwait (bits 14 7 w) (bits 7 7 w)) else
    none
  | 2 =>
    if fld 0 7 w = 0 then some (.btry (bits 14 7 w) (bits 7 7 w)) else
    none
  | 3 =>
    if fld 0 21 w = 0 then some .pfree else
    none
  | _ => none

/-- Major 0x3E (R56). -/
def decodeWait (w : Nat) : Option Instr :=
  if fld 0 2 w = 0 then some (.wait (bits 20 6 w) (bits 14 6 w) (bits 8 6 w) (bits 2 6 w)) else
  none

/-- Whether major 0x3A has the function and the sub-encoding of `w`. -/
def fabKnown (w : Nat) : Bool :=
  match fld 21 5 w with
  | 0 => true
  | 1 => true
  | 2 => true
  | 3 => fld 0 7 w = 0
  | 4 => fld 2 12 w = 0
  | 5 => fld 0 7 w = 0
  | _ => false

/-- What `w` is as an instruction word of any other major (R56). -/
def decodeMain (w : Nat) : Option Instr :=
  match fld 26 6 w with
  | 0 => decodeSys w
  | 1 => decodeSalu w
  | 2 => decodeSaddi w
  | 3 => decodeSandi w
  | 4 => decodeSori w
  | 5 => decodeSxori w
  | 6 => decodeSshi w
  | 7 => decodeScmpi w
  | 8 => decodeSli w
  | 9 => decodeSld w
  | 10 => decodeSst w
  | 11 => decodeSmov w
  | 12 => decodeB w
  | 13 => decodeCall w
  | 14 => decodeJmpr w
  | 15 => decodeMask w
  | 16 => decodeVia w
  | 17 => decodeVib w
  | 18 => decodeVbit w
  | 19 => decodeVaddi w
  | 20 => decodeVandi w
  | 21 => decodeVori w
  | 22 => decodeVxori w
  | 23 => decodeVshi w
  | 24 => decodeVfa w
  | 25 => decodeVfb w
  | 26 => decodeVdf w
  | 27 => decodeVcvt w
  | 28 => decodeVcmp w
  | 29 => decodeVfcmp w
  | 30 => decodeVxt w
  | 31 => decodeVred w
  | 32 => decodeVmov w
  | 33 => decodeVld w
  | 34 => decodeVldu w
  | 35 => decodeVst w
  | 36 => decodeVldx w
  | 37 => decodeVamo w
  | 38 => decodeVamx w
  | 39 => decodeSamo w
  | 40 => decodeTag w
  | 41 => decodeCpy w
  | 42 => decodeQue w
  | 43 => decodeTen w
  | 48 => decodeTile w
  | 49 => decodeMma w
  | 50 => decodeAcc w
  | 56 => decodeReel w
  | 57 => decodeCtxi w
  | 59 => decodePage w
  | 62 => decodeWait w
  | _ => none

/-- What the low 32 bits of `w` are as an instruction word; `none` where no row of the opcode map has them (R56). The Lean runtime cannot build the
four constructors that Syntax puts after the others, so this is marked noncomputable; the kernel evaluates it. -/
noncomputable def decode (w : Nat) : Option Instr := if fld 26 6 w = 58 then decodeFab w else decodeMain w

/-- Whether the low 32 bits of `w` are an instruction word. -/
def knownWord (w : Nat) : Bool := if fld 26 6 w = 58 then fabKnown w else (decodeMain w).isSome

/-- The decoder on an instruction of the opcode table, its bits numbered as the table numbers them. Every instruction is one
32-bit word (R49); a row without bits is no word. -/
noncomputable def decodeTableWord (nbits w : Nat) : Option Instr :=
  if nbits = 0 then none else decode (w % 2 ^ 32)

/-- The word of an instruction, each field at the place the encoding gives it (R51-R60); nothing for a step that has no word.
The word of ILLEGAL_WORD is the word that was fetched. -/
def encodeNat : Instr → Option Nat
  | .nop => some (0x00000000)
  | .exit => some (0x00200000)
  | .trap n => some (0x00400000 + n.toNat)
  | .eret => some (0x00600000)
  | .brk n => some (0x00800000 + n.toNat)
  | .mark i => some (0x00A00000 + i.toNat)
  | .fence o s => some (0x00C00000 + o.toNat * 128 + s.toNat)
  | .fencex p q s => some (0x00E00000 + p.toNat * 16384 + q.toNat * 128 + s.toNat)
  | .yield => some (0x01000000)
  | .yieldc n => some (0x01200000 + n.toNat)
  | .window n => some (0x01400000 + n.toNat)
  | .donate d a k => some (0x01600000 + d.toNat * 16384 + a.toNat * 128 + k.toNat)
  | .bar n c => some (0x01800000 + n.toNat * 128 + c.toNat)
  | .bara d n c => some (0x01A00000 + d.toNat * 16384 + n.toNat * 128 + c.toNat)
  | .barw n b => some (0x01C00000 + n.toNat * 128 + b.toNat)
  | .waita a b => some (0x01E00000 + a.toNat * 128 + b.toNat)
  | .wakea a => some (0x02000000 + a.toNat * 128)
  | .haltg a => some (0x02200000 + a.toNat * 128)
  | .haltgRes a => some (0x02204000 + a.toNat * 128)
  | .mbatch n => some (0x02400000 + n.toNat)
  | .mwait n => some (0x02600000 + n.toNat)
  | .sadd d a b => some (0x04000000 + d.toNat * 16384 + a.toNat * 128 + b.toNat)
  | .ssub d a b => some (0x04200000 + d.toNat * 16384 + a.toNat * 128 + b.toNat)
  | .smul d a b => some (0x04400000 + d.toNat * 16384 + a.toNat * 128 + b.toNat)
  | .smulh d a b => some (0x04600000 + d.toNat * 16384 + a.toNat * 128 + b.toNat)
  | .smulhu d a b => some (0x04800000 + d.toNat * 16384 + a.toNat * 128 + b.toNat)
  | .sdiv d a b => some (0x04A00000 + d.toNat * 16384 + a.toNat * 128 + b.toNat)
  | .sdivu d a b => some (0x04C00000 + d.toNat * 16384 + a.toNat * 128 + b.toNat)
  | .srem d a b => some (0x04E00000 + d.toNat * 16384 + a.toNat * 128 + b.toNat)
  | .sremu d a b => some (0x05000000 + d.toNat * 16384 + a.toNat * 128 + b.toNat)
  | .sand d a b => some (0x05200000 + d.toNat * 16384 + a.toNat * 128 + b.toNat)
  | .sor d a b => some (0x05400000 + d.toNat * 16384 + a.toNat * 128 + b.toNat)
  | .sxor d a b => some (0x05600000 + d.toNat * 16384 + a.toNat * 128 + b.toNat)
  | .sandn d a b => some (0x05800000 + d.toNat * 16384 + a.toNat * 128 + b.toNat)
  | .sshl d a b => some (0x05A00000 + d.toNat * 16384 + a.toNat * 128 + b.toNat)
  | .sshr d a b => some (0x05C00000 + d.toNat * 16384 + a.toNat * 128 + b.toNat)
  | .ssra d a b => some (0x05E00000 + d.toNat * 16384 + a.toNat * 128 + b.toNat)
  | .smin d a b => some (0x06000000 + d.toNat * 16384 + a.toNat * 128 + b.toNat)
  | .smax d a b => some (0x06200000 + d.toNat * 16384 + a.toNat * 128 + b.toNat)
  | .sminu d a b => some (0x06400000 + d.toNat * 16384 + a.toNat * 128 + b.toNat)
  | .smaxu d a b => some (0x06600000 + d.toNat * 16384 + a.toNat * 128 + b.toNat)
  | .scmp a b => some (0x06800000 + a.toNat * 128 + b.toNat)
  | .scmpu a b => some (0x06A00000 + a.toNat * 128 + b.toNat)
  | .ssel d a b => some (0x06C00000 + d.toNat * 16384 + a.toNat * 128 + b.toNat)
  | .spopc d a => some (0x06E00000 + d.toNat * 16384 + a.toNat * 128)
  | .sclz d a => some (0x07000000 + d.toNat * 16384 + a.toNat * 128)
  | .sctz d a => some (0x07200000 + d.toNat * 16384 + a.toNat * 128)
  | .sbrev d a => some (0x07400000 + d.toNat * 16384 + a.toNat * 128)
  | .sbfe d a b => some (0x07600000 + d.toNat * 16384 + a.toNat * 128 + b.toNat)
  | .sbfi d a b => some (0x07800000 + d.toNat * 16384 + a.toNat * 128 + b.toNat)
  | .saddi d a i => some (0x08000000 + d.toNat * 524288 + a.toNat * 4096 + i.toNat)
  | .sandi d a i => some (0x0C000000 + d.toNat * 524288 + a.toNat * 4096 + i.toNat)
  | .sori d a i => some (0x10000000 + d.toNat * 524288 + a.toNat * 4096 + i.toNat)
  | .sxori d a i => some (0x14000000 + d.toNat * 524288 + a.toNat * 4096 + i.toNat)
  | .sshli d a n => some (0x18000000 + d.toNat * 524288 + a.toNat * 4096 + n.toNat)
  | .sshri d a n => some (0x18000040 + d.toNat * 524288 + a.toNat * 4096 + n.toNat)
  | .ssrai d a n => some (0x18000080 + d.toNat * 524288 + a.toNat * 4096 + n.toNat)
  | .scmpi a i => some (0x1C000000 + a.toNat * 4096 + i.toNat)
  | .scmpiu a i => some (0x1C080000 + a.toNat * 4096 + i.toNat)
  | .sli d z h i => some (0x20000000 + d.toNat * 524288 + z.toNat * 262144 + h.toNat * 65536 + i.toNat)
  | .sld d a w o s n => some (0x24000000 + d.toNat * 131072 + a.toNat * 1024 + w.toNat * 256 + o.toNat * 64 + s.toNat * 16 + n.toNat)
  | .sst d a w o s n => some (0x28000000 + d.toNat * 131072 + a.toNat * 1024 + w.toNat * 256 + o.toNat * 64 + s.toNat * 16 + n.toNat)
  | .smfs d a => some (0x2C000000 + d.toNat * 16384 + a.toNat * 128)
  | .smts d a => some (0x2C200000 + d.toNat * 16384 + a.toNat * 128)
  | .smfk d a => some (0x2C400000 + d.toNat * 16384 + a.toNat * 128)
  | .smtk d a => some (0x2C600000 + d.toNat * 16384 + a.toNat * 128)
  | .b c f => some (0x30000000 + c.toNat * 2097152 + f.toNat)
  | .call f => some (0x34000000 + f.toNat)
  | .jr a => some (0x38000000 + a.toNat * 128)
  | .callr a => some (0x38200000 + a.toNat * 128)
  | .ret => some (0x38400000)
  | .kand d a b => some (0x3C000000 + d.toNat * 16384 + a.toNat * 128 + b.toNat)
  | .kor d a b => some (0x3C200000 + d.toNat * 16384 + a.toNat * 128 + b.toNat)
  | .kxor d a b => some (0x3C400000 + d.toNat * 16384 + a.toNat * 128 + b.toNat)
  | .kandn d a b => some (0x3C600000 + d.toNat * 16384 + a.toNat * 128 + b.toNat)
  | .knot d a => some (0x3C800000 + d.toNat * 16384 + a.toNat * 128)
  | .kmov d a => some (0x3CA00000 + d.toNat * 16384 + a.toNat * 128)
  | .kpopc d a => some (0x3CC00000 + d.toNat * 16384 + a.toNat * 128)
  | .kffs d a => some (0x3CE00000 + d.toNat * 16384 + a.toNat * 128)
  | .kfroms d a b => some (0x3D000000 + d.toNat * 16384 + a.toNat * 128 + b.toNat)
  | .ktos d a b => some (0x3D200000 + d.toNat * 16384 + a.toNat * 128 + b.toNat)
  | .kall d b => some (0x3D400000 + d.toNat * 16384 + b.toNat)
  | .wait l s c t => some (0xF8000000 + l.toNat * 1048576 + s.toNat * 16384 + c.toNat * 256 + t.toNat * 4)
  | .vadd g d a b => some (0x40000000 + g.toNat * 16777216 + d.toNat * 16384 + a.toNat * 128 + b.toNat)
  | .vsub g d a b => some (0x40200000 + g.toNat * 16777216 + d.toNat * 16384 + a.toNat * 128 + b.toNat)
  | .vmul g d a b => some (0x40400000 + g.toNat * 16777216 + d.toNat * 16384 + a.toNat * 128 + b.toNat)
  | .vmulh g d a b => some (0x40600000 + g.toNat * 16777216 + d.toNat * 16384 + a.toNat * 128 + b.toNat)
  | .vmulhu g d a b => some (0x40800000 + g.toNat * 16777216 + d.toNat * 16384 + a.toNat * 128 + b.toNat)
  | .vmin g d a b => some (0x40A00000 + g.toNat * 16777216 + d.toNat * 16384 + a.toNat * 128 + b.toNat)
  | .vmax g d a b => some (0x40C00000 + g.toNat * 16777216 + d.toNat * 16384 + a.toNat * 128 + b.toNat)
  | .vminu g d a b => some (0x40E00000 + g.toNat * 16777216 + d.toNat * 16384 + a.toNat * 128 + b.toNat)
  | .vmaxu g d a b => some (0x44000000 + g.toNat * 16777216 + d.toNat * 16384 + a.toNat * 128 + b.toNat)
  | .vand g d a b => some (0x44200000 + g.toNat * 16777216 + d.toNat * 16384 + a.toNat * 128 + b.toNat)
  | .vor g d a b => some (0x44400000 + g.toNat * 16777216 + d.toNat * 16384 + a.toNat * 128 + b.toNat)
  | .vxor g d a b => some (0x44600000 + g.toNat * 16777216 + d.toNat * 16384 + a.toNat * 128 + b.toNat)
  | .vandn g d a b => some (0x44800000 + g.toNat * 16777216 + d.toNat * 16384 + a.toNat * 128 + b.toNat)
  | .vshl g d a b => some (0x44A00000 + g.toNat * 16777216 + d.toNat * 16384 + a.toNat * 128 + b.toNat)
  | .vshr g d a b => some (0x44C00000 + g.toNat * 16777216 + d.toNat * 16384 + a.toNat * 128 + b.toNat)
  | .vsra g d a b => some (0x44E00000 + g.toNat * 16777216 + d.toNat * 16384 + a.toNat * 128 + b.toNat)
  | .vbfe g d a b => some (0x48000000 + g.toNat * 16777216 + d.toNat * 16384 + a.toNat * 128 + b.toNat)
  | .vbfeu g d a b => some (0x48200000 + g.toNat * 16777216 + d.toNat * 16384 + a.toNat * 128 + b.toNat)
  | .vbfi g d a b => some (0x48400000 + g.toNat * 16777216 + d.toNat * 16384 + a.toNat * 128 + b.toNat)
  | .vbrev g d a => some (0x48600000 + g.toNat * 16777216 + d.toNat * 16384 + a.toNat * 128)
  | .vpopc g d a => some (0x48800000 + g.toNat * 16777216 + d.toNat * 16384 + a.toNat * 128)
  | .vclz g d a => some (0x48A00000 + g.toNat * 16777216 + d.toNat * 16384 + a.toNat * 128)
  | .vctz g d a => some (0x48C00000 + g.toNat * 16777216 + d.toNat * 16384 + a.toNat * 128)
  | .vabs g d a => some (0x48E00000 + g.toNat * 16777216 + d.toNat * 16384 + a.toNat * 128)
  | .vaddi g d a i => some (0x4C000000 + g.toNat * 16777216 + d.toNat * 131072 + a.toNat * 1024 + i.toNat)
  | .vandi g d a i => some (0x50000000 + g.toNat * 16777216 + d.toNat * 131072 + a.toNat * 1024 + i.toNat)
  | .vori g d a i => some (0x54000000 + g.toNat * 16777216 + d.toNat * 131072 + a.toNat * 1024 + i.toNat)
  | .vxori g d a i => some (0x58000000 + g.toNat * 16777216 + d.toNat * 131072 + a.toNat * 1024 + i.toNat)
  | .vshli g d a n => some (0x5C000000 + g.toNat * 16777216 + d.toNat * 131072 + a.toNat * 1024 + n.toNat)
  | .vshri g d a n => some (0x5C000040 + g.toNat * 16777216 + d.toNat * 131072 + a.toNat * 1024 + n.toNat)
  | .vsrai g d a n => some (0x5C000080 + g.toNat * 16777216 + d.toNat * 131072 + a.toNat * 1024 + n.toNat)
  | .vfadd g d a b => some (0x60000000 + g.toNat * 16777216 + d.toNat * 16384 + a.toNat * 128 + b.toNat)
  | .vfsub g d a b => some (0x60200000 + g.toNat * 16777216 + d.toNat * 16384 + a.toNat * 128 + b.toNat)
  | .vfmul g d a b => some (0x60400000 + g.toNat * 16777216 + d.toNat * 16384 + a.toNat * 128 + b.toNat)
  | .vfma g d a b => some (0x60600000 + g.toNat * 16777216 + d.toNat * 16384 + a.toNat * 128 + b.toNat)
  | .vfms g d a b => some (0x60800000 + g.toNat * 16777216 + d.toNat * 16384 + a.toNat * 128 + b.toNat)
  | .vfmin g d a b => some (0x60A00000 + g.toNat * 16777216 + d.toNat * 16384 + a.toNat * 128 + b.toNat)
  | .vfmax g d a b => some (0x60C00000 + g.toNat * 16777216 + d.toNat * 16384 + a.toNat * 128 + b.toNat)
  | .vfabs g d a => some (0x60E00000 + g.toNat * 16777216 + d.toNat * 16384 + a.toNat * 128)
  | .vfdiv g d a b => some (0x64000000 + g.toNat * 16777216 + d.toNat * 16384 + a.toNat * 128 + b.toNat)
  | .vfsqrt g d a => some (0x64200000 + g.toNat * 16777216 + d.toNat * 16384 + a.toNat * 128)
  | .vfrcp g d a => some (0x64400000 + g.toNat * 16777216 + d.toNat * 16384 + a.toNat * 128)
  | .vfrsq g d a => some (0x64600000 + g.toNat * 16777216 + d.toNat * 16384 + a.toNat * 128)
  | .vfexp2 g d a => some (0x64800000 + g.toNat * 16777216 + d.toNat * 16384 + a.toNat * 128)
  | .vflog2 g d a => some (0x64A00000 + g.toNat * 16777216 + d.toNat * 16384 + a.toNat * 128)
  | .vffloor g d a => some (0x64C00000 + g.toNat * 16777216 + d.toNat * 16384 + a.toNat * 128)
  | .vfrint g d a => some (0x64E00000 + g.toNat * 16777216 + d.toNat * 16384 + a.toNat * 128)
  | .vdadd g d a b => some (0x68000000 + g.toNat * 16777216 + d.toNat * 16384 + a.toNat * 128 + b.toNat)
  | .vdsub g d a b => some (0x68200000 + g.toNat * 16777216 + d.toNat * 16384 + a.toNat * 128 + b.toNat)
  | .vdmul g d a b => some (0x68400000 + g.toNat * 16777216 + d.toNat * 16384 + a.toNat * 128 + b.toNat)
  | .vdfma g d a b => some (0x68600000 + g.toNat * 16777216 + d.toNat * 16384 + a.toNat * 128 + b.toNat)
  | .vddiv g d a b => some (0x68800000 + g.toNat * 16777216 + d.toNat * 16384 + a.toNat * 128 + b.toNat)
  | .vdsqrt g d a => some (0x68A00000 + g.toNat * 16777216 + d.toNat * 16384 + a.toNat * 128)
  | .vdmin g d a b => some (0x68C00000 + g.toNat * 16777216 + d.toNat * 16384 + a.toNat * 128 + b.toNat)
  | .vdmax g d a b => some (0x68E00000 + g.toNat * 16777216 + d.toNat * 16384 + a.toNat * 128 + b.toNat)
  | .vcvt g d a c => some (0x6C000000 + g.toNat * 16777216 + d.toNat * 16384 + a.toNat * 128 + c.toNat)
  | .vceq g d a b => some (0x70000000 + g.toNat * 16777216 + d.toNat * 16384 + a.toNat * 128 + b.toNat)
  | .vcne g d a b => some (0x70200000 + g.toNat * 16777216 + d.toNat * 16384 + a.toNat * 128 + b.toNat)
  | .vclt g d a b => some (0x70400000 + g.toNat * 16777216 + d.toNat * 16384 + a.toNat * 128 + b.toNat)
  | .vcle g d a b => some (0x70600000 + g.toNat * 16777216 + d.toNat * 16384 + a.toNat * 128 + b.toNat)
  | .vcltu g d a b => some (0x70800000 + g.toNat * 16777216 + d.toNat * 16384 + a.toNat * 128 + b.toNat)
  | .vcleu g d a b => some (0x70A00000 + g.toNat * 16777216 + d.toNat * 16384 + a.toNat * 128 + b.toNat)
  | .vfceq g d a b => some (0x74000000 + g.toNat * 16777216 + d.toNat * 16384 + a.toNat * 128 + b.toNat)
  | .vfcne g d a b => some (0x74200000 + g.toNat * 16777216 + d.toNat * 16384 + a.toNat * 128 + b.toNat)
  | .vfclt g d a b => some (0x74400000 + g.toNat * 16777216 + d.toNat * 16384 + a.toNat * 128 + b.toNat)
  | .vfcle g d a b => some (0x74600000 + g.toNat * 16777216 + d.toNat * 16384 + a.toNat * 128 + b.toNat)
  | .vfcun g d a b => some (0x74800000 + g.toNat * 16777216 + d.toNat * 16384 + a.toNat * 128 + b.toNat)
  | .vdceq g d a b => some (0x74A00000 + g.toNat * 16777216 + d.toNat * 16384 + a.toNat * 128 + b.toNat)
  | .vdclt g d a b => some (0x74C00000 + g.toNat * 16777216 + d.toNat * 16384 + a.toNat * 128 + b.toNat)
  | .vdcle g d a b => some (0x74E00000 + g.toNat * 16777216 + d.toNat * 16384 + a.toNat * 128 + b.toNat)
  | .vshfl g d a b => some (0x78000000 + g.toNat * 16777216 + d.toNat * 16384 + a.toNat * 128 + b.toNat)
  | .vshflx g d a b => some (0x78200000 + g.toNat * 16777216 + d.toNat * 16384 + a.toNat * 128 + b.toNat)
  | .vshflu g d a b => some (0x78400000 + g.toNat * 16777216 + d.toNat * 16384 + a.toNat * 128 + b.toNat)
  | .vshfld g d a b => some (0x78600000 + g.toNat * 16777216 + d.toNat * 16384 + a.toNat * 128 + b.toNat)
  | .vbcast g d a b => some (0x78800060 + g.toNat * 16777216 + d.toNat * 16384 + a.toNat * 128 + b.toNat)
  | .vsel g d a b => some (0x78A00000 + g.toNat * 16777216 + d.toNat * 16384 + a.toNat * 128 + b.toNat)
  | .vballot g d a => some (0x78D80000 + g.toNat * 16777216 + d.toNat * 16384 + a.toNat * 128)
  | .vtid g d => some (0x78E00000 + g.toNat * 16777216 + d.toNat * 16384)
  | .vredadd g d a => some (0x7C180000 + g.toNat * 16777216 + d.toNat * 16384 + a.toNat * 128)
  | .vredmin g d a => some (0x7C380000 + g.toNat * 16777216 + d.toNat * 16384 + a.toNat * 128)
  | .vredmax g d a => some (0x7C580000 + g.toNat * 16777216 + d.toNat * 16384 + a.toNat * 128)
  | .vredminu g d a => some (0x7C780000 + g.toNat * 16777216 + d.toNat * 16384 + a.toNat * 128)
  | .vredmaxu g d a => some (0x7C980000 + g.toNat * 16777216 + d.toNat * 16384 + a.toNat * 128)
  | .vredfadd g d a => some (0x7CB80000 + g.toNat * 16777216 + d.toNat * 16384 + a.toNat * 128)
  | .vscan g d a => some (0x7CC00000 + g.toNat * 16777216 + d.toNat * 16384 + a.toNat * 128)
  | .vscanf g d a => some (0x7CE00000 + g.toNat * 16777216 + d.toNat * 16384 + a.toNat * 128)
  | .vmov g d a => some (0x80000000 + g.toNat * 16777216 + d.toNat * 16384 + a.toNat * 128)
  | .vmfs g d a b => some (0x80200000 + g.toNat * 16777216 + d.toNat * 16384 + a.toNat * 128 + b.toNat)
  | .vmerge g d a b => some (0x80400000 + g.toNat * 16777216 + d.toNat * 16384 + a.toNat * 128 + b.toNat)
  | .vld g d a w o s n => some (0x84000000 + g.toNat * 16777216 + d.toNat * 131072 + a.toNat * 1024 + w.toNat * 256 + o.toNat * 64 + s.toNat * 16 + n.toNat)
  | .vldu g d a w o s n => some (0x88000000 + g.toNat * 16777216 + d.toNat * 131072 + a.toNat * 1024 + w.toNat * 256 + o.toNat * 64 + s.toNat * 16 + n.toNat)
  | .vst g d a w o s n => some (0x8C000000 + g.toNat * 16777216 + d.toNat * 131072 + a.toNat * 1024 + w.toNat * 256 + o.toNat * 64 + s.toNat * 16 + n.toNat)
  | .vldx g f d a b => some (0x90000060 + g.toNat * 16777216 + f.toNat * 2097152 + d.toNat * 16384 + a.toNat * 128 + b.toNat)
  | .vamoadd g d a b => some (0x94000000 + g.toNat * 16777216 + d.toNat * 16384 + a.toNat * 128 + b.toNat)
  | .vamomin g d a b => some (0x94200000 + g.toNat * 16777216 + d.toNat * 16384 + a.toNat * 128 + b.toNat)
  | .vamomax g d a b => some (0x94400000 + g.toNat * 16777216 + d.toNat * 16384 + a.toNat * 128 + b.toNat)
  | .vamominu g d a b => some (0x94600000 + g.toNat * 16777216 + d.toNat * 16384 + a.toNat * 128 + b.toNat)
  | .vamomaxu g d a b => some (0x94800000 + g.toNat * 16777216 + d.toNat * 16384 + a.toNat * 128 + b.toNat)
  | .vamoand g d a b => some (0x94A00000 + g.toNat * 16777216 + d.toNat * 16384 + a.toNat * 128 + b.toNat)
  | .vamoor g d a b => some (0x94C00000 + g.toNat * 16777216 + d.toNat * 16384 + a.toNat * 128 + b.toNat)
  | .vamoxor g d a b => some (0x94E00000 + g.toNat * 16777216 + d.toNat * 16384 + a.toNat * 128 + b.toNat)
  | .vcas g d a b => some (0x98000000 + g.toNat * 16777216 + d.toNat * 16384 + a.toNat * 128 + b.toNat)
  | .vxchg g d a b => some (0x98200000 + g.toNat * 16777216 + d.toNat * 16384 + a.toNat * 128 + b.toNat)
  | .vamofadd g d a b => some (0x98400000 + g.toNat * 16777216 + d.toNat * 16384 + a.toNat * 128 + b.toNat)
  | .vamofmin g d a b => some (0x98600000 + g.toNat * 16777216 + d.toNat * 16384 + a.toNat * 128 + b.toNat)
  | .vamofmax g d a b => some (0x98800000 + g.toNat * 16777216 + d.toNat * 16384 + a.toNat * 128 + b.toNat)
  | .samoadd d a b => some (0x9C000000 + d.toNat * 16384 + a.toNat * 128 + b.toNat)
  | .samomin d a b => some (0x9C200000 + d.toNat * 16384 + a.toNat * 128 + b.toNat)
  | .samomax d a b => some (0x9C400000 + d.toNat * 16384 + a.toNat * 128 + b.toNat)
  | .samoand d a b => some (0x9C600000 + d.toNat * 16384 + a.toNat * 128 + b.toNat)
  | .samoor d a b => some (0x9C800000 + d.toNat * 16384 + a.toNat * 128 + b.toNat)
  | .samoxor d a b => some (0x9CA00000 + d.toNat * 16384 + a.toNat * 128 + b.toNat)
  | .scas d a b => some (0x9CC00000 + d.toNat * 16384 + a.toNat * 128 + b.toNat)
  | .sxchg d a b => some (0x9CE00000 + d.toNat * 16384 + a.toNat * 128 + b.toNat)
  | .tlook d a => some (0xA0000000 + d.toNat * 16384 + a.toNat * 128)
  | .tset a b => some (0xA0200000 + a.toNat * 128 + b.toNat)
  | .tinv a => some (0xA0400000 + a.toNat * 128)
  | .tclr => some (0xA0600000)
  | .tslot d a => some (0xA0800000 + d.toNat * 16384 + a.toNat * 128)
  | .cpy d a b => some (0xA4000000 + d.toNat * 16384 + a.toNat * 128 + b.toNat)
  | .cpym d a b => some (0xA4200000 + d.toNat * 16384 + a.toNat * 128 + b.toNat)
  | .cpyd d a b => some (0xA4400000 + d.toNat * 16384 + a.toNat * 128 + b.toNat)
  | .cpyc d a b => some (0xA4600000 + d.toNat * 16384 + a.toNat * 128 + b.toNat)
  | .cpyg d a b => some (0xA4800000 + d.toNat * 16384 + a.toNat * 128 + b.toNat)
  | .cpys d a b => some (0xA4A00000 + d.toNat * 16384 + a.toNat * 128 + b.toNat)
  | .qinit d b => some (0xA8000000 + d.toNat * 16384 + b.toNat)
  | .qpush d a => some (0xA8200000 + d.toNat * 16384 + a.toNat * 128)
  | .qpop d a => some (0xA8400000 + d.toNat * 16384 + a.toNat * 128)
  | .qpusht d a => some (0xA8600000 + d.toNat * 16384 + a.toNat * 128)
  | .qpopt d a => some (0xA8800000 + d.toNat * 16384 + a.toNat * 128)
  | .qallow d b => some (0xA8A00000 + d.toNat * 16384 + b.toNat)
  | .tnmov d a b => some (0xAC000000 + d.toNat * 16384 + a.toNat * 128 + b.toNat)
  | .tnpin d a => some (0xAC200000 + d.toNat * 16384 + a.toNat * 128)
  | .tnunpin d a => some (0xAC400000 + d.toNat * 16384 + a.toNat * 128)
  | .tnevict d a => some (0xAC600000 + d.toNat * 16384 + a.toNat * 128)
  | .tnwait d a => some (0xAC800000 + d.toNat * 16384 + a.toNat * 128)
  | .tnstat d a => some (0xACA00000 + d.toNat * 16384 + a.toNat * 128)
  | .tld d a b => some (0xC0000000 + d.toNat * 16384 + a.toNat * 128 + b.toNat)
  | .tst d a b => some (0xC0200000 + d.toNat * 16384 + a.toNat * 128 + b.toNat)
  | .tzero d => some (0xC0400000 + d.toNat * 16384)
  | .mma d a b => some (0xC4000000 + d.toNat * 16384 + a.toNat * 128 + b.toNat)
  | .mmaz d a b => some (0xC4200000 + d.toNat * 16384 + a.toNat * 128 + b.toNat)
  | .mmar d a b => some (0xC4400000 + d.toNat * 16384 + a.toNat * 128 + b.toNat)
  | .accz d => some (0xC8000000 + d.toNat * 16384)
  | .accld d a b => some (0xC8200000 + d.toNat * 16384 + a.toNat * 128 + b.toNat)
  | .draina d a b => some (0xC8400000 + d.toNat * 16384 + a.toNat * 128 + b.toNat)
  | .drains d a b => some (0xC8600000 + d.toNat * 16384 + a.toNat * 128 + b.toNat)
  | .trnew d a => some (0xE0000000 + d.toNat * 16384 + a.toNat * 128)
  | .trroot d a b => some (0xE0200000 + d.toNat * 16384 + a.toNat * 128 + b.toNat)
  | .trdesc d a => some (0xE0400000 + d.toNat * 16384 + a.toNat * 128)
  | .trexp d a b => some (0xE0600000 + d.toNat * 16384 + a.toNat * 128 + b.toNat)
  | .trback a b => some (0xE0800000 + a.toNat * 128 + b.toNat)
  | .trreuse d a => some (0xE0A00000 + d.toNat * 16384 + a.toNat * 128)
  | .trfree a b => some (0xE0C00000 + a.toNat * 128 + b.toNat)
  | .trleaf d a b => some (0xE0E00000 + d.toNat * 16384 + a.toNat * 128 + b.toNat)
  | .trstat d a k => some (0xE1000000 + d.toNat * 16384 + a.toNat * 128 + k.toNat)
  | .cxnew d a => some (0xE4000000 + d.toNat * 16384 + a.toNat * 128)
  | .cxtnew d a => some (0xE4200000 + d.toNat * 16384 + a.toNat * 128)
  | .cxret a => some (0xE4400000 + a.toNat * 128)
  | .cxset a => some (0xE4600000 + a.toNat * 128)
  | .cxget d a => some (0xE4800000 + d.toNat * 16384 + a.toNat * 128)
  | .cxpar d a => some (0xE4A00000 + d.toNat * 16384 + a.toNat * 128)
  | .osend d a b => some (0xE8000000 + d.toNat * 16384 + a.toNat * 128 + b.toNat)
  | .usend d a b => some (0xE8200000 + d.toNat * 16384 + a.toNat * 128 + b.toNat)
  | .orecv d a b => some (0xE8400000 + d.toNat * 16384 + a.toNat * 128 + b.toNat)
  | .opeek d a => some (0xE8600000 + d.toNat * 16384 + a.toNat * 128)
  | .ostamp d k => some (0xE8800000 + d.toNat * 16384 + k.toNat)
  | .owm d a => some (0xE8A00000 + d.toNat * 16384 + a.toNat * 128)
  | .pstatr d a => some (0xEC000000 + d.toNat * 16384 + a.toNat * 128)
  | .bwait d a => some (0xEC200000 + d.toNat * 16384 + a.toNat * 128)
  | .btry d a => some (0xEC400000 + d.toNat * 16384 + a.toNat * 128)
  | .pfree => some (0xEC600000)
  | .groupRetire _ => none
  | .donateTransfer _ _ => none
  | .loadCompletion _ => none
  | .storePerformed _ => none
  | .atomicCompletion _ => none
  | .hostAtomicCompletion _ _ => none
  | .hostCompletionTimeout _ => none
  | .copyCompletion _ => none
  | .engineAccept _ => none
  | .tileCompletion _ => none
  | .mmaCompletion _ => none
  | .mmarAllowance _ _ => none
  | .drainCompletion _ => none
  | .reelStep _ => none
  | .parkedReplay _ => none
  | .faultQueueRoom _ => none
  | .waitaTimeout _ => none
  | .bwaitTimeout _ => none
  | .orecvTimeout _ => none
  | .reclaimComplete _ => none
  | .moveCompletes _ _ => none
  | .moveFails _ _ => none
  | .evictionEnd _ _ => none
  | .pageReadIssue _ => none
  | .pageLanding _ _ _ => none
  | .distaffBoundExpiry _ _ _ => none
  | .nvmeReadCompletion _ _ _ _ => none
  | .nvmeTimeout _ _ => none
  | .memoryPageCopy _ _ => none
  | .placement _ _ => none
  | .activeSwap _ _ => none
  | .promotion _ => none
  | .teamSwapOut _ => none
  | .teamSwapIn _ => none
  | .timeSliceExpiry _ => none
  | .deferralLimitExpiry _ => none
  | .teamSave _ => none
  | .teamRestore _ => none
  | .quantumEnd _ => none
  | .syncOpEffect _ => none
  | .launch _ _ => none
  | .move _ _ => none
  | .copyPacket _ _ => none
  | .signal _ _ => none
  | .waitPacket _ _ => none
  | .bundle _ _ => none
  | .completionRecord _ => none
  | .createq _ _ => none
  | .resetq _ _ => none
  | .destroyq _ _ => none
  | .setasid _ _ _ _ _ => none
  | .sets2 _ _ _ _ _ => none
  | .tlbinv _ _ => none
  | .faultq _ _ _ => none
  | .faultrespReplay _ _ => none
  | .faultrespFail _ _ => none
  | .eventq _ _ _ => none
  | .quota _ _ _ _ _ => none
  | .cellstore _ _ _ => none
  | .regtensor _ _ => none
  | .unregtensor _ _ => none
  | .preempt _ _ => none
  | .keyset _ _ => none
  | .keyclr _ _ => none
  | .power _ _ _ => none
  | .fwload _ _ _ _ => none
  | .attest _ _ _ _ => none
  | .nvmepass _ _ _ _ => none
  | .nvmepassCompletion _ _ => none
  | .ringbind _ _ _ _ _ _ _ => none
  | .ringfree _ _ => none
  | .importBind _ _ _ _ _ => none
  | .importRemove _ _ _ => none
  | .nvmeto _ _ _ => none
  | .fabricMessageArrival _ _ => none
  | .beaconArrival _ _ _ => none
  | .unorderedArrival _ _ => none
  | .orderedDelivery => none
  | .beaconTimer _ => none
  | .timeBeacon _ => none
  | .portStall _ => none
  | .pause _ _ _ => none
  | .peerRequest _ _ _ _ _ => none
  | .portAdmit _ => none
  | .portFence _ => none
  | .fabdropClear _ => none
  | .linkdown _ => none
  | .bar2Access _ _ _ => none
  | .cxlMemAccess _ _ => none
  | .gcmdStop _ => none
  | .gcmdResume _ _ => none
  | .gcmdStep _ => none
  | .prctlClr _ _ => none
  | .groupWindowWrite _ _ _ => none
  | .traceEnable _ _ => none
  | .syncSet _ => none
  | .traceRecordWrite _ => none
  | .breakpointStop _ => none
  | .coreDump _ => none
  | .hankMirror => none
  | .thermwarn _ _ => none
  | .thermtrip _ _ => none
  | .fundamentalReset => none
  | .functionLevelReset _ => none
  | .registerWrite _ _ => none
  | .illegalWord w => some w.toNat
  | .outOfSectionFetch _ => none
  | .powerLoss => none
  | .linkTrained _ _ _ => none
  | .unusedSlot _ _ => none

/-- The instruction word, as R63 puts it into TVAL. -/
def encode (i : Instr) : Option Word := (encodeNat i).map (BitVec.ofNat 32)

/-- The bytes of an instruction word as they stand in memory, the lowest address first (R49). -/
def wordBytes (w : Word) : List Byte :=
  [w.extractLsb' 0 8, w.extractLsb' 8 8, w.extractLsb' 16 8, w.extractLsb' 24 8]

end Sys2Proof
end

