-- ==== Sys2Proof/Config.lean ====
section
/-! DEFINITION. What the specification leaves to the device: constants without a body, so that nothing proved here rests on a value
of theirs, and the limits the specification fixes. A constant of a `Nat` argument is applied to `State.fresh`, which the step
advances (log 3). -/

namespace Sys2Proof.Config

/-- A 32-bit value that the specification leaves open. -/
opaque freeWord : Nat → Word

/-- A 64-bit value that the specification leaves open. -/
opaque freeDWord : Nat → DWord

/-- A byte that the specification leaves open. -/
opaque freeByte : Nat → Byte

/-- A byte read through another key than the one under which it was written (R373): the key's generation, the byte's number, and the bytes of
its 16-byte block, each with the generation it was written under. -/
opaque otherKey : (gen off : Nat) → (block : List (Byte × Nat)) → Byte

/-- Whether an access finds the entry that the translation caches hold for it: R287 leaves the caches' extent open. -/
opaque tlbHit : Nat → Bool

/-- Whether an invalidation that names no cached entry also drops this one, which R287 permits. -/
opaque tlbDrop : Nat → Bool

/-- Whether an uncorrectable error of an HBM location is one of the home cache's copy: which locations the caches hold is open (R256). -/
opaque inHomeCache : Nat → Bool

/-- Whether an event ring is full when a record is posted: R367 gives the ring no read pointer. -/
opaque eventFull : Nat → Bool

/-- The private half of the device's Ed25519 identity key (R378). -/
opaque identityKey : BitVec 256

/-- The fused hashes of the signers' keys, without those that are revoked (R376). -/
opaque keyHashes : List (BitVec 512)

/-- The contents of the hub ROM (R378). -/
opaque hubRom : List Byte

/-- The bytes of a partition's configuration that are hashed, whose form R378 leaves open, as a function of the numbers that make it up. -/
opaque configBytes : List Nat → List Byte

/-- The device's certificate chain (R378). -/
opaque certificate : List Byte

end Sys2Proof.Config
end

