-- ==== Sys2Proof/Machine/Debug.lean ====
section
/-! DEFINITION. What the debug block of a spindle does of itself: trace records (R391-R395), stops (R396), watchpoints (R397) and
breakpoints (R398). -/

namespace Sys2Proof.Machine

/-- TREN and the other bits of DBGCTL (R390). -/
def Dbg.tren (d : Dbg) : Bool := tbit d.ctl 7
/-- The ring overwrites its oldest records (R390). -/
def Dbg.wrap (d : Dbg) : Bool := tbit d.ctl 8
/-- A MARK stalls while staging is full (R390). -/
def Dbg.bp (d : Dbg) : Bool := tbit d.ctl 9
/-- BRK stops its group (R390). -/
def Dbg.brkStop (d : Dbg) : Bool := tbit d.ctl 10
/-- A stop stops the rest of the team (R390). -/
def Dbg.teamStop (d : Dbg) : Bool := tbit d.ctl 11
/-- The partition that is traced (R390). -/
def Dbg.part (d : Dbg) : Nat := d.ctl.toNat % 128

/-- Bits of a record: `x` cut to `len` bits at `lo` (R392). -/
def recField (lo len x : Nat) : Nat := x % 2 ^ len * 2 ^ lo

/-- Whether tracing selects a launch: it is on, the launch belongs to the partition, and its queue is one that TRQ selects (R390, R391). -/
def Dbg.selects (d : Dbg) (g : Grid) : Bool := d.tren && d.part = g.part && (tbit d.trq 6 || d.trq.toNat % 64 = g.queue)

/-- Whether a ring without WRAP holds all the records it can (R390, R395). -/
def Dbg.ringFull (d : Dbg) : Bool := !d.wrap && decide (2 ^ d.trsize ≤ d.trwp.toNat)

/-- DBGST.TRFULL follows the ring: set where it is full while tracing is on, and kept until TREN falls (R395, R399). -/
def Dbg.noteFull (d : Dbg) : Dbg := { d with trfull := d.tren && (d.trfull || d.ringFull) }

/-- Arithmetic cycles since the spindle's previous record, in whatever power states they have passed (R379, R393). -/
def cyclesSince (s : State) (d : Dbg) : Nat := s.cycles / 10 - d.lastRec

/-- The TIME record (R392). -/
def timeRec (s : State) (n : Nat) : BitVec 128 :=
  BitVec.ofNat 128 (3 + recField 8 11 (spindleFmt n) + recField 64 64 s.now)

/-- Stages a record; a TIME record goes first where more than `2 ^ bits - 1` cycles have passed, and a LOST record first where
records were dropped, from which the next one's dt then counts (R393, R395). `mk` makes the record from dt. -/
def stage (n bits : Nat) (mk : Nat → BitVec 128) (s : State) : State :=
  let d := dbgOf s n
  let lost := if d.lost = 0 then [] else [BitVec.ofNat 128 (5 + recField 32 32 (min d.lost (2 ^ 32 - 1)))]
  let c := if d.lost = 0 then cyclesSince s d else 0
  let late := 2 ^ bits - 1 < c
  let rs := lost ++ (if late then [timeRec s n] else []) ++ [mk (if late then 0 else c)]
  updDbg n (fun d => { d with staged := d.staged ++ rs, lost := 0, lastRec := s.cycles / 10 }) s

/-- The trace slot a launch holds on a spindle (R391). -/
def traceSlot (d : Dbg) (launch : Nat) : Option Nat := (d.slots.find? fun p => p.2 = launch).map (·.1)

/-- Whether a group's launch is selected for tracing on its spindle and holds a slot (R391). -/
def tracedSlot (s : State) (k : GKey) : Option Nat :=
  match findTeam s (tkeyOf k), findGrid s k.launch with
  | some t, some g => if (dbgOf s t.spindle).selects g then traceSlot (dbgOf s t.spindle) k.launch else none
  | _, _ => none

/-- The word offset of an address from the launch's code base (R392). -/
def codeOff (s : State) (k : GKey) (pc : DWord) : Nat :=
  match findGrid s k.launch with
  | some d => (pc - d.codeBase).toNat / 4
  | none => 0

/-- The BLOCK record of a MARK, or its loss where staging is full (R391, R392, R395). -/
def blockRec (k : GKey) (live : Word) (id : Nat) (pc : DWord) (s : State) : State :=
  match findTeam s (tkeyOf k), tracedSlot s k with
  | some t, some slot =>
    if 64 ≤ (dbgOf s t.spindle).staged.length then
      updDbg t.spindle (fun d => { d with lost := d.lost + 1 }) s
    else
      stage t.spindle 15 (fun dt => BitVec.ofNat 128
        (1 + recField 4 4 slot + recField 8 15 dt + recField 23 22 (codeOff s k pc) + recField 45 14 id +
          recField 59 37 (gidOf k) + recField 96 32 live.toNat)) s
  | _, _ => s

/-- The SYNC record of a group (R392). -/
def syncRec (k : GKey) (s : State) : State :=
  match findGroup s k, findTeam s (tkeyOf k), tracedSlot s k with
  | some g, some t, some slot =>
    stage t.spindle 21 (fun dt => BitVec.ofNat 128
      (2 + recField 4 4 slot + recField 8 21 dt + recField 29 30 (codeOff s k g.pc) + recField 59 37 (gidOf k) +
        recField 96 32 g.live.toNat)) s
  | _, _, _ => s

/-- The LAUNCH record of a trace slot (R392). -/
def launchRec (n slot launch : Nat) (s : State) : State :=
  match findGrid s launch with
  | some g =>
    stage n 62 (fun _ => BitVec.ofNat 128
      (4 + recField 4 4 slot + recField 44 7 g.part + recField 51 6 g.queue + recField 57 16 g.tag.toNat +
        recField 73 55 (g.codeBase.toNat / 4))) s
  | none => s

/-- The group slot of a group (R394). -/
def groupSlot (g : Group) : Nat := g.quad * 32 + g.laneInQuad * 4 + g.laneSlot

/-- The groups resident on a spindle (R319): of teams that run and hold their place. -/
def residentOn (s : State) (n : Nat) : List Group :=
  (allGroups s).filter fun g =>
    (g.phase = .running || g.phase = .exiting) &&
      (match findTeam s (tkeyOf g.key) with
      | some t => t.spindle = n && t.phase = .running
      | none => false)

/-- The sync set (R394). -/
def syncSetRecs (n : Nat) (s : State) : State :=
  let d := dbgOf s n
  let s := stage n 62 (fun _ => timeRec s n) s
  let s := (List.range 16).foldl (fun s i =>
    match d.slots.find? fun p => p.1 = i with
    | some p => launchRec n i p.2 s
    | none => s) s
  (List.range 128).foldl (fun s i =>
    match (residentOn s n).find? fun g => groupSlot g = i with
    | some g => syncRec g.key s
    | none => s) (updDbg n (fun d => { d with sinceSync := 0 }) s)

/-- The STOP record of a traced group (R392, R396). -/
def stopRec (k : GKey) (why : Nat) (s : State) : State :=
  match findGroup s k, findTeam s (tkeyOf k), tracedSlot s k with
  | some g, some t, some slot =>
    stage t.spindle 17 (fun dt => BitVec.ofNat 128
      (6 + recField 4 4 slot + recField 8 4 why + recField 12 17 dt + recField 29 30 (codeOff s k g.pc) +
        recField 59 37 (gidOf k) + recField 96 32 g.live.toNat)) s
  | _, _, _ => s

/-- A launch with a group on a spindle that traces it takes the lowest free trace slot; one that finds all 16 in use is not traced there
(R391). The number is that of the slot it has taken. -/
def takeTraceSlot (n : Nat) (x : Grid) (s : State) : State × Option Nat :=
  let d := dbgOf s n
  if !d.selects x || (traceSlot d x.id).isSome || d.full.contains x.id then (s, none)
  else match findFrom (fun i => d.slots.all fun p => p.1 != i) 0 16 with
  | some i => (updDbg n (fun d => { d with slots := d.slots ++ [(i, x.id)] }) s, some i)
  | none => (updDbg n (fun d => { d with full := d.full ++ [x.id] }) s, none)

/-- A group of a running launch is placed on a spindle: its launch takes a trace slot where one is free and writes its LAUNCH record, and the
group's SYNC record follows (R391, R394). -/
def tracePlaced (k : GKey) (s : State) : State :=
  match findTeam s (tkeyOf k), findGrid s k.launch with
  | some t, some g =>
    let r := takeTraceSlot t.spindle g s
    syncRec k (match r.2 with | some i => launchRec t.spindle i k.launch r.1 | none => r.1)
  | _, _ => s

/-- A launch none of whose groups is left on a spindle gives its trace slot back (R391). -/
def traceLeft (n launch : Nat) (s : State) : State :=
  if (residentOn s n).any fun g => g.key.launch = launch then s
  else updDbg n (fun d => { d with slots := d.slots.filter fun p => p.2 ≠ launch, full := d.full.filter fun x => x ≠ launch }) s

/-- Stops one group between two of its instructions. -/
def stopOne (k : GKey) (why : Nat) (s : State) : State :=
  match findGroup s k with
  | some g =>
    if g.stopped || (g.phase != .running && g.phase != .exiting) then s
    else stopRec k why (updGroup k (fun g => { g with stopped := true, stepping := false }) s)
  | none => s

/-- Stops a group, and the rest of its team where TEAMSTOP says so (R396, R390). A group that is stopped already stops nothing (R399). -/
def stopGroup (k : GKey) (why : Nat) (s : State) : State :=
  let s1 := stopOne k why s
  match findTeam s (tkeyOf k), findGrid s k.launch with
  | some t, some g =>
    let d := dbgOf s t.spindle
    if d.teamStop && d.part = g.part && !((findGroup s k).any fun x => x.stopped) then
      (groupsOf s (tkeyOf k)).foldl (fun s x => if x.key = k then s else stopOne x.key 4 s) s1
    else s1
  | _, _ => s1

/-- The watchpoints of the issuing group's spindle that apply to it (R397). -/
def watchApplies (s : State) (n : Nat) : Bool :=
  let c := mget (dbgOf s s.team.spindle).wpcfg n
  !s.grp.priv && (tbit s.grp.wpEn n || (tbit c 2 && fieldN c 16 7 = s.grid.part))

/-- Whether watchpoint `n` covers an access (R397). -/
def watchHits (s : State) (n : Nat) (rd wr : Bool) (va : DWord) (len : Nat) : Bool :=
  let d := dbgOf s s.team.spindle
  let c := mget d.wpcfg n
  let sz := 2 ^ fieldN c 8 4
  let lo := fieldN (mget d.wpaddr n) 0 57 / sz * sz
  let kind := fieldN c 4 2
  watchApplies s n && ((kind % 2 = 1 && rd) || (2 ≤ kind && wr)) &&
    decide (lo < va.toNat + len) && decide (va.toNat < lo + sz)

/-- Records the watchpoint hits of accesses that have been performed, by thread, lowest first (R293). -/
def noteHits (rd wr : Bool) (len : Nat) (accs : List (Nat × DWord)) (s : State) : State :=
  accs.foldl (fun s a =>
    let ns := (List.range 8).filter fun n => watchHits s n rd wr a.2 len
    if ns.isEmpty then s
    else
      let h := s.grp.hits.getD ⟨0, 32, 0, false⟩
      let m : BitVec 8 := BitVec.ofNat 8 (maskOf (fun n => ns.contains n) 8)
      let st := ns.any fun n => tbit (mget (dbgOf s s.team.spindle).wpcfg n) 1
      let low := decide (a.1 < h.thread)
      onGrp (fun g => { g with hits := some ⟨h.mask ||| m, if low then a.1 else h.thread, if low then a.2 else h.addr, h.stop || st⟩ }) s) s

/-- Whether a PC breakpoint matches the issuing group's next instruction (R398). -/
def bpMatches (s : State) : Bool :=
  let d := dbgOf s s.team.spindle
  !s.grp.priv && (List.range 4).any fun n =>
    let c := mget d.bpcfg n
    tbit c 0 && fieldN c 16 7 = s.grid.part && mget d.bpaddr n = s.grp.pc

end Sys2Proof.Machine
end

