-- ==== Sys2Proof/Machine/Mem.lean ====
section
/-! DEFINITION. Memory: the bytes of every storage, context-tagged cells (R146, R212, R214), the local windows (R144), page tables and
their walk (R278-R287), and the checks of one access in the order of R292. -/

namespace Sys2Proof.Machine

/-- The number of a byte of a home's memory. -/
def homeKey (home pa : Nat) : Nat := home * 2 ^ 53 + pa

/-- A byte of physical memory. -/
def physLoc (home pa : Nat) : Loc := ⟨.phys, homeKey home pa, 0⟩

/-- The tag of a number, where it is not FREE (R206). -/
def findTag (s : State) (n : BitVec 16) : Option Tag := s.tags.find? fun t => t.tag = n

/-- Whether a tag is live in a partition (R207). -/
def tagLive (s : State) (part : Nat) (n : BitVec 16) : Bool :=
  n = 0 || (match findTag s n with
    | some t => t.part = part && !t.retiring
    | none => false)

/-- The cell a tag holds for a granule (R274). -/
def findCell (s : State) (n : BitVec 16) (granule : Nat) : Option CtxCell :=
  s.cells.find? fun c => c.tag = n ∧ c.granule = granule ∧ c.made = true

/-- Whether a tag holds a cell for a granule, or the room for one (R276). -/
def hasRoom (s : State) (n : BitVec 16) (granule : Nat) : Bool := s.cells.any fun c => c.tag = n && c.granule = granule

/-- The tag whose location a read in tag `n` reaches: the nearest of `n` and its ancestors that holds a cell, else tag 0 (R212, R214).
Chains are at most 4 deep. -/
def cellOwner (s : State) (n : BitVec 16) (granule : Nat) : Nat → BitVec 16
  | 0 => 0
  | f + 1 =>
    if n = 0 then 0
    else if (findCell s n granule).isSome then n
    else match findTag s n with
      | some t => cellOwner s t.parent granule f
      | none => 0

/-- The bytes of a 16-byte block, with the generations under which they were written. -/
def blockOf (s : State) (off : Nat) : List (Byte × Nat) :=
  (List.range 16).map fun i => (mget s.mem (off / 16 * 16 + i), (mget s.byteGen (off / 16 * 16 + i)).toNat)

/-- A byte of the homes' memory as an access through a key reads it: HBM and board memory are encrypted (R373, log 25). -/
def memByte (s : State) (off gen : Nat) : Byte :=
  if off / 2 ^ 53 ≤ 8 && (mget s.byteGen off).toNat != gen then Config.otherKey gen off (blockOf s off) else mget s.mem off

/-- The generation that stands for no key. -/
def noKey : Word := 0xFFFFFFFF

/-- A byte is written under a key: what its 16-byte block held under another is lost (R373). -/
def noteKey (gen off : Nat) (m : SMap 32) : SMap 32 :=
  if gen = 0 && m.isEmpty then m
  else
    let g : Word := BitVec.ofNat 32 gen
    (List.range 16).foldl (fun m i =>
      let o := off / 16 * 16 + i
      if o = off then mset m o g else if mget m o = g then m else mset m o noKey) m

/-- A byte as an access in tag `n` through a key reads it (R146). -/
def ctxByte (s : State) (n : BitVec 16) (off gen : Nat) : Byte :=
  let o := cellOwner s n (off / 64) 5
  if o = 0 then memByte s off gen
  else match findCell s o (off / 64) with
    | some c => mget c.data (off % 64)
    | none => memByte s off gen

/-- A group's copy status as its 16 bytes (R157). -/
def statusBytes (g : Group) : List Byte :=
  toBytes (g.copyCount.toNat * 256 + g.copyCode.toNat) 8 ++ toBytes g.copyWhere.toNat 8

/-- A landing slot; a slot that is not listed is FREE and reads zero. -/
def findSlot (s : State) (c n : Nat) : Option Slot := s.slots.find? fun x => x.cluster = c ∧ x.num = n

/-- The byte at a place. -/
def rdByte (s : State) (l : Loc) : Byte :=
  match l.space with
  | .phys => memByte s l.off l.gen
  | .ctx _ n => ctxByte s n l.off l.gen
  | .scratch t => match findTeam s t with | some t => mget t.scratch l.off | none => 0
  | .creel launch c =>
    match s.creels.find? fun x => x.launch = launch ∧ x.cluster = c with
    | some x => mget x.data l.off
    | none => 0
  | .slot c n => match findSlot s c n with | some x => mget x.data l.off | none => 0
  | .status k => match findGroup s k with | some g => (statusBytes g).getD l.off 0 | none => 0
  | .zeroSlot _ _ => 0
  | .tile t => match findTeam s t with | some t => mget t.tiles l.off | none => 0
  | .acc t => match findTeam s t with | some t => (toBytes (mget t.accs (l.off / 4)).toNat 4).getD (l.off % 4) 0 | none => 0
  | .vfile k => match findGroup s k with | some g => (toBytes (mget g.vregs (l.off / 4)).toNat 4).getD (l.off % 4) 0 | none => 0
  | .sfile k => match findGroup s k with | some g => (toBytes (mget g.sregs (l.off / 8)).toNat 8).getD (l.off % 8) 0 | none => 0
  | .void => Config.freeByte l.off

/-- The place `n` bytes on. -/
def Loc.add (l : Loc) (n : Nat) : Loc := { l with off := l.off + n }

/-- The `n` bytes from a place on. -/
def rdBytes (s : State) (l : Loc) : Nat → List Byte
  | 0 => []
  | n + 1 => rdByte s l :: rdBytes s (l.add 1) n

/-- A little-endian value of `n` bytes (R2). -/
def rdNat (s : State) (l : Loc) (n : Nat) : Nat := ofBytes (rdBytes s l n)

/-- Keeps the room of a cell of tag `n` for a granule, where it has none (R276). -/
def reserveCell (n : BitVec 16) (granule : Nat) (s : State) : State :=
  if hasRoom s n granule then s else { s with cells := s.cells ++ [⟨n, granule, [], false⟩] }

/-- The storage that a read in tag `n` of a partition reaches (R146). -/
def readSpace (s : State) (part : Nat) (n : BitVec 16) (granule : Nat) : Space :=
  let o := cellOwner s n granule 5
  if o = 0 then .phys else .ctx part o

/-- The unit of R409 and the die of a place in a home's memory. An error of an HBM location may be one of the home cache's copy; the table has no
unit for flash, and the value is left free (log 3, log 41). -/
def homeUnit (n h : Nat) : DWord × Nat :=
  if h ≤ 7 then (if Config.inHomeCache n then 3 else 0, h) else if h = 8 then (1, 8) else (Config.freeDWord n, 15)

/-- The unit and the die of a place (R409). -/
def unitOf (s : State) (l : Loc) : DWord × Nat :=
  let inTeam := fun k => ((2 : DWord), match findTeam s k with | some t => dieOf t.spindle | none => 15)
  match l.space with
  | .phys => homeUnit s.fresh (l.off / 2 ^ 53)
  | .ctx _ _ => homeUnit s.fresh (l.off / 2 ^ 53)
  | .creel _ c => (2, c / 3)
  | .slot c _ => (2, c / 3)
  | .zeroSlot c _ => (2, c / 3)
  | .scratch k => inTeam k
  | .tile k => inTeam k
  | .acc k => inTeam k
  | .vfile k => inTeam (tkeyOf k)
  | .sfile k => inTeam (tkeyOf k)
  | .status k => inTeam (tkeyOf k)
  | .void => (2, 15)

/-- An uncorrectable error met at a place goes into the hank (R257, R409). -/
def hankEcc (part : Nat) (l : Loc) (s : State) : State :=
  let u := unitOf s l
  hankAdd 0x01 2 (BitVec.ofNat 8 part) (BitVec.ofNat 4 u.2) (BitVec.ofNat 64 (l.off % 2 ^ 53)) u.1 (nextFree s)

/-- Gives tag `n` a cell for a granule, with the nearest ancestor's bytes, where it has none: one step with the first write (R214). Bytes that
the copy can not read stay uncorrectable in the cell, and the hank learns of them (R257, log 28). -/
def materialise (part : Nat) (n : BitVec 16) (granule gen : Nat) (s : State) : State :=
  if (findCell s n granule).isSome then s
  else
    let bs := (List.range 64).map fun i => ctxByte s n (granule * 64 + i) gen
    let lost := s.ecc.filter fun e => e.space = readSpace s part n granule && e.off / 64 = granule
    let s := lost.foldl (fun s e => hankEcc part e s) s
    { s with
      ecc := s.ecc ++ lost.map fun e => { e with space := .ctx part n }
      cells := (s.cells.filter fun c => ¬ (c.tag = n ∧ c.granule = granule)) ++ [⟨n, granule, msets [] 0 bs, true⟩] }

/-- The copy status after one of its bytes has been written: code, count and the address are the fields that are RW (R157). -/
def setStatusByte (off : Nat) (b : Byte) (g : Group) : Group :=
  if off = 0 then { g with copyCode := b }
  else if off = 1 then { g with copyCount := b }
  else if 8 ≤ off && off < 16 then
    { g with copyWhere := BitVec.ofNat 64 (ofBytes ((toBytes g.copyWhere.toNat 8).set (off - 8) b)) }
  else g

/-- Writes one byte at a place. No access of a program writes a slot that it reads as zeros (R331), nor addresses a tile, an accumulator or a
register (R144). An uncorrectable error stays when its location is overwritten, so that a later read fails again: the choice of this model, log 41
(R257). -/
def wrByte (l : Loc) (b : Byte) (s : State) : State :=
  match l.space with
  | .phys =>
    { s with mem := mset s.mem l.off b, byteGen := noteKey l.gen l.off s.byteGen }
  | .ctx p n =>
    let s := materialise p n (l.off / 64) l.gen s
    let f := fun c : CtxCell => { c with data := mset c.data (l.off % 64) b }
    { s with cells := updFirst (fun c => c.tag = n ∧ c.granule = l.off / 64) f s.cells }
  | .scratch t => updTeam t (fun t => { t with scratch := mset t.scratch l.off b }) s
  | .creel launch c =>
    { s with creels := updFirst (fun x => x.launch = launch ∧ x.cluster = c) (fun x => { x with data := mset x.data l.off b }) s.creels }
  | .slot c n =>
    { s with slots := updFirst (fun x => x.cluster = c ∧ x.num = n) (fun x => { x with data := mset x.data l.off b }) s.slots }
  | .status k => updGroup k (setStatusByte l.off b) s
  | .zeroSlot _ _ => s
  | .tile _ => s
  | .acc _ => s
  | .vfile _ => s
  | .sfile _ => s
  | .void => s

/-- Whether two runs of bytes share a byte. -/
def overlaps (l : Loc) (n : Nat) (l' : Loc) (n' : Nat) : Bool :=
  l.space = l'.space && decide (l.off < l'.off + n') && decide (l'.off < l.off + n)

/-- The line that a place names, whatever the reader sees there: a slot that a team reads as zeros is the slot (R112, R331). -/
def Loc.line (l : Loc) : Loc :=
  match l.space with
  | .zeroSlot c n => { l with space := .slot c n }
  | _ => l

/-- Wakes every group that sleeps on a line that the bytes touch (R112). -/
def wake (l : Loc) (n : Nat) (s : State) : State :=
  updGroups (fun g => match g.wait with
      | .monitor line _ false => overlaps l.line n line.line 64
      | _ => false)
    (fun g => match g.wait with
      | .monitor line t false => { g with wait := .monitor line t true }
      | _ => g) s

/-- Writes bytes from a place on. -/
def wrBytesGo (l : Loc) : List Byte → State → State
  | [], s => s
  | b :: bs, s => wrBytesGo (l.add 1) bs (wrByte l b s)

/-- A write of memory by any agent: the bytes, and the wakes it causes (R112). -/
def wrBytes (l : Loc) (bs : List Byte) (s : State) : State := wake l bs.length (wrBytesGo l bs s)

/-- The size of a home's memory (R1, R266); a bus address has 52 bits (R282). -/
def homeSize (home : Nat) : Nat := if home ≤ 7 then 96 * 2 ^ 30 else if home = 8 then 2 ^ 41 else 2 ^ 52

/-- The generation of the key in a slot; key 0 is always there (R374). -/
def keyGen (s : State) (n : Nat) : Option Nat :=
  if n = 0 then some 0 else (s.keys.find? fun k => k.num = n).map (·.gen)

/-- Whether the entry's LEAF bit breaks the level rule (R282, R283). -/
def badLevel (leaf : Bool) (lv : Nat) : Bool := (leaf && 3 ≤ lv) || (!leaf && lv = 0)

/-- Whether an entry is malformed for the bits that both stages share: reserved bits [11:4], the level rule, address bits of a leaf
below its page size, an address beyond its home (R284). `home` is that of the page or of the next table. -/
def badCommon (e : DWord) (lv home : Nat) : Bool :=
  let a := fieldN e 12 40 * 4096
  fieldN e 4 8 != 0 || badLevel (tbit e 3) lv || 8 < home && home != 10 ||
    (tbit e 3 && a % 2 ^ (12 + 9 * lv) != 0) || homeSize home ≤ a

/-- How a stage-2 walk ends (R283, R286): the physical address and the key's generation, or a miss, a permission failure, a malformed
entry, an uncorrectable error of a table read. -/
inductive S2Res where
  | ok (pa gen : Nat)
  | miss (lv : Nat)
  | perm (lv : Nat)
  | bad (lv : Nat)
  | ecc (at_ : Nat)
deriving DecidableEq, Repr

/-- Whether a stage-2 translation ends in an address. -/
def S2Res.good : S2Res → Bool
  | .ok _ _ => true
  | _ => false

/-- The storage in which a byte of a place is read. -/
def Loc.readIn (s : State) (l : Loc) : Space :=
  match l.space with
  | .ctx p n => readSpace s p n (l.off / 64)
  | x => x

/-- Whether an uncorrectable error lies in the bytes, where a read of them reaches (R257). -/
def hasEcc (s : State) (l : Loc) (n : Nat) : Bool :=
  !s.ecc.isEmpty && s.ecc.any fun e =>
    decide (l.off ≤ e.off) && decide (e.off < l.off + n) && e.space = (l.add (e.off - l.off)).readIn s

/-- The stage-2 walk from level `lv` down, the table at `th`, `tp`, for a GPA of home `h` (R286). Its entries are read under key 0, the PF's: the
choice of this model, log 41. -/
def s2Walk (s : State) (h gpa : Nat) (rd wr : Bool) : (lv th tp : Nat) → S2Res
  | lv, th, tp =>
    let ea := tp + (if lv = 4 then gpa / 2 ^ 48 % 16 else gpa / 2 ^ (12 + 9 * lv) % 512) * 8
    if hasEcc s (physLoc th ea) 8 then .ecc (homeKey th ea)
    else
      let e : DWord := BitVec.ofNat 64 (rdNat s (physLoc th ea) 8)
      if !tbit e 0 then .miss lv
      else if tbit e 3 then
        if fieldN e 61 3 != 0 || badCommon e lv h then .bad lv
        else match keyGen s (fieldN e 52 9) with
          | none => .bad lv
          | some gen =>
            if (rd && !tbit e 1) || (wr && !tbit e 2) then .perm lv
            else .ok (fieldN e 12 40 * 4096 + gpa % 2 ^ (12 + 9 * lv)) gen
      else if fieldN e 56 8 != 0 || 8 < fieldN e 52 4 || badCommon e lv (fieldN e 52 4) then .bad lv
      else match lv with
        | 0 => .bad 0
        | lv + 1 => s2Walk s h gpa rd wr lv (fieldN e 52 4) (fieldN e 12 40 * 4096)

/-- Stage 2 for a partition: identity under key 0 for partition 0 and for home 10 (R280, log 24); a home without a root misses. -/
def stage2 (s : State) (part home gpa : Nat) (rd wr : Bool) : S2Res :=
  if part = 0 || 8 < home then .ok gpa 0
  else match s.s2roots.find? fun r => r.part = part ∧ r.home = home with
    | some r => s2Walk s home gpa rd wr 4 r.rootHome r.rootPa
    | none => .miss 4

/-- The stage-2 translation, from a cached leaf where the caches hold one and it is hit (R287). -/
def stage2c (s : State) (part home gpa : Nat) (rd wr : Bool) : S2Res :=
  match s.tlb.find? fun e => e.stage2 && e.part = part && e.home = home && e.page = gpa / 4096 with
  | some e =>
    if Config.tlbHit s.fresh then
      (if (rd && !e.r) || (wr && !e.w) then .perm 0 else .ok (e.out * 4096 + gpa % 4096) e.gen)
    else stage2 s part home gpa rd wr
  | none => stage2 s part home gpa rd wr

/-- How a stage-1 walk ends: the leaf's page and bits, or the level of a miss, a malformed entry, a stage-2 failure of a table entry's
own GPA, an uncorrectable error (R286). -/
inductive S1Res where
  | ok (gpa : Nat) (r w ct dt : Bool)
  | miss (lv : Nat)
  | bad
  | s2 (res : S2Res) (home gpa lv : Nat)
  | ecc (at_ : Nat)
deriving DecidableEq, Repr

/-- The stage-1 walk from level `lv` down, the table at home `th`, GPA `tg`. -/
def s1Walk (s : State) (part va : Nat) : (lv th tg : Nat) → S1Res
  | lv, th, tg =>
    let eg := tg + va / 2 ^ (12 + 9 * lv) % 512 * 8
    match stage2c s part th eg true false with
    | .ok ea gen =>
      if hasEcc s (physLoc th ea) 8 then .ecc (homeKey th ea)
      else
        let e : DWord := BitVec.ofNat 64 (rdNat s { physLoc th ea with gen } 8)
        let home := va / 2 ^ 53
        if !tbit e 0 then .miss lv
        else if fieldN e 56 6 != 0 then .bad
        else if tbit e 3 then
          if fieldN e 52 4 != 0 || badCommon e lv home || (tbit e 63 && 10 ≤ home) then .bad
          else .ok (fieldN e 12 40 * 4096 + va % 2 ^ (12 + 9 * lv)) (tbit e 1) (tbit e 2) (tbit e 63) (tbit e 62)
        else if fieldN e 62 2 != 0 || 8 < fieldN e 52 4 || badCommon e lv (fieldN e 52 4) then .bad
        else match lv with
          | 0 => .bad
          | lv + 1 => s1Walk s part va lv (fieldN e 52 4) (fieldN e 12 40 * 4096)
    | r => .s2 r th eg lv

/-- The stage-1 translation of a VA in an address space, from a cached leaf where one is hit (R280, R287). -/
def stage1 (s : State) (part : Nat) (asid : BitVec 16) (va : Nat) : S1Res :=
  let walk :=
    match s.aspaces.find? fun a => a.part = part ∧ a.asid = asid with
    | some a => s1Walk s part va 4 a.home a.gpa
    | none => .miss 4
  match s.tlb.find? fun e => !e.stage2 && e.part = part && e.asid = asid && e.page = va / 4096 with
  | some e => if Config.tlbHit s.fresh then .ok (e.out * 4096 + va % 4096) e.r e.w e.ct e.dt else walk
  | none => walk

/-- How a translation ends: a physical byte with its key, and what the caches take; or a trap, with the record of a stage-2 failure
for partition 0 and the table read that failed; or a park, with the record of the fault (R284-R289). -/
inductive XRes where
  | ok (home pa gen : Nat) (ct dt : Bool) (fill : List TlbEntry)
  | trap (cause : BitVec 8) (info : Option FaultRec) (ecc : Option Nat)
  | park (r : FaultRec)
deriving DecidableEq, Repr

/-- A fault record before the queue gives it an identifier (R288). -/
def recProto (queuePart part : Nat) (asid : BitVec 16) (cause : BitVec 8) (va : DWord) (gpa page lv : Nat) (table wr atom engine permv : Bool)
    (place : BitVec 11) : FaultRec :=
  { id := 0, queuePart, part, asid, cause, va, gpa := BitVec.ofNat 64 gpa, page, level := lv, table, write := wr, atom, engine, permv,
    place, waiters := 1, written := false, pos := 0 }

/-- Translates an address of homes 0-8 and 10 for an access that needs `rd`, `wr` (R285, R286). -/
def translate (s : State) (part : Nat) (asid : BitVec 16) (va : DWord) (rd wr atom engine : Bool) (place : BitVec 11) : XRes :=
  let v := va.toNat
  let home := v / 2 ^ 53
  let s2rec := fun (r : S2Res) (home gpa lv : Nat) (table : Bool) =>
    match r with
    | .miss _ => XRes.park (recProto 0 part asid 0x13 va gpa (homeKey home gpa / 4096) lv table wr atom engine false place)
    | .ecc a => .trap 0x70 none (some a)
    | _ => .trap 0x13 (some (recProto 0 part asid 0x13 va gpa (homeKey home gpa / 4096) lv table wr atom engine true place)) none
  match stage1 s part asid v with
  | .miss lv => .park (recProto part part asid 0x10 va 0 (v / 4096) lv false wr atom engine false place)
  | .bad => .trap 0x11 none none
  | .ecc a => .trap 0x70 none (some a)
  | .s2 r h g lv => s2rec r h g lv true
  | .ok gpa r w ct dt =>
    if (rd && !r) || (wr && !w) then .trap 0x12 none none
    else match stage2c s part home gpa rd wr with
      | .ok pa gen =>
        let e1 : TlbEntry := ⟨false, part, asid, home, v / 4096, gpa / 4096, r, w, ct, dt, 0⟩
        let may := fun rd wr => (stage2c s part home gpa rd wr).good
        let e2 : TlbEntry := ⟨true, part, 0, home, gpa / 4096, pa / 4096, may true false, may false true, false, false, gen⟩
        .ok home pa gen ct dt ([e1] ++ (if part = 0 || 8 < home then [] else [e2]))
      | r => s2rec r home gpa 0 false

/-- Puts entries into the translation caches (R287). -/
def tlbFill (es : List TlbEntry) (s : State) : State :=
  if es.isEmpty then s
  else { s with tlb := s.tlb ++ es.filter (fun e => !s.tlb.contains e), fresh := s.fresh + 1 }

/-- Who makes an access: the group (or nobody, for a packet), its team, its grid, the context tag it reads in, and the landing slots freed since
its acceptance (R203). -/
structure Env where
  key : GKey
  team : Team
  grid : Grid
  ctx : BitVec 16
  ghosts : List (Nat × Nat)
deriving DecidableEq, Repr

/-- The issuing group as the one that accesses. -/
def envOf (s : State) : Env := ⟨s.grp.key, s.team, s.grid, s.grp.ctx, []⟩

/-- A group that may have been put away since its operation was issued. -/
def envFor (s : State) (k : GKey) (ctx : BitVec 16) : Env :=
  ⟨k, (findTeam s (tkeyOf k)).getD .initial, (findGrid s k.launch).getD .initial, ctx, []⟩

/-- The classes of accesses that R143, R144 and R285 tell apart. -/
inductive AccClass where
  | ls       -- VLD, VLDU, VST, SLD, SST, VLDX, WAITA's read
  | amo      -- word atomics
  | copy     -- copies and parameter blocks of an engine
  | tile     -- TLD, TST
  | drain    -- DRAINA, DRAINS
deriving DecidableEq, Repr

/-- Whether an uncorrectable error of the bytes read is a fault of the access: one that an accepted matrix-path operation meets is not
(R179, R257). -/
def AccClass.eccAtOnce : AccClass → Bool
  | .tile => false
  | .drain => false
  | _ => true

/-- Where an uncorrectable error was met: in a table entry that a walk read, or in the bytes accessed (R257, R284). -/
inductive EccAt where
  | table (at_ : Nat)
  | data (l : Loc)
deriving DecidableEq, Repr

/-- How the checks of one access end: the place, whether the region is deterministic, the cache fills; a fault; a park. -/
inductive AccRes where
  | ok (l : Loc) (dt : Bool) (fill : List TlbEntry)
  | fault (cause : BitVec 8) (tval : DWord) (info : Option FaultRec) (ecc : Option EccAt)
  | park (r : FaultRec)
  | uncorr
deriving DecidableEq, Repr

/-- An access fault with TVAL = the address. -/
def AccRes.bad (cause : BitVec 8) (va : DWord) : AccRes := .fault cause va none none

/-- The team that a neighbour window reaches: of the same grid on a spindle, the lowest TEAMID (R144). -/
def neighbour (s : State) (grid : Nat) (spindle : Nat) : Option Team :=
  let ts := (allTeams s).filter fun t =>
    t.key.launch = grid && t.spindle = spindle && t.phase != .absent && t.phase != .gone
  ts.foldl (fun m t => match m with
    | none => some t
    | some u => if t.key.team < u.key.team then some t else some u) none

/-- Whether the page in a slot is uncorrectable (R38). -/
def Grid.uncorr (d : Grid) (page : Nat) : Bool := match d.pages[page]? with | some p => p.pstat.toNat % 4 = 3 | none => false

/-- Home 15 (R144): the window and the place in it, with PAGE_UNCORR of the team's own slot (R145). A slot that was freed after the operation was
accepted is the page it held (R203); one whose page is uncorrectable reads as zeros for other teams under FAULT (R331). -/
def window (s : State) (e : Env) (c : AccClass) (va : DWord) (wr : Bool) : AccRes :=
  let sel := fieldN va 40 13
  let off := fieldN va 0 40
  let own := e.team
  if sel = 0 then
    if own.scratchBytes ≤ off then .bad 0x11 va else .ok ⟨.scratch own.key, off, 0⟩ false []
  else if sel ≤ 0x18 then
    match neighbour s e.grid.id (own.spindle / 24 * 24 + (sel - 1)) with
    | none => .bad 0x12 va
    | some t => if t.scratchBytes ≤ off then .bad 0x11 va else .ok ⟨.scratch t.key, off, 0⟩ false []
  else if sel = 0x20 then
    if e.grid.creelBytes ≤ off then .bad 0x11 va else .ok ⟨.creel e.grid.id (clusterOf own.spindle), off, 0⟩ false []
  else if sel = 0x40 then
    if 256 * 0x4000 ≤ off then .bad 0x11 va
    else
      let n := off / 0x4000
      let cl := clusterOf own.spindle
      let ghost := (e.ghosts.find? fun p => p.1 = n).map (·.2)
      let page :=
        match findSlot s cl (ghost.getD n) with
        | some x => (match x.st with
          | .landed l p => if l = e.grid.id then some p else none
          | .held l p => if l = e.grid.id then some p else none
          | _ => none)
        | none => none
      match page with
      | none => .bad 0x12 va
      | some p =>
        let mine := if ghost.isSome then p = own.key.team else n = own.slot && !own.slotFreed
        if wr && !mine then .bad 0x12 va
        else if mine && e.grid.policy = .fault && own.pstat.toNat % 4 = 3 && !own.pageTrapped then .uncorr
        else if !mine && e.grid.policy = .fault && e.grid.uncorr p then .ok ⟨.zeroSlot cl (ghost.getD n), off % 0x4000, 0⟩ false []
        else .ok ⟨.slot cl (ghost.getD n), off % 0x4000, 0⟩ false []
  else if sel = 0x80 && c = .ls then
    if 16 ≤ off then .bad 0x11 va else .ok ⟨.status e.key, off, 0⟩ false []
  else .bad 0x11 va

/-- The live routes to a device: the ports of its route whose links are trained (R339). -/
def liveRoutes (s : State) (dev : Nat) : List Nat :=
  (List.range 16).filter fun p => tbit (mget s.routes dev) p && (portOf s p).link

/-- The granules that `n` bytes touch (R274). -/
def granules (l : Loc) (n : Nat) : List Nat := (List.range ((l.off + n - 1) / 64 + 1 - l.off / 64)).map fun i => l.off / 64 + i

/-- Whether the materialisation of `k` cells by the partition in a home finds no room (R276); the PF has no quota (R369, log 28). -/
def cellsFull (s : State) (part home k : Nat) : Bool :=
  let here := s.cells.filter fun c => c.granule / 2 ^ 47 = home
  let mine := here.filter fun c => match findTag s c.tag with | some t => t.part = part | none => false
  decide ((mget s.cellStore home).toNat < here.length + k) || (part != 0 && decide ((mget (partOf s part).cellQuota home).toNat < mine.length + k))

/-- How many cells a write of `n` bytes in tag `c` needs beside those the tag has (R214). -/
def newCells (s : State) (c : BitVec 16) (l : Loc) (n : Nat) : Nat := ((granules l n).filter fun g => !hasRoom s c g).length

/-- The place of a record in SPINDLE format: for an engine's access the die alone (R288). -/
def placeOf (e : Env) (engine : Bool) : BitVec 11 :=
  BitVec.ofNat 11 (if engine then dieOf e.team.spindle * 256 else spindleFmt e.team.spindle)

/-- A run of bytes cut at the edges of 4 KiB pages; `fuel` is at least the number of pieces. -/
def pageCuts (va : DWord) (n : Nat) : (fuel : Nat) → List (DWord × Nat)
  | 0 => []
  | f + 1 =>
    if n = 0 then []
    else
      let k := min n (4096 - va.toNat % 4096)
      (va, k) :: pageCuts (va + BitVec.ofNat 64 k) (n - k) f

/-- The pieces of `n` bytes from `va` on. -/
def pieceRuns (va : DWord) (n : Nat) : List (DWord × Nat) := pageCuts va n (n / 4096 + 2)

/-- The pages of a tree's pool (R216, R217). -/
def poolRuns (t : Tree) : List (DWord × Nat) := pieceRuns t.pool (t.cap * 32)

/-- Whether bytes of memory belong to the pool of a live tree (R217). -/
def inPool (s : State) (l : Loc) (n : Nat) : Bool :=
  s.trees.any fun t => (poolRuns t).any fun c =>
    match translate s t.part t.asid c.1 true false false false 0 with
    | .ok home pa _ _ _ _ => overlaps l n { l with off := homeKey home pa } c.2
    | _ => false

/-- The queue of a peer's partition, which is none of this device's: a record for it is written nowhere here (R340, log 34). -/
def peerQueue : Nat := 0xFFFF

/-- Whether a place lies in a peer's memory, behind a link that the far end pauses for requests: the access waits (R338, R339). -/
def linkPaused (s : State) (l : Loc) : Bool :=
  l.space = .phys && l.off / 2 ^ 53 = 11 && (match liveRoutes s (l.off / 2 ^ 45 % 256) with
    | p :: _ => (portOf s p).pausedOut.contains .loadStoreReq
    | [] => false)

/-- The checks 2 to 9 of R292 for the `n` bytes of one access at `va`; `wr` for a write, `rd` for a read, both for an atomic. The PERM of a write to the
pool of a live tree (R217), which R292 does not list, comes behind stage 2 of the page and before CTXBAD: the choice of this model, log 41. -/
def access (s : State) (e : Env) (c : AccClass) (va : DWord) (n : Nat) (rd wr engine : Bool) : AccRes :=
  let home := va.toNat / 2 ^ 53
  let atom := rd && wr
  if 16 ≤ home || home = 9 || (12 ≤ home && home ≤ 14) then .bad 0x11 va
  else if home = 15 then
    match window s e c va wr with
    | .ok l dt f => if rd && c.eccAtOnce && hasEcc s l n then .fault 0x70 va none (some (.data l)) else .ok l dt f
    | r => r
  else if home = 11 then
    let dev := fieldN va 45 8
    if 8 < fieldN va 41 4 then .bad 0x11 va
    else if dev = s.devId || (liveRoutes s dev).isEmpty then .bad 0x61 va
    else match s.peerFaults.find? fun p => p.1 = va.toNat / 4096 with
      | some p =>
        if p.2 = 0x10 then .park (recProto peerQueue e.grid.part e.grid.asid 0x10 va 0 (va.toNat / 4096) 0 false wr atom engine false (placeOf e engine))
        else .bad p.2 va
      | none => .ok ⟨.phys, va.toNat, 0⟩ false []
  else
    match translate s e.grid.part e.grid.asid va rd wr atom engine (placeOf e engine) with
    | .trap cause info ecc => .fault cause va info (ecc.map .table)
    | .park r => .park r
    | .ok home pa gen ct dt fill =>
      let part := e.grid.part
      let l : Loc := if ct && e.ctx != 0 then ⟨.ctx part e.ctx, homeKey home pa, gen⟩ else ⟨.phys, homeKey home pa, gen⟩
      if wr && home ≤ 7 && inPool s l n then .bad 0x12 va
      else if ct && !tagLive s part e.ctx then .fault 0x15 (e.ctx.setWidth 64) none none
      else if ct && e.ctx != 0 && wr && newCells s e.ctx l n != 0 && cellsFull s part home (newCells s e.ctx l n) then
        .park (recProto 0 part e.grid.asid 0x14 va 0 (l.off / 4096) 0 false wr atom engine false (placeOf e engine))
      else if rd && c.eccAtOnce && hasEcc s l n then .fault 0x70 va none (some (.data l))
      else if home = 10 && (s.aborting.any fun x => overlaps l n x 1) then .bad 0x51 va
      else if home = 10 && rd && !wr && (s.poison.any fun x => overlaps l n x 1) then .bad 0x52 va
      else .ok l dt fill

end Sys2Proof.Machine
end

