-- ==== Sys2Proof/Machine/Faults.lean ====
section
/-! DEFINITION. Fault records and their queues (R288, R289), interrupts (R367), and the release of what a group, a team or a grid held
when it ends (R44, R298). -/

namespace Sys2Proof.Machine

/-- Raises an MSI-X vector of a function (R367). -/
def raiseVector (fn : Fn) (v : Nat) (s : State) : State :=
  updFn fn (fun r => { r with vectors := r.vectors ++ [v] }) s

/-- Whether two records are of one cause, partition and page, so that the later fault joins the earlier record (R289). A permission
or malformed failure of stage 2, which takes no response, joins no record of a miss, nor a miss one of these: the choice of this model, log 41. -/
def sameFault (a b : FaultRec) : Bool :=
  a.cause = b.cause && a.part = b.part && a.page = b.page && a.permv = b.permv && (a.cause != 0x10 || a.asid = b.asid)

/-- The 32 bytes of a record (R288). -/
def recordBytes (r : FaultRec) : List Byte :=
  toBytes (r.cause.toNat + r.level * 2 ^ 8 + bitOf r.permv * 2 ^ 11 + bitOf r.engine * 2 ^ 12 + bitOf r.atom * 2 ^ 13 +
    bitOf r.write * 2 ^ 14 + bitOf r.table * 2 ^ 15 + min r.waiters 65535 * 2 ^ 32 + r.place.toNat * 2 ^ 48) 8 ++
  toBytes (r.id % 2 ^ 32 + r.asid.toNat * 2 ^ 32 + r.part * 2 ^ 48) 8 ++ toBytes r.gpa.toNat 8 ++ toBytes r.va.toNat 8

/-- Writes a record's bytes to its place in its partition's queue, where the partition has one (R288). -/
def putRecord (r : FaultRec) (s : State) : State :=
  let p := partOf s r.queuePart
  match p.fqLog2 with
  | some k => wrBytes (physLoc 10 (p.fqAddr.toNat % 2 ^ 53 + r.pos % 2 ^ k * 32)) (recordBytes r) s
  | none => s

/-- Whether a partition's fault queue has room: the slot that is written next holds no record that is still to be answered, so that none is lost when records
are answered out of their order (R289). A record that takes no response holds no slot (log 41). -/
def queueRoom (s : State) (part : Nat) : Bool :=
  match (partOf s part).fqLog2 with
  | some k => !s.records.any fun r => r.queuePart = part && r.written && !r.permv && r.pos % 2 ^ k = (partOf s part).fqWr % 2 ^ k
  | none => false

/-- Writes a record that the owning unit holds, if the queue has room; a record of a permission failure needs no answer and is kept no
longer (R288, R289). -/
def flushRecord (id : Nat) (s : State) : State :=
  match s.records.find? fun r => r.id = id ∧ ¬ r.written with
  | some r =>
    if queueRoom s r.queuePart then
      let p := partOf s r.queuePart
      let r := { r with written := true, pos := p.fqWr }
      let s := updPart r.queuePart (fun p => { p with fqWr := p.fqWr + 1 }) (putRecord r s)
      let s := { s with records := if r.permv then s.records.filter (fun x => x.id ≠ id) else updFirst (fun x => x.id = id) (fun _ => r) s.records }
      raiseVector ⟨p.fqHub, r.queuePart⟩ 1 s
    else s
  | none => s

/-- Reports a fault: it joins the unanswered record of its cause, partition and page, or makes a new one (R289). The second part is
the record's identifier. An access that has joined one of the records `known` is not counted again. -/
def reportOnce (known : List Nat) (p : FaultRec) (s : State) : State × Nat :=
  match s.records.find? fun r => sameFault r p with
  | some r =>
    let r := { r with waiters := if known.contains r.id then r.waiters else r.waiters + 1, write := r.write || p.write, atom := r.atom || p.atom, engine := r.engine || p.engine }
    let s := { s with records := updFirst (fun x => x.id = r.id) (fun _ => r) s.records }
    (if r.written then putRecord r s else s, r.id)
  | none =>
    let id := s.nextRecord
    (flushRecord id { s with records := s.records ++ [{ p with id := id }], nextRecord := id + 1 }, id)

/-- The same for an access that has joined no record. -/
def report (p : FaultRec) (s : State) : State × Nat := reportOnce [] p s

/-- Reports the stage-2 record of an access that traps, and enters an uncorrectable error that it met into the hank (R257, R284, R285,
R409). -/
def reportInfo (part : Nat) (info : Option FaultRec) (ecc : Option EccAt) (s : State) : State :=
  let s := match info with | some r => (report r s).1 | none => s
  match ecc with
  | some (.table a) => hankAdd 0x01 2 (BitVec.ofNat 8 part) (BitVec.ofNat 4 (a / 2 ^ 53)) (BitVec.ofNat 64 (a % 2 ^ 53)) 4 s
  | some (.data l) => hankEcc part l s
  | none => s

/-- Changes the page of a grid. -/
def updPage (launch page : Nat) (f : Page → Page) (s : State) : State :=
  updGrid launch (fun g => { g with pages := g.pages.modify page f }) s

/-- An operation with the places of its accesses changed. -/
def OpKind.mapLoc (f : Loc → Loc) : OpKind → OpKind
  | .load d n sg accs => .load d n sg (accs.map fun a => { a with loc := f a.loc })
  | .sload d n a => .sload d n { a with loc := f a.loc }
  | .store n accs sc => .store n (accs.map fun a => ({ a.1 with loc := f a.1.loc }, a.2)) sc
  | .amo op d accs => .amo op d (accs.map fun a => ({ a.1 with loc := f a.1.loc }, a.2))
  | .samo op d a y cmp => .samo op d { a with loc := f a.loc } y cmp
  | .tld t sh rows => .tld t sh (rows.map fun r => r.map fun p => { p with loc := f p.loc })
  | .tst t sh rows => .tst t sh (rows.map fun r => r.map fun p => { p with loc := f p.loc })
  | .drain a add bf fp elems x => .drain a add bf fp (elems.map fun e => { e with loc := f e.loc }) x
  | k => k

/-- The launch that holds a landing slot. -/
def SlotSt.launch : SlotSt → Option Nat
  | .free => none
  | .assigned l _ => some l
  | .landed l _ => some l
  | .held l _ => some l

/-- The place that a slot's byte takes when the slot stands on under another number. -/
def movedSlot (c n num : Nat) (l : Loc) : Loc :=
  if l.space = .slot c n then { l with space := .slot c num } else if l.space = .zeroSlot c n then { l with space := .zeroSlot c num } else l

/-- An accepted operation goes on with the page that a slot held; a copy, which translates its addresses as it runs, keeps the slot's new
number (R203). -/
def Op.keepSlot (s : State) (launch : Option Nat) (c n num : Nat) (o : Op) : Op :=
  match o.kind, o.owner with
  | .copy _, .group k =>
    if launch = some k.launch && (findTeam s (tkeyOf k)).any fun t => clusterOf t.spindle = c then { o with ghosts := o.ghosts ++ [(n, num)] } else o
  | .copy _, .packet _ => o
  | k, _ => { o with kind := k.mapLoc (movedSlot c n num) }

/-- Frees a landing slot (R264). Accesses to it that have been accepted complete against the page (R203): it stands on, for them alone, under a
number that is no slot's. -/
def freeSlot (c n : Nat) (s : State) : State :=
  let gone := { s with slots := s.slots.filter fun x => ¬ (x.cluster = c ∧ x.num = n) }
  let num := s.slots.foldl (fun m x => max m x.num) 256 + 1
  match findSlot s c n with
  | some x =>
    let ops := s.ops.map (Op.keepSlot s x.st.launch c n num)
    if ops = s.ops then gone else { gone with ops, slots := gone.slots ++ [{ x with num }] }
  | none => gone

/-- Sets every byte of a landing slot to zero (R145, R264, R330). -/
def zeroSlot (c n : Nat) (s : State) : State :=
  { s with slots := updFirst (fun x => x.cluster = c ∧ x.num = n) (fun x => { x with data := [] }) s.slots }

/-- The first access of a team to its own uncorrectable page: the slot is zeroed, and no later access traps (R145, R330). -/
def uncorrAt (t : Team) (s : State) : State :=
  if t.slotFreed then updTeam t.key (fun t => { t with pageTrapped := true }) s
  else wake ⟨.slot (clusterOf t.spindle) t.slot, 0, 0⟩ 0x4000
    (zeroSlot (clusterOf t.spindle) t.slot (updTeam t.key (fun t => { t with pageTrapped := true }) s))

/-- The same for the issuing group's team. -/
def uncorrStep (s : State) : State := uncorrAt s.team s

/-- Removes a group from a tag's holders (R206). -/
def leaveTag (n : BitVec 16) (s : State) : State :=
  { s with tags := s.tags.map fun t => if t.tag = n then { t with holders := t.holders - 1 } else t }

/-- Adds a holder to a tag (R206). -/
def joinTag (n : BitVec 16) (s : State) : State :=
  { s with tags := s.tags.map fun t => if t.tag = n then { t with holders := t.holders + 1 } else t }

/-- A packet has done its work: its completion record is due (R303, R366). What a member of a bundle has done counts for the bundle, which
ends with its last member. `detail` is the status of a move or a copy. -/
def finishPacket (id : Nat) (detail : BitVec 16) (s : State) : State :=
  match s.packets.find? fun p => p.id = id with
  | none => s
  | some p =>
    match p.bundle with
    | none => updPacket id (fun p => { p with finished := true, detail }) s
    | some (b, m) =>
      let own := if detail = 0 then p.errors else p.errors ++ [⟨detail.setWidth 64, 0, 0, m, 0, 0⟩]
      updPacket b (fun q =>
        let open_ := q.open_.filter fun i => i ≠ id
        { q with open_, done := q.done + p.done, failed := q.failed + p.failed, errors := q.errors ++ own, finished := open_.isEmpty })
        { s with packets := s.packets.filter fun p => p.id ≠ id }

/-- Ends a tree: its slot in the reel is free again (R336). -/
def endTrees (launch : Nat) (s : State) : State :=
  { s with trees := s.trees.filter fun t => t.launch ≠ launch }

/-- The grid completes when no page of it is waiting, landing or running: its held slots and its creel allocations are released, its
trees end, and its packet is ready for its completion record (R44, R262, R264, R298). -/
def gridDone (launch : Nat) (s : State) : State :=
  match findGrid s launch with
  | some g =>
    if !g.ended && g.pages.all fun p => p.st = .done || p.st = .failed then
      let s := updGrid launch (fun g => { g with ended := true }) s
      let s := endTrees launch { s with
        slots := s.slots.filter fun x => (match x.st with
          | .free => true
          | .assigned l _ => l ≠ launch
          | .landed l _ => l ≠ launch
          | .held l _ => l ≠ launch)
        creels := s.creels.filter fun x => x.launch ≠ launch }
      finishPacket g.packet 0 s
    else s
  | none => s

/-- The groups that BWAIT has suspended for a page return to their lanes (R202, R315). -/
def endWaits (launch page : Nat) (s : State) : State :=
  ((allGroups s).filter fun g => g.key.launch = launch && (match g.wait with | .bwait i _ _ => i = page | _ => false)).foldl
    (fun s g => unsuspend g.key s) s

/-- A page of a grid ends (R199). -/
def pageEnds (launch page : Nat) (failed : Bool) (s : State) : State :=
  gridDone launch (endWaits launch page (updPage launch page (fun p => { p with st := if failed then .failed else .done }) s))

/-- The groups of a team that has ended leave their tags and their lanes (R298). -/
def dropGroups (k : TKey) (s : State) : State :=
  let gs := (groupsOf s k).filter fun g => g.phase != .retired
  updGroups (fun g => tkeyOf g.key = k) (fun g => { g with phase := .retired, alloc := 0, wait := .none }) (gs.foldl (fun s g => leaveTag g.ctx s) s)

/-- Whether an operation of a kind waits, or has waited, for the commit of the group's present quantum (R253). -/
def Group.comm (g : Group) (k : CommKind) : Bool := g.commAt.contains (k, quantOf g)

/-- Whether a point, a clock and a GID, comes before another (R327). -/
def before (p q : Nat × Nat) : Bool := decide (p.1 < q.1) || (p.1 = q.1 && decide (p.2 < q.2))

/-- A group's point in the order of R327. -/
def pointOf (g : Group) : Nat × Nat := (g.clk.toNat, gidOf g.key)

/-- The point at which a group that has stopped ends: behind every point of its quantum where an operation of it waits for the commit (R205, log 12). -/
def Group.endsAt (g : Group) : Nat × Nat :=
  if g.commAt.any fun p => p.2 = quantOf g then ((quantOf g + 1) * 4096 - 1, 2 ^ 37) else pointOf g

/-- The point at which a team ends: the last of its groups', of one that a trap has ended the end of the group that trapped (R205, log 12). -/
def teamEnd (s : State) (k : TKey) : Nat × Nat :=
  let es := (groupsOf s k).filter fun g => match (findTeam s k).bind (·.endRec) with | some e => e.group = g.key.idx | none => true
  es.foldl (fun m g => if before m g.endsAt then g.endsAt else m) (0, 0)

/-- A team is released: its landing slot unless it is held, its tiles and the rest with it; its page's phase becomes DONE or FAILED
(R44, R203, R298). -/
def releaseTeam (k : TKey) (failed : Bool) (s : State) : State :=
  match findTeam s k, findGrid s k.launch with
  | some t, some g =>
    let s := dropGroups k (if t.slotFreed || g.hold then s else freeSlot (clusterOf t.spindle) t.slot s)
    let s := updTeam k (fun t => { t with phase := .gone, scratch := [], tiles := [], accs := [], tags := [], latches := [] }) s
    let s := updPage k.launch k.team (fun p => { p with seen := teamEnd s k }) s
    let s := updPacket g.packet (fun p => { p with
      done := p.done + bitOf (!failed)
      failed := p.failed + bitOf failed
      errors := match failed, t.endRec with
        | true, some e => p.errors ++ [⟨e.tval, e.epc, BitVec.ofNat 32 k.team, (p.bundle.map (·.2)).getD 0, e.group, e.cause⟩]
        | _, _ => p.errors }) s
    traceLeft t.spindle k.launch (pageEnds k.launch k.team failed s)
  | _, _ => s

/-- Whether an operation of a team's groups is still outstanding. -/
def teamBusy (s : State) (k : TKey) : Bool :=
  s.ops.any fun o => match o.owner with | .group g => tkeyOf g = k | .packet _ => false

/-- Whether a tier move that a team has asked for is in flight. The completion of a team and the signal of a launch release every path, so the
team is released behind it (R204, R246, R248, log 42). -/
def tierBusy (s : State) (k : TKey) : Bool := s.tensors.any fun t => (t.st = .moving || t.st = .evicting) && t.movers.any fun g => tkeyOf g = k

/-- The creel allocations of a launch that has ended go with its last operation (R262, R305). -/
def dropCreels (launch : Nat) (s : State) : State :=
  if s.ops.any fun o => (match o.owner with | .group k => k.launch = launch | .packet _ => false) then s
  else { s with creels := s.creels.filter fun x => ¬ (x.launch = launch ∧ x.released = true) }

/-- What a team holds of a spindle's storage is free. -/
def freeStore (t : Team) : Team := { t with scratch := [], tiles := [], accs := [] }

/-- Whether a ring write of a team's sends has neither reached a ring of this device nor left it (R242): the completion of a team and the signal of a launch
release that path too (R246, R248). -/
def fabBusy (s : State) (k : TKey) : Bool :=
  let mine := fun (m : Option GKey) => m.any fun g => tkeyOf g = k
  (s.holdBuf.any fun m => mine m.sender) || s.outBuf.any fun m => mine m.sender

/-- An ended team is released once its operations have run to completion and no dump is being taken of it (R298, R403); of one that a halt has
ended, the tiles, accumulators and scratchpad serve its accepted operations until then (R298, R305). -/
def endedRelease (k : TKey) (s : State) : State :=
  match findTeam s k with
  | some t =>
    if teamBusy s k || tierBusy s k || fabBusy s k then s
    else if t.phase = .ended && !t.dumping then releaseTeam k true s
    else if t.phase = .gone then dropCreels k.launch (updTeam k freeStore s)
    else s
  | none => s

/-- A team whose groups have all retired is released, once its tier moves have ended and its sends are through (R44, R204, R246, log 42); one that has
ended, under R298. -/
def finishTeam (k : TKey) (s : State) : State :=
  match findTeam s k with
  | some t =>
    if t.phase = .running && ((groupsOf s k).all fun g => g.phase = .retired) && !tierBusy s k && !fabBusy s k then releaseTeam k false s else endedRelease k s
  | none => s

/-- Ends the halts that a group holds on others (R117, R119, R121). -/
def endHalts (k : GKey) (s : State) : State :=
  updGroups (fun g => tkeyOf g.key = tkeyOf k) (fun g => { g with haltedBy := g.haltedBy.filter fun i => i ≠ k.idx }) s

/-- A group retires (R44, R117): it leaves its tag, its halts end; the last group of a team completes the team (`finishTeam`). -/
def retireGroup (k : GKey) (s : State) : State :=
  match findGroup s k with
  | some g =>
    let s := endHalts k (leaveTag g.ctx (updGroup k (fun g => { g with phase := .retired, alloc := 0, wait := .none }) s))
    finishTeam (tkeyOf k) s
  | none => s

/-- The counter contribution of an instruction that will not retire falls (R149, R411). -/
def dropHeld (g : Group) : Group :=
  let g := match g.held with | some c => cntDown c g | none => g
  let g := match g.heldTrap with | some c => cntDown c g | none => g
  { g with held := none, heldTrap := none, heldFree := false }

/-- The group whose trap ends its team, as trap entry would leave its registers (R411). -/
def capture (cause : BitVec 8) (tval epc : DWord) (unf : Word) (replay : Bool) (g : Group) : Group :=
  { dropHeld g with
    epc, tcause := cause, tval, unf, replay
    tgroup := BitVec.ofNat 5 g.key.idx
    pc := epc
    wait := .none
    park := none
    replayMask := none }

/-- The number of a stall reason (R388). -/
def Reason.code : Reason → Nat
  | .idle => 0
  | .lane => 1
  | .load => 2
  | .store => 3
  | .copy => 4
  | .tile => 5
  | .queue => 6
  | .bar => 7
  | .gang => 8
  | .bwait => 9
  | .pagefault => 10
  | .tensor => 11
  | .ctx => 12
  | .reel => 13
  | .fabric => 14
  | .donate => 15
  | .det => 16
  | .monitor => 17
  | .halt => 18
  | .trace => 19

/-- A group as EXIT counts its operations: it waits for nothing more from an atomic to home 10 that has trapped (R383). -/
def leaves (g : Group) : Group := if g.heldFree then dropHeld g else g

/-- What a group at EXIT waits for: the first class of its operations that is outstanding, by counter or by batch (R44, R388). -/
def exitReason (g : Group) : Option Reason :=
  match overBound (leaves g) 0 0 0 0 with
  | some r => some r
  | none => if g.batchPend.all fun p => p.2 = 0 then none else some .tile

/-- The reason of a wait; a wait whose condition a deterministic launch tests at points in the order of R327 stalls until the next with reason
DET (R327, R328). -/
def Wait.reason (det : Bool) : Wait → Reason
  | .none => .lane
  | .stall r => r
  | .barrier _ _ => if det then .det else .bar
  | .monitor _ _ _ => .monitor
  | .latch => if det then .det else .gang
  | .bwait _ _ _ => if det then .det else .bwait
  | .orecv _ => if det then .det else .fabric
  | .donate _ _ _ => if det then .det else .donate
  | .reel _ => .reel
  | .hostAtomic _ => .store
  | .yieldc _ => .copy
  | .cxret => .ctx
  | .cxnew => .ctx

/-- Where a parked group whose replay has not begun stands: whether an answer to a record has made it eligible (R290). -/
def Group.parked (g : Group) : Option Bool := if g.replayMask.isSome then none else g.park.map (·.eligible)

/-- What a group that does not issue waits for (R387, R388). -/
def reasonOf (s : State) (g : Group) : Reason :=
  if g.stopped || !g.haltedBy.isEmpty then .halt
  else if g.phase = .exiting then (exitReason g).getD .idle
  else match g.parked with
  | some true => .lane
  | some false => .pagefault
  | none => g.wait.reason (match findGrid s g.key.launch with | some d => d.det | none => false)

/-- The reason field of a status word: 0xFF for an eligible group, and for one at EXIT that nothing holds (R388, R405). -/
def statusReason (s : State) (g : Group) : Nat :=
  if g.stopped || !g.haltedBy.isEmpty then Reason.halt.code
  else if g.phase = .exiting then ((exitReason g).map Reason.code).getD 0xFF
  else if g.wait = .none || g.parked = some true then (if laneFree s g then 0xFF else Reason.lane.code)
  else (reasonOf s g).code

/-- A group as the halt of its team finds it: its reason and its set, which the dump shows (R412). -/
def haltStat (s : State) (g : Group) : Group := { g with atHalt := some (statusReason s g, g.set) }

/-- R47, R298, R403, R411: the issuing group's team ends. No group of it issues again; where the partition's dump is armed it is taken
before anything is released, and else the team is released once its operations have ended. -/
def endTeam (cause : BitVec 8) (tval epc : DWord) (unf : Word) (replay : Bool) (s : State) : State :=
  let k := s.team.key
  let p := partOf s s.grid.part
  let e : EndRec := ⟨s.grp.key.idx, cause, tval, epc, s.now⟩
  let s := onGrp (capture cause tval epc unf replay) s
  let s := hankAdd 0x41 2 (BitVec.ofNat 8 s.grid.part) (BitVec.ofNat 4 (dieOf s.team.spindle))
    (BitVec.ofNat 64 (cause.toNat + k.team * 2 ^ 32)) (BitVec.ofNat 64 s.grid.queue) s
  if p.dmpEn then
    updGroups (fun g => tkeyOf g.key = k) (haltStat s) (updPart s.grid.part (fun p => { p with dmpEn := false })
      (onTeam (fun t => { t with phase := .ended, endRec := some e, dumping := true }) s))
  else
    let s := updPart s.grid.part (fun p => { p with dmpMissed := if p.dmpMissed = 255 then 255 else p.dmpMissed + 1 }) s
    let s := onTeam (fun t => { t with phase := .ended, endRec := some e, latches := [] }) s
    endedRelease k (updGroups (fun g => tkeyOf g.key = k) (fun g => { g with park := none, stopped := false, haltedBy := [] }) s)

end Sys2Proof.Machine
end

