-- ==== Sys2Proof/WellFormed.lean ====
section
/-! DEFINITION. Which instructions are well formed: every field inside its class (R53) and inside the range its entry gives. These are
the checks of order 1 in R63 that a word's fields decide. The checks that need the machine's state (order 2 to 6) are the machine's. -/

namespace Sys2Proof

/-- An operand field with its class (R53). -/
inductive Opnd where
  | vs (n : Nat)      -- vector source of 32 bits; 96-127 name s0-s31 (R22)
  | vs64 (n : Nat)    -- vector source of 64 bits; an even pair (R21), or a scalar
  | vd (n : Nat)      -- vector destination or read-write
  | vd64 (n : Nat)    -- the same, of 64 bits
  | sd (n : Nat)      -- scalar that is written
  | ss (n : Nat)      -- scalar that is read
  | kd (n : Nat)      -- mask destination
  | ks (n : Nat)      -- mask source
  | tile (n : Nat)    -- tile
  | mtile (n : Nat)   -- tile that a matrix multiply reads (R183)
  | acc (n : Nat)     -- accumulator
  | queue (n : Nat)   -- queue that must be initialised
deriving DecidableEq, Repr

/-- The values of R53's classes; anything else raises ILL. -/
def Opnd.ok : Opnd → Bool
  | .vs n => n < 128
  | .vs64 n => 96 ≤ n || n % 2 = 0
  | .vd n => n < 96
  | .vd64 n => n < 96 && n % 2 = 0
  | .sd n => n < 128
  | .ss n => n < 128
  | .kd n => 1 ≤ n && n ≤ 7
  | .ks n => n ≤ 7
  | .tile n => n ≤ 15
  | .mtile n => n ≤ 15
  | .acc n => n ≤ 7
  | .queue n => n ≤ 15

/-- The special registers of R35: indices 27-31 and 64-127 are not listed. -/
def specialListed (i : Nat) : Bool := i ≤ 26 || (32 ≤ i && i ≤ 63)

/-- The special registers that are RO in every mode (R35, R36): TCAUSE and TVAL are not among them. -/
def specialReadOnly (i : Nat) : Bool := i ≤ 10 || (15 ≤ i && i ≤ 19)

/-- The special registers that are reachable in privileged mode only (R35). -/
def specialPrivileged (i : Nat) : Bool := i = 20 || i = 23 || i = 24 || i = 26

/-- The conversion codes of R82. -/
def cvtListed (c : Nat) : Bool :=
  c ≤ 0x05 || (0x08 ≤ c && c ≤ 0x0D) || (0x10 ≤ c && c ≤ 0x1B)

/-- The codes of R82 whose destination has 64 bits. -/
def cvtDst64 (c : Nat) : Bool := c = 0x00 || (0x10 ≤ c && c ≤ 0x15) || c = 0x17

/-- The codes of R82 whose source has 64 bits. -/
def cvtSrc64 (c : Nat) : Bool := c = 0x01 || (0x10 ≤ c && c ≤ 0x16)


/-- The operand fields of an instruction with their classes, in the order d, a, b of R63; CALL, CALLR and RET name LR as
well (R62, R102). A step without a word has none. -/
def Instr.operands : Instr → List Opnd
  | .nop => []
  | .exit => []
  | .trap _ => []
  | .eret => []
  | .brk _ => []
  | .mark _ => []
  | .fence _ _ => []
  | .fencex _ _ _ => []
  | .yield => []
  | .yieldc _ => []
  | .window _ => []
  | .donate _ _ _ => []
  | .bar _ _ => []
  | .bara d _ _ => [.sd d.toNat]
  | .barw _ rb => [.ss rb.toNat]
  | .waita a rb => [.ss a.toNat, .ss rb.toNat]
  | .wakea a => [.ss a.toNat]
  | .haltg a => [.ss a.toNat]
  | .haltgRes a => [.ss a.toNat]
  | .mbatch _ => []
  | .mwait _ => []
  | .sadd d a rb => [.sd d.toNat, .ss a.toNat, .ss rb.toNat]
  | .ssub d a rb => [.sd d.toNat, .ss a.toNat, .ss rb.toNat]
  | .smul d a rb => [.sd d.toNat, .ss a.toNat, .ss rb.toNat]
  | .smulh d a rb => [.sd d.toNat, .ss a.toNat, .ss rb.toNat]
  | .smulhu d a rb => [.sd d.toNat, .ss a.toNat, .ss rb.toNat]
  | .sdiv d a rb => [.sd d.toNat, .ss a.toNat, .ss rb.toNat]
  | .sdivu d a rb => [.sd d.toNat, .ss a.toNat, .ss rb.toNat]
  | .srem d a rb => [.sd d.toNat, .ss a.toNat, .ss rb.toNat]
  | .sremu d a rb => [.sd d.toNat, .ss a.toNat, .ss rb.toNat]
  | .sand d a rb => [.sd d.toNat, .ss a.toNat, .ss rb.toNat]
  | .sor d a rb => [.sd d.toNat, .ss a.toNat, .ss rb.toNat]
  | .sxor d a rb => [.sd d.toNat, .ss a.toNat, .ss rb.toNat]
  | .sandn d a rb => [.sd d.toNat, .ss a.toNat, .ss rb.toNat]
  | .sshl d a rb => [.sd d.toNat, .ss a.toNat, .ss rb.toNat]
  | .sshr d a rb => [.sd d.toNat, .ss a.toNat, .ss rb.toNat]
  | .ssra d a rb => [.sd d.toNat, .ss a.toNat, .ss rb.toNat]
  | .smin d a rb => [.sd d.toNat, .ss a.toNat, .ss rb.toNat]
  | .smax d a rb => [.sd d.toNat, .ss a.toNat, .ss rb.toNat]
  | .sminu d a rb => [.sd d.toNat, .ss a.toNat, .ss rb.toNat]
  | .smaxu d a rb => [.sd d.toNat, .ss a.toNat, .ss rb.toNat]
  | .scmp a rb => [.ss a.toNat, .ss rb.toNat]
  | .scmpu a rb => [.ss a.toNat, .ss rb.toNat]
  | .ssel d a rb => [.sd d.toNat, .ss a.toNat, .ss rb.toNat]
  | .spopc d a => [.sd d.toNat, .ss a.toNat]
  | .sclz d a => [.sd d.toNat, .ss a.toNat]
  | .sctz d a => [.sd d.toNat, .ss a.toNat]
  | .sbrev d a => [.sd d.toNat, .ss a.toNat]
  | .sbfe d a rb => [.sd d.toNat, .ss a.toNat, .ss rb.toNat]
  | .sbfi d a rb => [.sd d.toNat, .ss a.toNat, .ss rb.toNat]
  | .saddi d a _ => [.sd d.toNat, .ss a.toNat]
  | .sandi d a _ => [.sd d.toNat, .ss a.toNat]
  | .sori d a _ => [.sd d.toNat, .ss a.toNat]
  | .sxori d a _ => [.sd d.toNat, .ss a.toNat]
  | .sshli d a _ => [.sd d.toNat, .ss a.toNat]
  | .sshri d a _ => [.sd d.toNat, .ss a.toNat]
  | .ssrai d a _ => [.sd d.toNat, .ss a.toNat]
  | .scmpi a _ => [.ss a.toNat]
  | .scmpiu a _ => [.ss a.toNat]
  | .sli d _ _ _ => [.sd d.toNat]
  | .sld d a _ _ _ _ => [.sd d.toNat, .ss a.toNat]
  | .sst d a _ _ _ _ => [.ss d.toNat, .ss a.toNat]
  | .smfs d _ => [.sd d.toNat]
  | .smts _ a => [.ss a.toNat]
  | .smfk d a => [.sd d.toNat, .ks a.toNat]
  | .smtk d a => [.kd d.toNat, .ss a.toNat]
  | .b _ _ => []
  | .call _ => [.sd 126]
  | .jr a => [.ss a.toNat]
  | .callr a => [.sd 126, .ss a.toNat]
  | .ret => [.ss 126]
  | .kand d a rb => [.kd d.toNat, .ks a.toNat, .ks rb.toNat]
  | .kor d a rb => [.kd d.toNat, .ks a.toNat, .ks rb.toNat]
  | .kxor d a rb => [.kd d.toNat, .ks a.toNat, .ks rb.toNat]
  | .kandn d a rb => [.kd d.toNat, .ks a.toNat, .ks rb.toNat]
  | .knot d a => [.kd d.toNat, .ks a.toNat]
  | .kmov d a => [.kd d.toNat, .ks a.toNat]
  | .kpopc d a => [.sd d.toNat, .ks a.toNat]
  | .kffs d a => [.sd d.toNat, .ks a.toNat]
  | .kfroms d a rb => [.kd d.toNat, .ss a.toNat, .ss rb.toNat]
  | .ktos d a rb => [.sd d.toNat, .ks a.toNat, .ss rb.toNat]
  | .kall d _ => [.kd d.toNat]
  | .wait _ _ _ _ => []
  | .vadd _ d a rb => [.vd d.toNat, .vs a.toNat, .vs rb.toNat]
  | .vsub _ d a rb => [.vd d.toNat, .vs a.toNat, .vs rb.toNat]
  | .vmul _ d a rb => [.vd d.toNat, .vs a.toNat, .vs rb.toNat]
  | .vmulh _ d a rb => [.vd d.toNat, .vs a.toNat, .vs rb.toNat]
  | .vmulhu _ d a rb => [.vd d.toNat, .vs a.toNat, .vs rb.toNat]
  | .vmin _ d a rb => [.vd d.toNat, .vs a.toNat, .vs rb.toNat]
  | .vmax _ d a rb => [.vd d.toNat, .vs a.toNat, .vs rb.toNat]
  | .vminu _ d a rb => [.vd d.toNat, .vs a.toNat, .vs rb.toNat]
  | .vmaxu _ d a rb => [.vd d.toNat, .vs a.toNat, .vs rb.toNat]
  | .vand _ d a rb => [.vd d.toNat, .vs a.toNat, .vs rb.toNat]
  | .vor _ d a rb => [.vd d.toNat, .vs a.toNat, .vs rb.toNat]
  | .vxor _ d a rb => [.vd d.toNat, .vs a.toNat, .vs rb.toNat]
  | .vandn _ d a rb => [.vd d.toNat, .vs a.toNat, .vs rb.toNat]
  | .vshl _ d a rb => [.vd d.toNat, .vs a.toNat, .vs rb.toNat]
  | .vshr _ d a rb => [.vd d.toNat, .vs a.toNat, .vs rb.toNat]
  | .vsra _ d a rb => [.vd d.toNat, .vs a.toNat, .vs rb.toNat]
  | .vbfe _ d a rb => [.vd d.toNat, .vs a.toNat, .vs rb.toNat]
  | .vbfeu _ d a rb => [.vd d.toNat, .vs a.toNat, .vs rb.toNat]
  | .vbfi _ d a rb => [.vd d.toNat, .vs a.toNat, .vs rb.toNat]
  | .vbrev _ d a => [.vd d.toNat, .vs a.toNat]
  | .vpopc _ d a => [.vd d.toNat, .vs a.toNat]
  | .vclz _ d a => [.vd d.toNat, .vs a.toNat]
  | .vctz _ d a => [.vd d.toNat, .vs a.toNat]
  | .vabs _ d a => [.vd d.toNat, .vs a.toNat]
  | .vaddi _ d a _ => [.vd d.toNat, .vs a.toNat]
  | .vandi _ d a _ => [.vd d.toNat, .vs a.toNat]
  | .vori _ d a _ => [.vd d.toNat, .vs a.toNat]
  | .vxori _ d a _ => [.vd d.toNat, .vs a.toNat]
  | .vshli _ d a _ => [.vd d.toNat, .vs a.toNat]
  | .vshri _ d a _ => [.vd d.toNat, .vs a.toNat]
  | .vsrai _ d a _ => [.vd d.toNat, .vs a.toNat]
  | .vfadd _ d a rb => [.vd d.toNat, .vs a.toNat, .vs rb.toNat]
  | .vfsub _ d a rb => [.vd d.toNat, .vs a.toNat, .vs rb.toNat]
  | .vfmul _ d a rb => [.vd d.toNat, .vs a.toNat, .vs rb.toNat]
  | .vfma _ d a rb => [.vd d.toNat, .vs a.toNat, .vs rb.toNat]
  | .vfms _ d a rb => [.vd d.toNat, .vs a.toNat, .vs rb.toNat]
  | .vfmin _ d a rb => [.vd d.toNat, .vs a.toNat, .vs rb.toNat]
  | .vfmax _ d a rb => [.vd d.toNat, .vs a.toNat, .vs rb.toNat]
  | .vfabs _ d a => [.vd d.toNat, .vs a.toNat]
  | .vfdiv _ d a rb => [.vd d.toNat, .vs a.toNat, .vs rb.toNat]
  | .vfsqrt _ d a => [.vd d.toNat, .vs a.toNat]
  | .vfrcp _ d a => [.vd d.toNat, .vs a.toNat]
  | .vfrsq _ d a => [.vd d.toNat, .vs a.toNat]
  | .vfexp2 _ d a => [.vd d.toNat, .vs a.toNat]
  | .vflog2 _ d a => [.vd d.toNat, .vs a.toNat]
  | .vffloor _ d a => [.vd d.toNat, .vs a.toNat]
  | .vfrint _ d a => [.vd d.toNat, .vs a.toNat]
  | .vdadd _ d a rb => [.vd64 d.toNat, .vs64 a.toNat, .vs64 rb.toNat]
  | .vdsub _ d a rb => [.vd64 d.toNat, .vs64 a.toNat, .vs64 rb.toNat]
  | .vdmul _ d a rb => [.vd64 d.toNat, .vs64 a.toNat, .vs64 rb.toNat]
  | .vdfma _ d a rb => [.vd64 d.toNat, .vs64 a.toNat, .vs64 rb.toNat]
  | .vddiv _ d a rb => [.vd64 d.toNat, .vs64 a.toNat, .vs64 rb.toNat]
  | .vdsqrt _ d a => [.vd64 d.toNat, .vs64 a.toNat]
  | .vdmin _ d a rb => [.vd64 d.toNat, .vs64 a.toNat, .vs64 rb.toNat]
  | .vdmax _ d a rb => [.vd64 d.toNat, .vs64 a.toNat, .vs64 rb.toNat]
  | .vcvt _ d a c => [if cvtDst64 c.toNat then .vd64 d.toNat else .vd d.toNat, if cvtSrc64 c.toNat then .vs64 a.toNat else .vs a.toNat]
  | .vceq _ d a rb => [.kd d.toNat, .vs a.toNat, .vs rb.toNat]
  | .vcne _ d a rb => [.kd d.toNat, .vs a.toNat, .vs rb.toNat]
  | .vclt _ d a rb => [.kd d.toNat, .vs a.toNat, .vs rb.toNat]
  | .vcle _ d a rb => [.kd d.toNat, .vs a.toNat, .vs rb.toNat]
  | .vcltu _ d a rb => [.kd d.toNat, .vs a.toNat, .vs rb.toNat]
  | .vcleu _ d a rb => [.kd d.toNat, .vs a.toNat, .vs rb.toNat]
  | .vfceq _ d a rb => [.kd d.toNat, .vs a.toNat, .vs rb.toNat]
  | .vfcne _ d a rb => [.kd d.toNat, .vs a.toNat, .vs rb.toNat]
  | .vfclt _ d a rb => [.kd d.toNat, .vs a.toNat, .vs rb.toNat]
  | .vfcle _ d a rb => [.kd d.toNat, .vs a.toNat, .vs rb.toNat]
  | .vfcun _ d a rb => [.kd d.toNat, .vs a.toNat, .vs rb.toNat]
  | .vdceq _ d a rb => [.kd d.toNat, .vs64 a.toNat, .vs64 rb.toNat]
  | .vdclt _ d a rb => [.kd d.toNat, .vs64 a.toNat, .vs64 rb.toNat]
  | .vdcle _ d a rb => [.kd d.toNat, .vs64 a.toNat, .vs64 rb.toNat]
  | .vshfl _ d a rb => [.vd d.toNat, .vs a.toNat, .vs rb.toNat]
  | .vshflx _ d a rb => [.vd d.toNat, .vs a.toNat, .vs rb.toNat]
  | .vshflu _ d a rb => [.vd d.toNat, .vs a.toNat, .vs rb.toNat]
  | .vshfld _ d a rb => [.vd d.toNat, .vs a.toNat, .vs rb.toNat]
  | .vbcast _ d a rb => [.vd d.toNat, .vs a.toNat, .ss rb.toNat]
  | .vsel _ d a rb => [.vd d.toNat, .vs a.toNat, .vs rb.toNat]
  | .vballot _ d a => [.sd d.toNat, .vs a.toNat]
  | .vtid _ d => [.vd d.toNat]
  | .vredadd _ d a => [.sd d.toNat, .vs a.toNat]
  | .vredmin _ d a => [.sd d.toNat, .vs a.toNat]
  | .vredmax _ d a => [.sd d.toNat, .vs a.toNat]
  | .vredminu _ d a => [.sd d.toNat, .vs a.toNat]
  | .vredmaxu _ d a => [.sd d.toNat, .vs a.toNat]
  | .vredfadd _ d a => [.sd d.toNat, .vs a.toNat]
  | .vscan _ d a => [.vd d.toNat, .vs a.toNat]
  | .vscanf _ d a => [.vd d.toNat, .vs a.toNat]
  | .vmov _ d a => [.vd d.toNat, .vs a.toNat]
  | .vmfs _ d a rb => [if rb.toNat = 1 then .vd64 d.toNat else .vd d.toNat, .ss a.toNat]
  | .vmerge _ d a rb => [.vd d.toNat, .vs a.toNat, .vs rb.toNat]
  | .vld _ d a w _ _ _ => [if w.toNat = 3 then .vd64 d.toNat else .vd d.toNat, .vs64 a.toNat]
  | .vldu _ d a _ _ _ _ => [.vd d.toNat, .vs64 a.toNat]
  | .vst _ d a w _ _ _ => [if w.toNat = 3 then .vs64 d.toNat else .vs d.toNat, .vs64 a.toNat]
  | .vldx _ f d a rb => [if f.toNat = 5 then .vd64 d.toNat else .vd d.toNat, .vs64 a.toNat, .ss rb.toNat]
  | .vamoadd _ d a rb => [.vd d.toNat, .vs64 a.toNat, .vs rb.toNat]
  | .vamomin _ d a rb => [.vd d.toNat, .vs64 a.toNat, .vs rb.toNat]
  | .vamomax _ d a rb => [.vd d.toNat, .vs64 a.toNat, .vs rb.toNat]
  | .vamominu _ d a rb => [.vd d.toNat, .vs64 a.toNat, .vs rb.toNat]
  | .vamomaxu _ d a rb => [.vd d.toNat, .vs64 a.toNat, .vs rb.toNat]
  | .vamoand _ d a rb => [.vd d.toNat, .vs64 a.toNat, .vs rb.toNat]
  | .vamoor _ d a rb => [.vd d.toNat, .vs64 a.toNat, .vs rb.toNat]
  | .vamoxor _ d a rb => [.vd d.toNat, .vs64 a.toNat, .vs rb.toNat]
  | .vcas _ d a rb => [.vd d.toNat, .vs64 a.toNat, .vs rb.toNat]
  | .vxchg _ d a rb => [.vd d.toNat, .vs64 a.toNat, .vs rb.toNat]
  | .vamofadd _ d a rb => [.vd d.toNat, .vs64 a.toNat, .vs rb.toNat]
  | .vamofmin _ d a rb => [.vd d.toNat, .vs64 a.toNat, .vs rb.toNat]
  | .vamofmax _ d a rb => [.vd d.toNat, .vs64 a.toNat, .vs rb.toNat]
  | .samoadd d a rb => [.sd d.toNat, .ss a.toNat, .ss rb.toNat]
  | .samomin d a rb => [.sd d.toNat, .ss a.toNat, .ss rb.toNat]
  | .samomax d a rb => [.sd d.toNat, .ss a.toNat, .ss rb.toNat]
  | .samoand d a rb => [.sd d.toNat, .ss a.toNat, .ss rb.toNat]
  | .samoor d a rb => [.sd d.toNat, .ss a.toNat, .ss rb.toNat]
  | .samoxor d a rb => [.sd d.toNat, .ss a.toNat, .ss rb.toNat]
  | .scas d a rb => [.sd d.toNat, .ss a.toNat, .ss rb.toNat]
  | .sxchg d a rb => [.sd d.toNat, .ss a.toNat, .ss rb.toNat]
  | .tlook d a => [.sd d.toNat, .ss a.toNat]
  | .tset a rb => [.ss a.toNat, .ss rb.toNat]
  | .tinv a => [.ss a.toNat]
  | .tclr => []
  | .tslot d a => [.sd d.toNat, .ss a.toNat]
  | .cpy d a rb => [.ss d.toNat, .ss a.toNat, .ss rb.toNat]
  | .cpym d a rb => [.ss d.toNat, .ss a.toNat, .ss rb.toNat]
  | .cpyd d a rb => [.ss d.toNat, .ss a.toNat, .ss rb.toNat]
  | .cpyc d a rb => [.ss d.toNat, .ss a.toNat, .ss rb.toNat]
  | .cpyg d a rb => [.ss d.toNat, .ss a.toNat, .ss rb.toNat]
  | .cpys d a rb => [.ss d.toNat, .ss a.toNat, .ss rb.toNat]
  | .qinit _ _ => []
  | .qpush d a => [.queue d.toNat, .ss a.toNat]
  | .qpop d a => [.sd d.toNat, .queue a.toNat]
  | .qpusht d a => [.queue d.toNat, .tile a.toNat]
  | .qpopt d a => [.sd d.toNat, .queue a.toNat]
  | .qallow d _ => [.queue d.toNat]
  | .tnmov d a rb => [.sd d.toNat, .ss a.toNat, .ss rb.toNat]
  | .tnpin d a => [.sd d.toNat, .ss a.toNat]
  | .tnunpin d a => [.sd d.toNat, .ss a.toNat]
  | .tnevict d a => [.sd d.toNat, .ss a.toNat]
  | .tnwait d a => [.sd d.toNat, .ss a.toNat]
  | .tnstat d a => [.sd d.toNat, .ss a.toNat]
  | .tld d a rb => [.tile d.toNat, .ss a.toNat, .ss rb.toNat]
  | .tst d a rb => [.tile d.toNat, .ss a.toNat, .ss rb.toNat]
  | .tzero d => [.tile d.toNat]
  | .mma d a rb => [.acc d.toNat, .mtile a.toNat, .mtile rb.toNat]
  | .mmaz d a rb => [.acc d.toNat, .mtile a.toNat, .mtile rb.toNat]
  | .mmar d a rb => [.acc d.toNat, .mtile a.toNat, .mtile rb.toNat]
  | .accz d => [.acc d.toNat]
  | .accld d a rb => [.vd d.toNat, .acc a.toNat, .ss rb.toNat]
  | .draina d a rb => [.acc d.toNat, .ss a.toNat, .ss rb.toNat]
  | .drains d a rb => [.acc d.toNat, .ss a.toNat, .ss rb.toNat]
  | .trnew d a => [.sd d.toNat, .ss a.toNat]
  | .trroot d a _ => [.sd d.toNat, .ss a.toNat]
  | .trdesc d a => [.sd d.toNat, .ss a.toNat]
  | .trexp d a _ => [.sd d.toNat, .ss a.toNat]
  | .trback a rb => [.ss a.toNat, .ss rb.toNat]
  | .trreuse d a => [.sd d.toNat, .ss a.toNat]
  | .trfree a _ => [.ss a.toNat]
  | .trleaf d a rb => [.sd d.toNat, .ss a.toNat, .ss rb.toNat]
  | .trstat d a _ => [.sd d.toNat, .ss a.toNat]
  | .cxnew d a => [.sd d.toNat, .ss a.toNat]
  | .cxtnew d a => [.sd d.toNat, .ss a.toNat]
  | .cxret a => [.ss a.toNat]
  | .cxset a => [.ss a.toNat]
  | .cxget d a => [.sd d.toNat, .ss a.toNat]
  | .cxpar d a => [.sd d.toNat, .ss a.toNat]
  | .osend d a rb => [.sd d.toNat, .ss a.toNat, .ss rb.toNat]
  | .usend d a rb => [.sd d.toNat, .ss a.toNat, .ss rb.toNat]
  | .orecv d a rb => [.sd d.toNat, .ss a.toNat, .ss rb.toNat]
  | .opeek d a => [.sd d.toNat, .ss a.toNat]
  | .ostamp d _ => [.sd d.toNat]
  | .owm d a => [.sd d.toNat, .ss a.toNat]
  | .pstatr d a => [.sd d.toNat, .ss a.toNat]
  | .bwait d a => [.sd d.toNat, .ss a.toNat]
  | .btry d a => [.sd d.toNat, .ss a.toNat]
  | .pfree => []
  | .groupRetire _ => []
  | .donateTransfer _ _ => []
  | .loadCompletion _ => []
  | .storePerformed _ => []
  | .atomicCompletion _ => []
  | .hostAtomicCompletion _ _ => []
  | .hostCompletionTimeout _ => []
  | .copyCompletion _ => []
  | .engineAccept _ => []
  | .tileCompletion _ => []
  | .mmaCompletion _ => []
  | .mmarAllowance _ _ => []
  | .drainCompletion _ => []
  | .reelStep _ => []
  | .parkedReplay _ => []
  | .faultQueueRoom _ => []
  | .waitaTimeout _ => []
  | .bwaitTimeout _ => []
  | .orecvTimeout _ => []
  | .reclaimComplete _ => []
  | .moveCompletes _ _ => []
  | .moveFails _ _ => []
  | .evictionEnd _ _ => []
  | .pageReadIssue _ => []
  | .pageLanding _ _ _ => []
  | .distaffBoundExpiry _ _ _ => []
  | .nvmeReadCompletion _ _ _ _ => []
  | .nvmeTimeout _ _ => []
  | .memoryPageCopy _ _ => []
  | .placement _ _ => []
  | .activeSwap _ _ => []
  | .promotion _ => []
  | .teamSwapOut _ => []
  | .teamSwapIn _ => []
  | .timeSliceExpiry _ => []
  | .deferralLimitExpiry _ => []
  | .teamSave _ => []
  | .teamRestore _ => []
  | .quantumEnd _ => []
  | .syncOpEffect _ => []
  | .launch _ _ => []
  | .move _ _ => []
  | .copyPacket _ _ => []
  | .signal _ _ => []
  | .waitPacket _ _ => []
  | .bundle _ _ => []
  | .completionRecord _ => []
  | .createq _ _ => []
  | .resetq _ _ => []
  | .destroyq _ _ => []
  | .setasid _ _ _ _ _ => []
  | .sets2 _ _ _ _ _ => []
  | .tlbinv _ _ => []
  | .faultq _ _ _ => []
  | .faultrespReplay _ _ => []
  | .faultrespFail _ _ => []
  | .eventq _ _ _ => []
  | .quota _ _ _ _ _ => []
  | .cellstore _ _ _ => []
  | .regtensor _ _ => []
  | .unregtensor _ _ => []
  | .preempt _ _ => []
  | .keyset _ _ => []
  | .keyclr _ _ => []
  | .power _ _ _ => []
  | .fwload _ _ _ _ => []
  | .attest _ _ _ _ => []
  | .nvmepass _ _ _ _ => []
  | .nvmepassCompletion _ _ => []
  | .ringbind _ _ _ _ _ _ _ => []
  | .ringfree _ _ => []
  | .importBind _ _ _ _ _ => []
  | .importRemove _ _ _ => []
  | .nvmeto _ _ _ => []
  | .fabricMessageArrival _ _ => []
  | .beaconArrival _ _ _ => []
  | .unorderedArrival _ _ => []
  | .orderedDelivery => []
  | .beaconTimer _ => []
  | .timeBeacon _ => []
  | .portStall _ => []
  | .pause _ _ _ => []
  | .peerRequest _ _ _ _ _ => []
  | .portAdmit _ => []
  | .portFence _ => []
  | .fabdropClear _ => []
  | .linkdown _ => []
  | .bar2Access _ _ _ => []
  | .cxlMemAccess _ _ => []
  | .gcmdStop _ => []
  | .gcmdResume _ _ => []
  | .gcmdStep _ => []
  | .prctlClr _ _ => []
  | .groupWindowWrite _ _ _ => []
  | .traceEnable _ _ => []
  | .syncSet _ => []
  | .traceRecordWrite _ => []
  | .breakpointStop _ => []
  | .coreDump _ => []
  | .hankMirror => []
  | .thermwarn _ _ => []
  | .thermtrip _ _ => []
  | .fundamentalReset => []
  | .functionLevelReset _ => []
  | .registerWrite _ _ => []
  | .illegalWord _ => []
  | .outOfSectionFetch _ => []
  | .powerLoss => []
  | .linkTrained _ _ _ => []
  | .unusedSlot _ _ => []

/-- The guard field of an instruction that acts per thread (R55); nothing for one that executes once per group. -/
def Instr.guard : Instr → Option (BitVec 2)
  | .nop => none
  | .exit => none
  | .trap _ => none
  | .eret => none
  | .brk _ => none
  | .mark _ => none
  | .fence _ _ => none
  | .fencex _ _ _ => none
  | .yield => none
  | .yieldc _ => none
  | .window _ => none
  | .donate _ _ _ => none
  | .bar _ _ => none
  | .bara _ _ _ => none
  | .barw _ _ => none
  | .waita _ _ => none
  | .wakea _ => none
  | .haltg _ => none
  | .haltgRes _ => none
  | .mbatch _ => none
  | .mwait _ => none
  | .sadd _ _ _ => none
  | .ssub _ _ _ => none
  | .smul _ _ _ => none
  | .smulh _ _ _ => none
  | .smulhu _ _ _ => none
  | .sdiv _ _ _ => none
  | .sdivu _ _ _ => none
  | .srem _ _ _ => none
  | .sremu _ _ _ => none
  | .sand _ _ _ => none
  | .sor _ _ _ => none
  | .sxor _ _ _ => none
  | .sandn _ _ _ => none
  | .sshl _ _ _ => none
  | .sshr _ _ _ => none
  | .ssra _ _ _ => none
  | .smin _ _ _ => none
  | .smax _ _ _ => none
  | .sminu _ _ _ => none
  | .smaxu _ _ _ => none
  | .scmp _ _ => none
  | .scmpu _ _ => none
  | .ssel _ _ _ => none
  | .spopc _ _ => none
  | .sclz _ _ => none
  | .sctz _ _ => none
  | .sbrev _ _ => none
  | .sbfe _ _ _ => none
  | .sbfi _ _ _ => none
  | .saddi _ _ _ => none
  | .sandi _ _ _ => none
  | .sori _ _ _ => none
  | .sxori _ _ _ => none
  | .sshli _ _ _ => none
  | .sshri _ _ _ => none
  | .ssrai _ _ _ => none
  | .scmpi _ _ => none
  | .scmpiu _ _ => none
  | .sli _ _ _ _ => none
  | .sld _ _ _ _ _ _ => none
  | .sst _ _ _ _ _ _ => none
  | .smfs _ _ => none
  | .smts _ _ => none
  | .smfk _ _ => none
  | .smtk _ _ => none
  | .b _ _ => none
  | .call _ => none
  | .jr _ => none
  | .callr _ => none
  | .ret => none
  | .kand _ _ _ => none
  | .kor _ _ _ => none
  | .kxor _ _ _ => none
  | .kandn _ _ _ => none
  | .knot _ _ => none
  | .kmov _ _ => none
  | .kpopc _ _ => none
  | .kffs _ _ => none
  | .kfroms _ _ _ => none
  | .ktos _ _ _ => none
  | .kall _ _ => none
  | .wait _ _ _ _ => none
  | .vadd g _ _ _ => some g
  | .vsub g _ _ _ => some g
  | .vmul g _ _ _ => some g
  | .vmulh g _ _ _ => some g
  | .vmulhu g _ _ _ => some g
  | .vmin g _ _ _ => some g
  | .vmax g _ _ _ => some g
  | .vminu g _ _ _ => some g
  | .vmaxu g _ _ _ => some g
  | .vand g _ _ _ => some g
  | .vor g _ _ _ => some g
  | .vxor g _ _ _ => some g
  | .vandn g _ _ _ => some g
  | .vshl g _ _ _ => some g
  | .vshr g _ _ _ => some g
  | .vsra g _ _ _ => some g
  | .vbfe g _ _ _ => some g
  | .vbfeu g _ _ _ => some g
  | .vbfi g _ _ _ => some g
  | .vbrev g _ _ => some g
  | .vpopc g _ _ => some g
  | .vclz g _ _ => some g
  | .vctz g _ _ => some g
  | .vabs g _ _ => some g
  | .vaddi g _ _ _ => some g
  | .vandi g _ _ _ => some g
  | .vori g _ _ _ => some g
  | .vxori g _ _ _ => some g
  | .vshli g _ _ _ => some g
  | .vshri g _ _ _ => some g
  | .vsrai g _ _ _ => some g
  | .vfadd g _ _ _ => some g
  | .vfsub g _ _ _ => some g
  | .vfmul g _ _ _ => some g
  | .vfma g _ _ _ => some g
  | .vfms g _ _ _ => some g
  | .vfmin g _ _ _ => some g
  | .vfmax g _ _ _ => some g
  | .vfabs g _ _ => some g
  | .vfdiv g _ _ _ => some g
  | .vfsqrt g _ _ => some g
  | .vfrcp g _ _ => some g
  | .vfrsq g _ _ => some g
  | .vfexp2 g _ _ => some g
  | .vflog2 g _ _ => some g
  | .vffloor g _ _ => some g
  | .vfrint g _ _ => some g
  | .vdadd g _ _ _ => some g
  | .vdsub g _ _ _ => some g
  | .vdmul g _ _ _ => some g
  | .vdfma g _ _ _ => some g
  | .vddiv g _ _ _ => some g
  | .vdsqrt g _ _ => some g
  | .vdmin g _ _ _ => some g
  | .vdmax g _ _ _ => some g
  | .vcvt g _ _ _ => some g
  | .vceq g _ _ _ => some g
  | .vcne g _ _ _ => some g
  | .vclt g _ _ _ => some g
  | .vcle g _ _ _ => some g
  | .vcltu g _ _ _ => some g
  | .vcleu g _ _ _ => some g
  | .vfceq g _ _ _ => some g
  | .vfcne g _ _ _ => some g
  | .vfclt g _ _ _ => some g
  | .vfcle g _ _ _ => some g
  | .vfcun g _ _ _ => some g
  | .vdceq g _ _ _ => some g
  | .vdclt g _ _ _ => some g
  | .vdcle g _ _ _ => some g
  | .vshfl g _ _ _ => some g
  | .vshflx g _ _ _ => some g
  | .vshflu g _ _ _ => some g
  | .vshfld g _ _ _ => some g
  | .vbcast g _ _ _ => some g
  | .vsel g _ _ _ => some g
  | .vballot g _ _ => some g
  | .vtid g _ => some g
  | .vredadd g _ _ => some g
  | .vredmin g _ _ => some g
  | .vredmax g _ _ => some g
  | .vredminu g _ _ => some g
  | .vredmaxu g _ _ => some g
  | .vredfadd g _ _ => some g
  | .vscan g _ _ => some g
  | .vscanf g _ _ => some g
  | .vmov g _ _ => some g
  | .vmfs g _ _ _ => some g
  | .vmerge g _ _ _ => some g
  | .vld g _ _ _ _ _ _ => some g
  | .vldu g _ _ _ _ _ _ => some g
  | .vst g _ _ _ _ _ _ => some g
  | .vldx g _ _ _ _ => some g
  | .vamoadd g _ _ _ => some g
  | .vamomin g _ _ _ => some g
  | .vamomax g _ _ _ => some g
  | .vamominu g _ _ _ => some g
  | .vamomaxu g _ _ _ => some g
  | .vamoand g _ _ _ => some g
  | .vamoor g _ _ _ => some g
  | .vamoxor g _ _ _ => some g
  | .vcas g _ _ _ => some g
  | .vxchg g _ _ _ => some g
  | .vamofadd g _ _ _ => some g
  | .vamofmin g _ _ _ => some g
  | .vamofmax g _ _ _ => some g
  | .samoadd _ _ _ => none
  | .samomin _ _ _ => none
  | .samomax _ _ _ => none
  | .samoand _ _ _ => none
  | .samoor _ _ _ => none
  | .samoxor _ _ _ => none
  | .scas _ _ _ => none
  | .sxchg _ _ _ => none
  | .tlook _ _ => none
  | .tset _ _ => none
  | .tinv _ => none
  | .tclr => none
  | .tslot _ _ => none
  | .cpy _ _ _ => none
  | .cpym _ _ _ => none
  | .cpyd _ _ _ => none
  | .cpyc _ _ _ => none
  | .cpyg _ _ _ => none
  | .cpys _ _ _ => none
  | .qinit _ _ => none
  | .qpush _ _ => none
  | .qpop _ _ => none
  | .qpusht _ _ => none
  | .qpopt _ _ => none
  | .qallow _ _ => none
  | .tnmov _ _ _ => none
  | .tnpin _ _ => none
  | .tnunpin _ _ => none
  | .tnevict _ _ => none
  | .tnwait _ _ => none
  | .tnstat _ _ => none
  | .tld _ _ _ => none
  | .tst _ _ _ => none
  | .tzero _ => none
  | .mma _ _ _ => none
  | .mmaz _ _ _ => none
  | .mmar _ _ _ => none
  | .accz _ => none
  | .accld _ _ _ => none
  | .draina _ _ _ => none
  | .drains _ _ _ => none
  | .trnew _ _ => none
  | .trroot _ _ _ => none
  | .trdesc _ _ => none
  | .trexp _ _ _ => none
  | .trback _ _ => none
  | .trreuse _ _ => none
  | .trfree _ _ => none
  | .trleaf _ _ _ => none
  | .trstat _ _ _ => none
  | .cxnew _ _ => none
  | .cxtnew _ _ => none
  | .cxret _ => none
  | .cxset _ => none
  | .cxget _ _ => none
  | .cxpar _ _ => none
  | .osend _ _ _ => none
  | .usend _ _ _ => none
  | .orecv _ _ _ => none
  | .opeek _ _ => none
  | .ostamp _ _ => none
  | .owm _ _ => none
  | .pstatr _ _ => none
  | .bwait _ _ => none
  | .btry _ _ => none
  | .pfree => none
  | .groupRetire _ => none
  | .donateTransfer _ _ => none
  | .loadCompletion _ => none
  | .storePerformed _ => none
  | .atomicCompletion _ => none
  | .hostAtomicCompletion _ _ => none
  | .hostCompletionTimeout _ => none
  | .copyCompletion _ => none
  | .engineAccept _ => none
  | .tileCompletion _ => none
  | .mmaCompletion _ => none
  | .mmarAllowance _ _ => none
  | .drainCompletion _ => none
  | .reelStep _ => none
  | .parkedReplay _ => none
  | .faultQueueRoom _ => none
  | .waitaTimeout _ => none
  | .bwaitTimeout _ => none
  | .orecvTimeout _ => none
  | .reclaimComplete _ => none
  | .moveCompletes _ _ => none
  | .moveFails _ _ => none
  | .evictionEnd _ _ => none
  | .pageReadIssue _ => none
  | .pageLanding _ _ _ => none
  | .distaffBoundExpiry _ _ _ => none
  | .nvmeReadCompletion _ _ _ _ => none
  | .nvmeTimeout _ _ => none
  | .memoryPageCopy _ _ => none
  | .placement _ _ => none
  | .activeSwap _ _ => none
  | .promotion _ => none
  | .teamSwapOut _ => none
  | .teamSwapIn _ => none
  | .timeSliceExpiry _ => none
  | .deferralLimitExpiry _ => none
  | .teamSave _ => none
  | .teamRestore _ => none
  | .quantumEnd _ => none
  | .syncOpEffect _ => none
  | .launch _ _ => none
  | .move _ _ => none
  | .copyPacket _ _ => none
  | .signal _ _ => none
  | .waitPacket _ _ => none
  | .bundle _ _ => none
  | .completionRecord _ => none
  | .createq _ _ => none
  | .resetq _ _ => none
  | .destroyq _ _ => none
  | .setasid _ _ _ _ _ => none
  | .sets2 _ _ _ _ _ => none
  | .tlbinv _ _ => none
  | .faultq _ _ _ => none
  | .faultrespReplay _ _ => none
  | .faultrespFail _ _ => none
  | .eventq _ _ _ => none
  | .quota _ _ _ _ _ => none
  | .cellstore _ _ _ => none
  | .regtensor _ _ => none
  | .unregtensor _ _ => none
  | .preempt _ _ => none
  | .keyset _ _ => none
  | .keyclr _ _ => none
  | .power _ _ _ => none
  | .fwload _ _ _ _ => none
  | .attest _ _ _ _ => none
  | .nvmepass _ _ _ _ => none
  | .nvmepassCompletion _ _ => none
  | .ringbind _ _ _ _ _ _ _ => none
  | .ringfree _ _ => none
  | .importBind _ _ _ _ _ => none
  | .importRemove _ _ _ => none
  | .nvmeto _ _ _ => none
  | .fabricMessageArrival _ _ => none
  | .beaconArrival _ _ _ => none
  | .unorderedArrival _ _ => none
  | .orderedDelivery => none
  | .beaconTimer _ => none
  | .timeBeacon _ => none
  | .portStall _ => none
  | .pause _ _ _ => none
  | .peerRequest _ _ _ _ _ => none
  | .portAdmit _ => none
  | .portFence _ => none
  | .fabdropClear _ => none
  | .linkdown _ => none
  | .bar2Access _ _ _ => none
  | .cxlMemAccess _ _ => none
  | .gcmdStop _ => none
  | .gcmdResume _ _ => none
  | .gcmdStep _ => none
  | .prctlClr _ _ => none
  | .groupWindowWrite _ _ _ => none
  | .traceEnable _ _ => none
  | .syncSet _ => none
  | .traceRecordWrite _ => none
  | .breakpointStop _ => none
  | .coreDump _ => none
  | .hankMirror => none
  | .thermwarn _ _ => none
  | .thermtrip _ _ => none
  | .fundamentalReset => none
  | .functionLevelReset _ => none
  | .registerWrite _ _ => none
  | .illegalWord _ => none
  | .outOfSectionFetch _ => none
  | .powerLoss => none
  | .linkTrained _ _ _ => none
  | .unusedSlot _ _ => none

/-- Whether the fields that are no register lie in the range their entry gives (R53, R57-R60, R82, R101, R114, R123, R168,
R218, R231) and a special register is one the instruction can name (R35, R36). -/
def Instr.fieldsOk : Instr → Bool
  | .nop => true
  | .exit => true
  | .trap _ => true
  | .eret => true
  | .brk _ => true
  | .mark _ => true
  | .fence o _ => o.toNat != 0
  | .fencex _ _ _ => true
  | .yield => true
  | .yieldc _ => true
  | .window _ => true
  | .donate _ _ k => 1 <= k.toNat
  | .bar _ c => 1 <= c.toNat && c.toNat <= 32
  | .bara _ _ c => 1 <= c.toNat && c.toNat <= 32
  | .barw _ _ => true
  | .waita _ _ => true
  | .wakea _ => true
  | .haltg _ => true
  | .haltgRes _ => true
  | .mbatch _ => true
  | .mwait _ => true
  | .sadd _ _ _ => true
  | .ssub _ _ _ => true
  | .smul _ _ _ => true
  | .smulh _ _ _ => true
  | .smulhu _ _ _ => true
  | .sdiv _ _ _ => true
  | .sdivu _ _ _ => true
  | .srem _ _ _ => true
  | .sremu _ _ _ => true
  | .sand _ _ _ => true
  | .sor _ _ _ => true
  | .sxor _ _ _ => true
  | .sandn _ _ _ => true
  | .sshl _ _ _ => true
  | .sshr _ _ _ => true
  | .ssra _ _ _ => true
  | .smin _ _ _ => true
  | .smax _ _ _ => true
  | .sminu _ _ _ => true
  | .smaxu _ _ _ => true
  | .scmp _ _ => true
  | .scmpu _ _ => true
  | .ssel _ _ _ => true
  | .spopc _ _ => true
  | .sclz _ _ => true
  | .sctz _ _ => true
  | .sbrev _ _ => true
  | .sbfe _ _ _ => true
  | .sbfi _ _ _ => true
  | .saddi _ _ _ => true
  | .sandi _ _ _ => true
  | .sori _ _ _ => true
  | .sxori _ _ _ => true
  | .sshli _ _ _ => true
  | .sshri _ _ _ => true
  | .ssrai _ _ _ => true
  | .scmpi _ _ => true
  | .scmpiu _ _ => true
  | .sli _ _ _ _ => true
  | .sld _ _ _ o _ _ => o.toNat != 2
  | .sst _ _ _ o _ _ => o.toNat != 1
  | .smfs _ a => specialListed a.toNat
  | .smts d _ => specialListed d.toNat && !specialReadOnly d.toNat
  | .smfk _ _ => true
  | .smtk _ _ => true
  | .b c _ => c.toNat != 15
  | .call _ => true
  | .jr _ => true
  | .callr _ => true
  | .ret => true
  | .kand _ _ _ => true
  | .kor _ _ _ => true
  | .kxor _ _ _ => true
  | .kandn _ _ _ => true
  | .knot _ _ => true
  | .kmov _ _ => true
  | .kpopc _ _ => true
  | .kffs _ _ => true
  | .kfroms _ _ _ => true
  | .ktos _ _ _ => true
  | .kall _ rb => rb.toNat <= 32
  | .wait _ _ _ _ => true
  | .vadd _ _ _ _ => true
  | .vsub _ _ _ _ => true
  | .vmul _ _ _ _ => true
  | .vmulh _ _ _ _ => true
  | .vmulhu _ _ _ _ => true
  | .vmin _ _ _ _ => true
  | .vmax _ _ _ _ => true
  | .vminu _ _ _ _ => true
  | .vmaxu _ _ _ _ => true
  | .vand _ _ _ _ => true
  | .vor _ _ _ _ => true
  | .vxor _ _ _ _ => true
  | .vandn _ _ _ _ => true
  | .vshl _ _ _ _ => true
  | .vshr _ _ _ _ => true
  | .vsra _ _ _ _ => true
  | .vbfe _ _ _ _ => true
  | .vbfeu _ _ _ _ => true
  | .vbfi _ _ _ _ => true
  | .vbrev _ _ _ => true
  | .vpopc _ _ _ => true
  | .vclz _ _ _ => true
  | .vctz _ _ _ => true
  | .vabs _ _ _ => true
  | .vaddi _ _ _ _ => true
  | .vandi _ _ _ _ => true
  | .vori _ _ _ _ => true
  | .vxori _ _ _ _ => true
  | .vshli _ _ _ _ => true
  | .vshri _ _ _ _ => true
  | .vsrai _ _ _ _ => true
  | .vfadd _ _ _ _ => true
  | .vfsub _ _ _ _ => true
  | .vfmul _ _ _ _ => true
  | .vfma _ _ _ _ => true
  | .vfms _ _ _ _ => true
  | .vfmin _ _ _ _ => true
  | .vfmax _ _ _ _ => true
  | .vfabs _ _ _ => true
  | .vfdiv _ _ _ _ => true
  | .vfsqrt _ _ _ => true
  | .vfrcp _ _ _ => true
  | .vfrsq _ _ _ => true
  | .vfexp2 _ _ _ => true
  | .vflog2 _ _ _ => true
  | .vffloor _ _ _ => true
  | .vfrint _ _ _ => true
  | .vdadd _ _ _ _ => true
  | .vdsub _ _ _ _ => true
  | .vdmul _ _ _ _ => true
  | .vdfma _ _ _ _ => true
  | .vddiv _ _ _ _ => true
  | .vdsqrt _ _ _ => true
  | .vdmin _ _ _ _ => true
  | .vdmax _ _ _ _ => true
  | .vcvt _ _ _ c => cvtListed c.toNat
  | .vceq _ _ _ _ => true
  | .vcne _ _ _ _ => true
  | .vclt _ _ _ _ => true
  | .vcle _ _ _ _ => true
  | .vcltu _ _ _ _ => true
  | .vcleu _ _ _ _ => true
  | .vfceq _ _ _ _ => true
  | .vfcne _ _ _ _ => true
  | .vfclt _ _ _ _ => true
  | .vfcle _ _ _ _ => true
  | .vfcun _ _ _ _ => true
  | .vdceq _ _ _ _ => true
  | .vdclt _ _ _ _ => true
  | .vdcle _ _ _ _ => true
  | .vshfl _ _ _ _ => true
  | .vshflx _ _ _ _ => true
  | .vshflu _ _ _ _ => true
  | .vshfld _ _ _ _ => true
  | .vbcast _ _ _ _ => true
  | .vsel _ _ _ _ => true
  | .vballot _ _ _ => true
  | .vtid _ _ => true
  | .vredadd _ _ _ => true
  | .vredmin _ _ _ => true
  | .vredmax _ _ _ => true
  | .vredminu _ _ _ => true
  | .vredmaxu _ _ _ => true
  | .vredfadd _ _ _ => true
  | .vscan _ _ _ => true
  | .vscanf _ _ _ => true
  | .vmov _ _ _ => true
  | .vmfs _ _ _ _ => true
  | .vmerge _ _ _ _ => true
  | .vld _ _ _ _ o _ _ => o.toNat != 2
  | .vldu _ _ _ _ o _ _ => o.toNat != 2
  | .vst _ _ _ _ o _ _ => o.toNat != 1
  | .vldx _ f _ _ _ => f.toNat <= 5
  | .vamoadd _ _ _ _ => true
  | .vamomin _ _ _ _ => true
  | .vamomax _ _ _ _ => true
  | .vamominu _ _ _ _ => true
  | .vamomaxu _ _ _ _ => true
  | .vamoand _ _ _ _ => true
  | .vamoor _ _ _ _ => true
  | .vamoxor _ _ _ _ => true
  | .vcas _ _ _ _ => true
  | .vxchg _ _ _ _ => true
  | .vamofadd _ _ _ _ => true
  | .vamofmin _ _ _ _ => true
  | .vamofmax _ _ _ _ => true
  | .samoadd _ _ _ => true
  | .samomin _ _ _ => true
  | .samomax _ _ _ => true
  | .samoand _ _ _ => true
  | .samoor _ _ _ => true
  | .samoxor _ _ _ => true
  | .scas _ _ _ => true
  | .sxchg _ _ _ => true
  | .tlook _ _ => true
  | .tset _ _ => true
  | .tinv _ => true
  | .tclr => true
  | .tslot _ _ => true
  | .cpy _ _ _ => true
  | .cpym _ _ _ => true
  | .cpyd _ _ _ => true
  | .cpyc _ _ _ => true
  | .cpyg _ _ _ => true
  | .cpys _ _ _ => true
  | .qinit _ rb => 1 <= rb.toNat && rb.toNat <= 63
  | .qpush _ _ => true
  | .qpop _ _ => true
  | .qpusht _ _ => true
  | .qpopt _ _ => true
  | .qallow _ rb => 1 <= rb.toNat && rb.toNat <= 63
  | .tnmov _ _ _ => true
  | .tnpin _ _ => true
  | .tnunpin _ _ => true
  | .tnevict _ _ => true
  | .tnwait _ _ => true
  | .tnstat _ _ => true
  | .tld _ _ _ => true
  | .tst _ _ _ => true
  | .tzero _ => true
  | .mma _ _ _ => true
  | .mmaz _ _ _ => true
  | .mmar _ _ _ => true
  | .accz _ => true
  | .accld _ _ _ => true
  | .draina _ _ _ => true
  | .drains _ _ _ => true
  | .trnew _ _ => true
  | .trroot _ _ _ => true
  | .trdesc _ _ => true
  | .trexp _ _ _ => true
  | .trback _ _ => true
  | .trreuse _ _ => true
  | .trfree _ _ => true
  | .trleaf _ _ _ => true
  | .trstat _ _ k => k.toNat <= 4
  | .cxnew _ _ => true
  | .cxtnew _ _ => true
  | .cxret _ => true
  | .cxset _ => true
  | .cxget _ _ => true
  | .cxpar _ _ => true
  | .osend _ _ _ => true
  | .usend _ _ _ => true
  | .orecv _ _ _ => true
  | .opeek _ _ => true
  | .ostamp _ k => k.toNat <= 2
  | .owm _ _ => true
  | .pstatr _ _ => true
  | .bwait _ _ => true
  | .btry _ _ => true
  | .pfree => true
  | .groupRetire _ => true
  | .donateTransfer _ _ => true
  | .loadCompletion _ => true
  | .storePerformed _ => true
  | .atomicCompletion _ => true
  | .hostAtomicCompletion _ _ => true
  | .hostCompletionTimeout _ => true
  | .copyCompletion _ => true
  | .engineAccept _ => true
  | .tileCompletion _ => true
  | .mmaCompletion _ => true
  | .mmarAllowance _ _ => true
  | .drainCompletion _ => true
  | .reelStep _ => true
  | .parkedReplay _ => true
  | .faultQueueRoom _ => true
  | .waitaTimeout _ => true
  | .bwaitTimeout _ => true
  | .orecvTimeout _ => true
  | .reclaimComplete _ => true
  | .moveCompletes _ _ => true
  | .moveFails _ _ => true
  | .evictionEnd _ _ => true
  | .pageReadIssue _ => true
  | .pageLanding _ _ _ => true
  | .distaffBoundExpiry _ _ _ => true
  | .nvmeReadCompletion _ _ _ _ => true
  | .nvmeTimeout _ _ => true
  | .memoryPageCopy _ _ => true
  | .placement _ _ => true
  | .activeSwap _ _ => true
  | .promotion _ => true
  | .teamSwapOut _ => true
  | .teamSwapIn _ => true
  | .timeSliceExpiry _ => true
  | .deferralLimitExpiry _ => true
  | .teamSave _ => true
  | .teamRestore _ => true
  | .quantumEnd _ => true
  | .syncOpEffect _ => true
  | .launch _ _ => true
  | .move _ _ => true
  | .copyPacket _ _ => true
  | .signal _ _ => true
  | .waitPacket _ _ => true
  | .bundle _ _ => true
  | .completionRecord _ => true
  | .createq _ _ => true
  | .resetq _ _ => true
  | .destroyq _ _ => true
  | .setasid _ _ _ _ _ => true
  | .sets2 _ _ _ _ _ => true
  | .tlbinv _ _ => true
  | .faultq _ _ _ => true
  | .faultrespReplay _ _ => true
  | .faultrespFail _ _ => true
  | .eventq _ _ _ => true
  | .quota _ _ _ _ _ => true
  | .cellstore _ _ _ => true
  | .regtensor _ _ => true
  | .unregtensor _ _ => true
  | .preempt _ _ => true
  | .keyset _ _ => true
  | .keyclr _ _ => true
  | .power _ _ _ => true
  | .fwload _ _ _ _ => true
  | .attest _ _ _ _ => true
  | .nvmepass _ _ _ _ => true
  | .nvmepassCompletion _ _ => true
  | .ringbind _ _ _ _ _ _ _ => true
  | .ringfree _ _ => true
  | .importBind _ _ _ _ _ => true
  | .importRemove _ _ _ => true
  | .nvmeto _ _ _ => true
  | .fabricMessageArrival _ _ => true
  | .beaconArrival _ _ _ => true
  | .unorderedArrival _ _ => true
  | .orderedDelivery => true
  | .beaconTimer _ => true
  | .timeBeacon _ => true
  | .portStall _ => true
  | .pause _ _ _ => true
  | .peerRequest _ _ _ _ _ => true
  | .portAdmit _ => true
  | .portFence _ => true
  | .fabdropClear _ => true
  | .linkdown _ => true
  | .bar2Access _ _ _ => true
  | .cxlMemAccess _ _ => true
  | .gcmdStop _ => true
  | .gcmdResume _ _ => true
  | .gcmdStep _ => true
  | .prctlClr _ _ => true
  | .groupWindowWrite _ _ _ => true
  | .traceEnable _ _ => true
  | .syncSet _ => true
  | .traceRecordWrite _ => true
  | .breakpointStop _ => true
  | .coreDump _ => true
  | .hankMirror => true
  | .thermwarn _ _ => true
  | .thermtrip _ _ => true
  | .fundamentalReset => true
  | .functionLevelReset _ => true
  | .registerWrite _ _ => true
  | .illegalWord _ => true
  | .outOfSectionFetch _ => true
  | .powerLoss => true
  | .linkTrained _ _ _ => true
  | .unusedSlot _ _ => true

/-- Whether the table's row is an instruction word of the opcode map (R56). -/
def Instr.isWord : Instr → Bool
  | .nop => true
  | .exit => true
  | .trap _ => true
  | .eret => true
  | .brk _ => true
  | .mark _ => true
  | .fence _ _ => true
  | .fencex _ _ _ => true
  | .yield => true
  | .yieldc _ => true
  | .window _ => true
  | .donate _ _ _ => true
  | .bar _ _ => true
  | .bara _ _ _ => true
  | .barw _ _ => true
  | .waita _ _ => true
  | .wakea _ => true
  | .haltg _ => true
  | .haltgRes _ => true
  | .mbatch _ => true
  | .mwait _ => true
  | .sadd _ _ _ => true
  | .ssub _ _ _ => true
  | .smul _ _ _ => true
  | .smulh _ _ _ => true
  | .smulhu _ _ _ => true
  | .sdiv _ _ _ => true
  | .sdivu _ _ _ => true
  | .srem _ _ _ => true
  | .sremu _ _ _ => true
  | .sand _ _ _ => true
  | .sor _ _ _ => true
  | .sxor _ _ _ => true
  | .sandn _ _ _ => true
  | .sshl _ _ _ => true
  | .sshr _ _ _ => true
  | .ssra _ _ _ => true
  | .smin _ _ _ => true
  | .smax _ _ _ => true
  | .sminu _ _ _ => true
  | .smaxu _ _ _ => true
  | .scmp _ _ => true
  | .scmpu _ _ => true
  | .ssel _ _ _ => true
  | .spopc _ _ => true
  | .sclz _ _ => true
  | .sctz _ _ => true
  | .sbrev _ _ => true
  | .sbfe _ _ _ => true
  | .sbfi _ _ _ => true
  | .saddi _ _ _ => true
  | .sandi _ _ _ => true
  | .sori _ _ _ => true
  | .sxori _ _ _ => true
  | .sshli _ _ _ => true
  | .sshri _ _ _ => true
  | .ssrai _ _ _ => true
  | .scmpi _ _ => true
  | .scmpiu _ _ => true
  | .sli _ _ _ _ => true
  | .sld _ _ _ _ _ _ => true
  | .sst _ _ _ _ _ _ => true
  | .smfs _ _ => true
  | .smts _ _ => true
  | .smfk _ _ => true
  | .smtk _ _ => true
  | .b _ _ => true
  | .call _ => true
  | .jr _ => true
  | .callr _ => true
  | .ret => true
  | .kand _ _ _ => true
  | .kor _ _ _ => true
  | .kxor _ _ _ => true
  | .kandn _ _ _ => true
  | .knot _ _ => true
  | .kmov _ _ => true
  | .kpopc _ _ => true
  | .kffs _ _ => true
  | .kfroms _ _ _ => true
  | .ktos _ _ _ => true
  | .kall _ _ => true
  | .wait _ _ _ _ => true
  | .vadd _ _ _ _ => true
  | .vsub _ _ _ _ => true
  | .vmul _ _ _ _ => true
  | .vmulh _ _ _ _ => true
  | .vmulhu _ _ _ _ => true
  | .vmin _ _ _ _ => true
  | .vmax _ _ _ _ => true
  | .vminu _ _ _ _ => true
  | .vmaxu _ _ _ _ => true
  | .vand _ _ _ _ => true
  | .vor _ _ _ _ => true
  | .vxor _ _ _ _ => true
  | .vandn _ _ _ _ => true
  | .vshl _ _ _ _ => true
  | .vshr _ _ _ _ => true
  | .vsra _ _ _ _ => true
  | .vbfe _ _ _ _ => true
  | .vbfeu _ _ _ _ => true
  | .vbfi _ _ _ _ => true
  | .vbrev _ _ _ => true
  | .vpopc _ _ _ => true
  | .vclz _ _ _ => true
  | .vctz _ _ _ => true
  | .vabs _ _ _ => true
  | .vaddi _ _ _ _ => true
  | .vandi _ _ _ _ => true
  | .vori _ _ _ _ => true
  | .vxori _ _ _ _ => true
  | .vshli _ _ _ _ => true
  | .vshri _ _ _ _ => true
  | .vsrai _ _ _ _ => true
  | .vfadd _ _ _ _ => true
  | .vfsub _ _ _ _ => true
  | .vfmul _ _ _ _ => true
  | .vfma _ _ _ _ => true
  | .vfms _ _ _ _ => true
  | .vfmin _ _ _ _ => true
  | .vfmax _ _ _ _ => true
  | .vfabs _ _ _ => true
  | .vfdiv _ _ _ _ => true
  | .vfsqrt _ _ _ => true
  | .vfrcp _ _ _ => true
  | .vfrsq _ _ _ => true
  | .vfexp2 _ _ _ => true
  | .vflog2 _ _ _ => true
  | .vffloor _ _ _ => true
  | .vfrint _ _ _ => true
  | .vdadd _ _ _ _ => true
  | .vdsub _ _ _ _ => true
  | .vdmul _ _ _ _ => true
  | .vdfma _ _ _ _ => true
  | .vddiv _ _ _ _ => true
  | .vdsqrt _ _ _ => true
  | .vdmin _ _ _ _ => true
  | .vdmax _ _ _ _ => true
  | .vcvt _ _ _ _ => true
  | .vceq _ _ _ _ => true
  | .vcne _ _ _ _ => true
  | .vclt _ _ _ _ => true
  | .vcle _ _ _ _ => true
  | .vcltu _ _ _ _ => true
  | .vcleu _ _ _ _ => true
  | .vfceq _ _ _ _ => true
  | .vfcne _ _ _ _ => true
  | .vfclt _ _ _ _ => true
  | .vfcle _ _ _ _ => true
  | .vfcun _ _ _ _ => true
  | .vdceq _ _ _ _ => true
  | .vdclt _ _ _ _ => true
  | .vdcle _ _ _ _ => true
  | .vshfl _ _ _ _ => true
  | .vshflx _ _ _ _ => true
  | .vshflu _ _ _ _ => true
  | .vshfld _ _ _ _ => true
  | .vbcast _ _ _ _ => true
  | .vsel _ _ _ _ => true
  | .vballot _ _ _ => true
  | .vtid _ _ => true
  | .vredadd _ _ _ => true
  | .vredmin _ _ _ => true
  | .vredmax _ _ _ => true
  | .vredminu _ _ _ => true
  | .vredmaxu _ _ _ => true
  | .vredfadd _ _ _ => true
  | .vscan _ _ _ => true
  | .vscanf _ _ _ => true
  | .vmov _ _ _ => true
  | .vmfs _ _ _ _ => true
  | .vmerge _ _ _ _ => true
  | .vld _ _ _ _ _ _ _ => true
  | .vldu _ _ _ _ _ _ _ => true
  | .vst _ _ _ _ _ _ _ => true
  | .vldx _ _ _ _ _ => true
  | .vamoadd _ _ _ _ => true
  | .vamomin _ _ _ _ => true
  | .vamomax _ _ _ _ => true
  | .vamominu _ _ _ _ => true
  | .vamomaxu _ _ _ _ => true
  | .vamoand _ _ _ _ => true
  | .vamoor _ _ _ _ => true
  | .vamoxor _ _ _ _ => true
  | .vcas _ _ _ _ => true
  | .vxchg _ _ _ _ => true
  | .vamofadd _ _ _ _ => true
  | .vamofmin _ _ _ _ => true
  | .vamofmax _ _ _ _ => true
  | .samoadd _ _ _ => true
  | .samomin _ _ _ => true
  | .samomax _ _ _ => true
  | .samoand _ _ _ => true
  | .samoor _ _ _ => true
  | .samoxor _ _ _ => true
  | .scas _ _ _ => true
  | .sxchg _ _ _ => true
  | .tlook _ _ => true
  | .tset _ _ => true
  | .tinv _ => true
  | .tclr => true
  | .tslot _ _ => true
  | .cpy _ _ _ => true
  | .cpym _ _ _ => true
  | .cpyd _ _ _ => true
  | .cpyc _ _ _ => true
  | .cpyg _ _ _ => true
  | .cpys _ _ _ => true
  | .qinit _ _ => true
  | .qpush _ _ => true
  | .qpop _ _ => true
  | .qpusht _ _ => true
  | .qpopt _ _ => true
  | .qallow _ _ => true
  | .tnmov _ _ _ => true
  | .tnpin _ _ => true
  | .tnunpin _ _ => true
  | .tnevict _ _ => true
  | .tnwait _ _ => true
  | .tnstat _ _ => true
  | .tld _ _ _ => true
  | .tst _ _ _ => true
  | .tzero _ => true
  | .mma _ _ _ => true
  | .mmaz _ _ _ => true
  | .mmar _ _ _ => true
  | .accz _ => true
  | .accld _ _ _ => true
  | .draina _ _ _ => true
  | .drains _ _ _ => true
  | .trnew _ _ => true
  | .trroot _ _ _ => true
  | .trdesc _ _ => true
  | .trexp _ _ _ => true
  | .trback _ _ => true
  | .trreuse _ _ => true
  | .trfree _ _ => true
  | .trleaf _ _ _ => true
  | .trstat _ _ _ => true
  | .cxnew _ _ => true
  | .cxtnew _ _ => true
  | .cxret _ => true
  | .cxset _ => true
  | .cxget _ _ => true
  | .cxpar _ _ => true
  | .osend _ _ _ => true
  | .usend _ _ _ => true
  | .orecv _ _ _ => true
  | .opeek _ _ => true
  | .ostamp _ _ => true
  | .owm _ _ => true
  | .pstatr _ _ => true
  | .bwait _ _ => true
  | .btry _ _ => true
  | .pfree => true
  | .groupRetire _ => false
  | .donateTransfer _ _ => false
  | .loadCompletion _ => false
  | .storePerformed _ => false
  | .atomicCompletion _ => false
  | .hostAtomicCompletion _ _ => false
  | .hostCompletionTimeout _ => false
  | .copyCompletion _ => false
  | .engineAccept _ => false
  | .tileCompletion _ => false
  | .mmaCompletion _ => false
  | .mmarAllowance _ _ => false
  | .drainCompletion _ => false
  | .reelStep _ => false
  | .parkedReplay _ => false
  | .faultQueueRoom _ => false
  | .waitaTimeout _ => false
  | .bwaitTimeout _ => false
  | .orecvTimeout _ => false
  | .reclaimComplete _ => false
  | .moveCompletes _ _ => false
  | .moveFails _ _ => false
  | .evictionEnd _ _ => false
  | .pageReadIssue _ => false
  | .pageLanding _ _ _ => false
  | .distaffBoundExpiry _ _ _ => false
  | .nvmeReadCompletion _ _ _ _ => false
  | .nvmeTimeout _ _ => false
  | .memoryPageCopy _ _ => false
  | .placement _ _ => false
  | .activeSwap _ _ => false
  | .promotion _ => false
  | .teamSwapOut _ => false
  | .teamSwapIn _ => false
  | .timeSliceExpiry _ => false
  | .deferralLimitExpiry _ => false
  | .teamSave _ => false
  | .teamRestore _ => false
  | .quantumEnd _ => false
  | .syncOpEffect _ => false
  | .launch _ _ => false
  | .move _ _ => false
  | .copyPacket _ _ => false
  | .signal _ _ => false
  | .waitPacket _ _ => false
  | .bundle _ _ => false
  | .completionRecord _ => false
  | .createq _ _ => false
  | .resetq _ _ => false
  | .destroyq _ _ => false
  | .setasid _ _ _ _ _ => false
  | .sets2 _ _ _ _ _ => false
  | .tlbinv _ _ => false
  | .faultq _ _ _ => false
  | .faultrespReplay _ _ => false
  | .faultrespFail _ _ => false
  | .eventq _ _ _ => false
  | .quota _ _ _ _ _ => false
  | .cellstore _ _ _ => false
  | .regtensor _ _ => false
  | .unregtensor _ _ => false
  | .preempt _ _ => false
  | .keyset _ _ => false
  | .keyclr _ _ => false
  | .power _ _ _ => false
  | .fwload _ _ _ _ => false
  | .attest _ _ _ _ => false
  | .nvmepass _ _ _ _ => false
  | .nvmepassCompletion _ _ => false
  | .ringbind _ _ _ _ _ _ _ => false
  | .ringfree _ _ => false
  | .importBind _ _ _ _ _ => false
  | .importRemove _ _ _ => false
  | .nvmeto _ _ _ => false
  | .fabricMessageArrival _ _ => false
  | .beaconArrival _ _ _ => false
  | .unorderedArrival _ _ => false
  | .orderedDelivery => false
  | .beaconTimer _ => false
  | .timeBeacon _ => false
  | .portStall _ => false
  | .pause _ _ _ => false
  | .peerRequest _ _ _ _ _ => false
  | .portAdmit _ => false
  | .portFence _ => false
  | .fabdropClear _ => false
  | .linkdown _ => false
  | .bar2Access _ _ _ => false
  | .cxlMemAccess _ _ => false
  | .gcmdStop _ => false
  | .gcmdResume _ _ => false
  | .gcmdStep _ => false
  | .prctlClr _ _ => false
  | .groupWindowWrite _ _ _ => false
  | .traceEnable _ _ => false
  | .syncSet _ => false
  | .traceRecordWrite _ => false
  | .breakpointStop _ => false
  | .coreDump _ => false
  | .hankMirror => false
  | .thermwarn _ _ => false
  | .thermtrip _ _ => false
  | .fundamentalReset => false
  | .functionLevelReset _ => false
  | .registerWrite _ _ => false
  | .illegalWord _ => false
  | .outOfSectionFetch _ => false
  | .powerLoss => false
  | .linkTrained _ _ _ => false
  | .unusedSlot _ _ => false

/-- An instruction whose fields pass the checks of R63's first row. -/
def Instr.wf (i : Instr) : Bool := i.fieldsOk && i.operands.all Opnd.ok

/-- The instructions that only privileged mode may execute (R64). -/
def Instr.privileged : Instr → Bool
  | .eret => true
  | .haltg _ => true
  | .haltgRes _ => true
  | _ => false

end Sys2Proof
end

