-- ==== Sys2Proof/Machine/Ops.lean ====
section
/-! DEFINITION. What every instruction shares: retirement, stalls, taking a trap and returning from it (R46, R47, R119), the checks at
decode (R63), the interlock on registers that outstanding operations will write (R92, R126), and the order of a deterministic launch
(R325-R328). -/

namespace Sys2Proof.Machine

/-- A value put into a list in rising order of a number, before those of an equal number. -/
def insertBy {α : Type} (f : α → Nat) (a : α) : List α → List α
  | [] => [a]
  | b :: l => if f a ≤ f b then a :: b :: l else b :: insertBy f a l

/-- A list in rising order of a number; equals keep their order. -/
def sortBy {α : Type} (f : α → Nat) (l : List α) : List α := l.foldr (insertBy f) []

/-- Whether a group is in a stall. -/
def Wait.stalled : Wait → Bool
  | .stall _ => true
  | _ => false

/-- What the issuing group's instruction has taken at its decode (R28, R32): what stands in the registers, where it is decoded now. -/
def readAtDecode (s : State) : AtDecode := s.grp.decoded.getD ⟨s.team.tshape, s.team.tqueue, s.grp.gang, none⟩

/-- The shape of a tile as the issuing group's instruction has read it at its decode (R28). -/
def decodedShape (s : State) (n : Nat) : DWord := (readAtDecode s).tshape.getD n 0

/-- The queue of a tile as the issuing group's instruction has read it at its decode (R184). -/
def decodedQueue (s : State) (n : Nat) : Nat := fieldN ((readAtDecode s).tqueue.getD n 15) 0 4

/-- The GANG that the issuing group's instruction has read at its decode (R32). -/
def decodedGang (s : State) : DWord := (readAtDecode s).gang

/-- The issuing group can not go on; its instruction stays at PC and is issued again (R103). It has passed its checks at decode, and what
is written from now on decides none of them (R65). A stall counts from its first attempt (R318). -/
def stall (r : Reason) (s : State) : State :=
  onGrp (fun g => { g with
    wait := .stall r, decoded := some { readAtDecode s with reason := some r }, stallAt := if g.wait.stalled then g.stallAt else s.cycles }) s

/-- The counter that an earlier issue of this instruction raised falls when it retires (R149). -/
def finishHeld (g : Group) : Group :=
  match g.held with
  | some c => { cntDown c g with held := none }
  | none => g

/-- An error that has not been taken is no longer one for whose register the group's present instruction has waited (R179). -/
def EccDue.unnamed (e : EccDue) : EccDue := { e with reg := none }

/-- An error whose register the instruction at `pc` has waited for, while that instruction's trap is handled (R179). -/
def EccDue.inHandler (pc : DWord) (e : EccDue) : EccDue := { e with reg := none, back := e.reg.map fun r => (pc, r) }

/-- The same error once the handler has returned to `epc`: it is due there if that is the instruction that has waited (R179). -/
def EccDue.returned (epc : DWord) (e : EccDue) : EccDue := { e with reg := e.back.bind fun b => if b.1 = epc then some b.2 else none, back := none }

/-- The group after an instruction retires at `npc`, or at the address that another agent has given it meanwhile (R295): CLK counts it in user mode
(R37). An instruction that a resumed group has still to execute without a breakpoint stays so while a handler runs (R398). -/
def advance (npc : DWord) (g : Group) : Group :=
  let g := finishHeld g
  { g with
    pc := g.pcNext.getD npc
    pcNext := none
    clk := if g.priv then g.clk else g.clk + 1
    wait := .none
    replayMask := none
    park := none
    bpSkip := if g.intrap then g.bpSkip else none
    decoded := none
    eccPend := g.eccPend.map EccDue.unnamed }

/-- The handler's entry as R46 writes it. The hits of an instruction that traps are kept until its handler has ended (R293). -/
def enterHandler (cause : BitVec 8) (tval epc : DWord) (unf : Word) (replay : Bool) (g : Group) : Group :=
  { g with
    epc, tcause := cause, tval, unf, replay
    tgroup := BitVec.ofNat 5 g.key.idx
    ppriv := g.priv
    intrap := true
    priv := true
    pc := g.tvec
    wait := .none
    replayMask := none
    park := none
    heldTrap := g.held
    held := none
    heldFree := false
    pcNext := none
    bpSkip := none
    decoded := none
    eccPend := g.eccPend.map (EccDue.inHandler g.pc)
    hitsTrap := g.hits
    hits := none }

/-- Taking an exception (R46): entry to the handler, or the end of the team where there is none or it is running (R47). A stepped group
stops before the handler's first instruction (R399). -/
def takeTrap (cause : BitVec 8) (tval epc : DWord) (unf : Word) (replay : Bool) (s : State) : State :=
  if s.grp.tvec = 0 || s.grp.intrap then endTeam cause tval epc unf replay s
  else
    let s := onGrp (enterHandler cause tval epc unf replay) s
    if s.grp.stepping then stopGroup s.grp.key 3 s else s

/-- A trap whose EPC is the address of the instruction itself. -/
def trapHere (cause : BitVec 8) (tval : DWord) (unf : Word) (replay : Bool) (s : State) : State :=
  takeTrap cause tval s.grp.pc unf replay s

/-- The hits that an instruction leaves are reported once it has retired: one WATCH trap, or a stop where a watchpoint asks for it
(R293, R396); a stepped group stops (R399). -/
def afterRetire (s : State) : State :=
  match s.grp.hits with
  | some h =>
    let s := onGrp (fun g => { g with hits := none, wpHit := g.wpHit ||| h.mask }) s
    if h.stop then stopGroup s.grp.key 2 s else takeTrap 0x21 h.addr s.grp.pc 0 false s
  | none => if s.grp.stepping then stopGroup s.grp.key 3 s else s

/-- Retirement with `npc` the next instruction. -/
def retireTo (npc : DWord) (s : State) : State := afterRetire (onGrp (advance npc) s)

/-- Retirement of an instruction that does not jump. -/
def retire (s : State) : State := retireTo (s.grp.pc + 4) s

/-- The group writes registers and the instruction retires. -/
def retireWith (f : Group → Group) (s : State) : State := retire (onGrp f s)

/-- The return from a handler (R119) up to the halts that end with it: the counter of a skipped instruction falls (R149), and the hits of
the instruction that trapped are to be reported (R293). An instruction that waited for several failed loads takes the next one's error (R179). -/
def leaveHandler (g : Group) : Group :=
  let g := if g.replay then { g with held := g.heldTrap } else
    match g.heldTrap with
    | some c => cntDown c g
    | none => g
  { g with
    pc := g.epc
    priv := g.ppriv
    intrap := false
    heldTrap := none
    heldFree := false
    replayMask := if g.replay then some g.unf else none
    replay := false
    wait := .none
    park := none
    decoded := none
    eccPend := g.eccPend.map (EccDue.returned g.epc)
    hits := g.hitsTrap
    hitsTrap := none }

/-- Whether the group waits in the middle of an instruction that has taken a first effect. -/
def Wait.begun : Wait → Bool
  | .none => false
  | .stall _ => false
  | .barrier _ _ => true
  | .monitor _ _ _ => true
  | .latch => true
  | .bwait _ _ _ => true
  | .orecv _ => true
  | .donate _ _ _ => true
  | .reel _ => true
  | .hostAtomic _ => true
  | .yieldc _ => true
  | .cxret => true
  | .cxnew => true

/-- The waits that an event ends, so that issuing the instruction again does nothing (R106, R156, R187, R220); in a deterministic launch an
attempt at a latch counts in CLK (R328). -/
def Wait.onEvent : Wait → Bool
  | .latch => true
  | .reel _ => true
  | .hostAtomic _ => true
  | .yieldc _ => true
  | _ => false

/-- The deferred ECC_UNCORR of an operation, taken at an instruction that waits for it (R179). -/
def takeEcc (e : EccDue) (s : State) : State :=
  takeTrap 0x70 e.va s.grp.pc 0 false (onGrp (fun g => { g with eccPend := g.eccPend.erase e }) s)

/-- What an instruction does first that waits for the operations for which `p` holds: it takes their errors, one at a time (R179). -/
def eccFirst (p : EccDue → Bool) (s : State) (body : State → State) : State :=
  match s.grp.eccPend.find? p with
  | some e => takeEcc e s
  | none => body s

/-- A trap of an instruction that has not executed (R291, kind D): a group that resumed at it has still to execute it without a breakpoint
(R398, R401). -/
def decodeTrap (cause : BitVec 8) (tval epc : DWord) (unf : Word) (replay : Bool) (s : State) : State :=
  onGrp (fun g => { g with bpSkip := s.grp.bpSkip }) (takeTrap cause tval epc unf replay s)

/-- A decode fault: cause, TVAL, and REPLAY at entry (R63, R291). -/
structure DecodeFault where
  cause : BitVec 8
  tval : DWord
  replay : Bool
deriving DecidableEq, Repr

/-- The vector registers of the window that an operand uses (R20, R21). -/
def Opnd.names : Opnd → List Nat
  | .vs n => if n < 96 then [n] else []
  | .vs64 n => if n < 96 then [n, n + 1] else []
  | .vd n => [n]
  | .vd64 n => [n, n + 1]
  | .sd _ => []
  | .ss _ => []
  | .kd _ => []
  | .ks _ => []
  | .tile _ => []
  | .mtile _ => []
  | .acc _ => []
  | .queue _ => []

/-- R20: the register a name denotes lies in the allocation. -/
def regInRange (g : Group) (n : Nat) : Bool := decide (vreg g n < g.alloc * 16)

/-- Rows, columns and element width of a shape (R27). -/
def shapeRows (x : DWord) : Nat := fieldN x 0 6
/-- See `shapeRows`. -/
def shapeCols (x : DWord) : Nat := fieldN x 8 8
/-- See `shapeRows`. -/
def shapeEw (x : DWord) : Nat := fieldN x 16 2
/-- Bytes of an element (R27). -/
def ewBytes (ew : Nat) : Nat := if ew = 0 then 2 else if ew = 1 then 4 else 1

/-- R28: whether a shape is valid. -/
def shapeOk (x : DWord) : Bool :=
  decide (1 ≤ shapeRows x) && decide (shapeRows x ≤ 32) && decide (1 ≤ shapeCols x) && shapeEw x != 3 &&
    decide (shapeCols x * ewBytes (shapeEw x) ≤ 128)

/-- The shape register of a tile. -/
def tileShape (t : Team) (n : Nat) : DWord := t.tshape.getD n 0

/-- Whether a tile or accumulator operand raises BADTILE, with its TVAL (R28, R183). -/
def badTile (t : Team) : Opnd → Option Nat
  | .tile n => if n < t.tileWin && shapeOk (tileShape t n) then none else some n
  | .mtile n =>
    let x := tileShape t n
    if n < t.tileWin && shapeOk x && shapeEw x = 0 && shapeCols x = 64 then none else some n
  | .acc n => if n < t.accCount then none else some (0x100 + n)
  | _ => none

/-- Whether a queue operand raises BADQUEUE (R30). -/
def badQueue (t : Team) : Opnd → Option Nat
  | .queue n => if (t.queues.getD n .initial).init then none else some n
  | _ => none

/-- The members GANG names (R31). -/
def gangMembers (x : DWord) : List Nat := (List.range (fieldN x 0 3)).map fun i => fieldN x (3 + 5 * i) 5

/-- R32: whether GANG raises GANGERR for group `idx`. -/
def gangBad (t : Team) (idx : Nat) (x : DWord) : Bool :=
  let c := fieldN x 0 3
  let ms := gangMembers x
  c < 2 || 6 < c || !ms.contains idx || !decide ms.Nodup || ms.any fun m => t.ngroups ≤ m

/-- The instructions that a gang issues together (R182). -/
def gangInstr : Instr → Bool
  | .mma _ _ _ => true
  | .mmaz _ _ _ => true
  | .mmar _ _ _ => true
  | _ => false

/-- The special register an SMFS or SMTS names, and whether it writes. -/
def specialOf : Instr → Option (Nat × Bool)
  | .smfs _ a => some (a.toNat, false)
  | .smts d _ => some (d.toNat, true)
  | _ => none

/-- What the checks at decode, the interlock and TSTATUS.UNF take from an instruction: whether it is well formed, whether it is
privileged, the special register it reaches, its operands, whether it is a gang's, its guard, its word. -/
structure Checks where
  wf : Bool
  privileged : Bool
  special : Option (Nat × Bool)
  operands : List Opnd
  gang : Bool
  guard : Option (BitVec 2)
  word : Word
deriving DecidableEq, Repr

/-- The checks of an instruction. -/
def checksOf (i : Instr) : Checks := ⟨i.wf, i.privileged, specialOf i, i.operands, gangInstr i, i.guard, (encode i).getD 0⟩

/-- Whether user mode may not execute the instruction (R64), reach the special register, or write TCAUSE or TVAL (R35, R36). -/
def privFault (i : Checks) (g : Group) : Bool :=
  !g.priv && (i.privileged || (match i.special with
    | some (n, wr) => specialPrivileged n || (wr && (n = 21 || n = 22))
    | none => false))

/-- The instruction word as TVAL holds it (R63). -/
def wordVal (i : Instr) : DWord := ((encode i).getD 0).setWidth 64

/-- The checks of R63, in its order. Where the accumulator of an MMA and one of its tiles both fail BADTILE, TVAL is the accumulator's: the spec
orders tile a before tile b alone (R183; DESIGN CHOICE, log 41). -/
def decodeFault (i : Checks) (s : State) : Option DecodeFault :=
  let ops := i.operands
  if !i.wf then some ⟨0x01, i.word.setWidth 64, false⟩
  else if privFault i s.grp then some ⟨0x02, i.word.setWidth 64, false⟩
  else match (ops.flatMap Opnd.names).find? fun n => !regInRange s.grp n with
  | some n => some ⟨0x04, BitVec.ofNat 64 (vreg s.grp n), true⟩
  | none => match ops.findSome? (badTile s.team) with
  | some n => some ⟨0x05, BitVec.ofNat 64 n, true⟩
  | none => match ops.findSome? (badQueue s.team) with
  | some n => some ⟨0x06, BitVec.ofNat 64 n, true⟩
  | none =>
    if i.gang && fieldN s.grp.gang 0 3 != 0 && gangBad s.team s.grp.key.idx s.grp.gang then some ⟨0x07, s.grp.gang, true⟩
    else none

/-- LIVE & guard, as TSTATUS.UNF takes it at a decode fault (R63); a scalar-class instruction counts LIVE, also at a replay (R99). A decode
fault of VSEL takes LIVE & its guard field's mask as well, although VSEL acts on every live thread (R136): the choice of this model, log
41. -/
def unfOf (i : Checks) (g : Group) : Word :=
  match i.guard with
  | some gd => actOf g gd
  | none => g.live

/-- A register that an instruction names: `inl` a scalar, `inr` a register of the allocation. -/
def Opnd.regs (g : Group) : Opnd → List (Nat ⊕ Nat)
  | .vs n => if n < 96 then [.inr (vreg g n)] else [.inl (n - 96)]
  | .vs64 n => if n < 96 then [.inr (vreg g n), .inr (vreg g (n + 1))] else [.inl (n - 96)]
  | .vd n => [.inr (vreg g n)]
  | .vd64 n => [.inr (vreg g n), .inr (vreg g (n + 1))]
  | .sd n => [.inl n]
  | .ss n => [.inl n]
  | .kd _ => []
  | .ks _ => []
  | .tile _ => []
  | .mtile _ => []
  | .acc _ => []
  | .queue _ => []

/-- The register an outstanding operation will write, with the stall reason of an instruction that names it (R92, R126, R152, R189). -/
def OpKind.dest : OpKind → Option (List (Nat ⊕ Nat) × Reason)
  | .load d n _ _ => some (if n = 8 then [.inr d, .inr (d + 1)] else [.inr d], .load)
  | .sload d _ _ => some ([.inl d], .load)
  | .amo _ d _ => some ([.inr d], .load)
  | .samo _ d _ _ _ => some ([.inl d], .load)
  | .accld _ _ d _ => some ([.inr d], .tile)
  | _ => none

/-- Whether an operation writes its result to a register of a group: of the one that issued it, or of the one that has taken the register with a block
(R45). -/
def Op.writesFor (o : Op) (k : GKey) : Bool := match o.into with | some x => x = k | none => o.of k

/-- The outstanding operations of the issuing group. -/
def ownOps (s : State) : List Op := s.ops.filter fun o => o.of s.grp.key

/-- The stall of an instruction that names a register which an outstanding operation will write (R92, R126); one that needs the value of a
communication operation waits for its place in the order D (R326). -/
def interlock (i : Checks) (s : State) : Option Reason :=
  let rs := i.operands.flatMap (Opnd.regs s.grp)
  (s.ops.filter fun o => o.writesFor s.grp.key).findSome? fun o => match o.kind.dest with
    | some (ds, r) => if ds.any fun d => d != .inl 127 && rs.contains d then some (if o.quantum.isSome then .det else r) else none
    | none => none

/-- A replay that has nothing left to do (R119): no thread of a vector instruction's act is unfinished, or UNF is 0 for a scalar-class
instruction, whatever LIVE holds. -/
def replayEmpty (i : Checks) (g : Group) : Bool :=
  match g.replayMask with
  | some m => (match i.guard with | some gd => actOf g gd | none => m) = (0 : Word)
  | none => false

/-- The deferred ECC_UNCORR of an ACCLD whose register the issuing group's instruction has waited for (R177, R179). -/
def waitedEcc (i : Checks) (s : State) : Option EccDue :=
  let rs := i.operands.flatMap (Opnd.regs s.grp)
  s.grp.eccPend.find? fun e => match e.reg with | some r => rs.contains (.inr r) | none => false

/-- The bytes of the issuing group's register files that an instruction's operands name. -/
def regRuns (i : Checks) (g : Group) : List (Loc × Nat) :=
  (i.operands.flatMap (Opnd.regs g)).filterMap fun r => match r with
    | .inl n => if n = 127 then none else some (⟨.sfile g.key, n * 8, 0⟩, 8)
    | .inr n => some (⟨.vfile g.key, n * 128, 0⟩, 128)

/-- The uncorrectable errors in the registers that an instruction names (R257). -/
def regErrs (i : Checks) (s : State) : List Loc :=
  s.ecc.filter fun e => (regRuns i s.grp).any fun r => e.space = r.1.space && decide (r.1.off ≤ e.off) && decide (e.off < r.1.off + r.2)

/-- A cell of a register file whose error has been met holds a value that nothing fixes (R257, log 3). -/
def openReg (e : Loc) (s : State) : State :=
  match e.space with
  | .vfile _ => nextFree (onGrp (fun g => { g with vregs := mset g.vregs (e.off / 4) (Config.freeWord s.fresh) }) s)
  | .sfile _ => nextFree (onGrp (fun g => { g with sregs := mset g.sregs (e.off / 8) (Config.freeDWord s.fresh) }) s)
  | _ => s

/-- An instruction meets the uncorrectable errors in the registers that it names, as sources or as destinations, when it issues: they go into the hank,
and their data are never returned (R257). The spec gives such an error no other effect, and does not say which access of a register meets it: the choice
of this model, log 41. -/
def meetRegs (i : Checks) (s : State) : State :=
  let es := regErrs i s
  es.foldl (fun s e => openReg e (hankEcc s.grid.part e s)) { s with ecc := s.ecc.filter fun e => !es.contains e }

/-- Issues an instruction word of the issuing group: the checks at decode, the interlock with the errors that it has waited for, and then what
`body` does. A group that waits inside an instruction has passed both and goes on in `body`. -/
def issueChecked (i : Checks) (s : State) (body : State → State) : State :=
  if s.grp.phase ≠ .running then s
  else if s.grp.wait.onEvent && !(s.grid.det && s.grp.wait = .latch) then s
  else if s.grp.wait.begun then body s
  else match (if s.grp.decoded.isSome then none else decodeFault i s) with
  | some f => decodeTrap f.cause f.tval s.grp.pc (unfOf i s.grp) f.replay s
  | none => match interlock i s with
  | some r => stall r s
  | none => match waitedEcc i s with
  | some e => takeEcc e s
  | none => if replayEmpty i s.grp then retire s else body (meetRegs i s)

/-- Issues an instruction word (see `issueChecked`). -/
def issue (i : Instr) (s : State) (body : State → State) : State := issueChecked (checksOf i) s body

/-- Whether a page of a grid has no team yet and may get one (R325). -/
def PageSt.unplaced : PageSt → Bool
  | .waiting => true
  | .issued _ _ _ => true
  | .landed _ _ _ => true
  | _ => false

/-- Pages of the issuing group's launch that have no team, as clock 0 and GID (R325). -/
def unplacedClocks (s : State) : List (Nat × Nat) :=
  ((List.range s.grid.pages.length).filter fun j => match s.grid.pages[j]? with
      | some p => p.st.unplaced
      | none => false).map fun j => (0, j * 32)

/-- Whether a group still issues in its launch: it has not stopped at EXIT, and its team has not ended. -/
def goesOn (s : State) (g : Group) : Bool :=
  g.phase = .running && (match findTeam s (tkeyOf g.key) with | some t => t.phase != .ended | none => true)

/-- The other groups of the issuing group's launch that have their quantum still to end, as clock and GID; a page that has no team counts as a
group with clock 0 (R325, R326). A group that has executed EXIT, or whose team has ended, retires nothing more in its quantum. -/
def otherClocks (s : State) : List (Nat × Nat) :=
  ((allGroups s).filter fun g => g.key.launch = s.grid.id && g.key != s.grp.key && goesOn s g).map
      (fun g => (g.clk.toNat, gidOf g.key)) ++ unplacedClocks s

/-- Whether every group that R326 names has reached the quantum after `q` of group `k`, `os` the clocks of the others. -/
def quantPast (os : List (Nat × Nat)) (k : GKey) (q : Nat) : Bool :=
  os.all fun p => if p.2 < gidOf k then q < p.1 / 4096 else q ≤ p.1 / 4096

/-- Whether the whole of a group's team has stopped and is not released: its end shows when it is. -/
def lingers (s : State) (k : TKey) : Bool :=
  (match findTeam s k with | some t => t.phase != .gone | none => false) &&
    (groupsOf s k).all fun g => !goesOn s g

/-- The point at which a group that goes on no more counts as retired (R205, log 12). -/
def endPoint (s : State) (g : Group) : Nat × Nat :=
  if g.phase = .exiting && (match findTeam s (tkeyOf g.key) with | some t => t.phase != .ended | none => true) then g.endsAt else teamEnd s (tkeyOf g.key)

/-- The other unretired groups of the issuing group's launch, as clock and GID (R205, R327): one that has stopped counts with the point of its end,
also when it has retired and its team's end has still to show (log 12). -/
def unretiredClocks (s : State) : List (Nat × Nat) :=
  ((allGroups s).filter fun g => g.key.launch = s.grid.id && g.key != s.grp.key &&
      (goesOn s g || g.phase = .exiting || lingers s (tkeyOf g.key))).map
      (fun g => if goesOn s g then pointOf g else endPoint s g) ++ unplacedClocks s

/-- R327: the point at which a synchronising operation of the issuing group takes effect. -/
def syncPoint (s : State) : Bool := (unretiredClocks s).all fun p => before (pointOf s.grp) p

/-- Whether a group has retired as the issuing group sees it: in a deterministic launch, before the issuing group's point (R205, R327, log 12). -/
def seenRetired (s : State) (q : Group) : Bool :=
  (q.phase = .retired || q.phase = .absent) && (!s.grid.det || before q.endsAt (pointOf s.grp))

/-- R326: the point at which a communication operation of the issuing group in the present quantum takes effect. -/
def commPoint (s : State) : Bool :=
  quantPast (otherClocks s) s.grp.key (quantOf s.grp)

/-- R328: an attempt that ends without effect counts in CLK and is issued again. -/
def reattempt (s : State) : State := afterRetire (onGrp (fun g => advance g.pc g) s)

/-- A deterministic launch has gone on (R205). -/
def noteProgress (launch : Nat) (s : State) : State := updGrid launch (fun d => { d with progress := d.progress + 1 }) s

/-- Counts an operation of a deterministic launch whose instruction has retired. -/
def noteDone (s t : State) : State :=
  if t.grp.pc != s.grp.pc && (t.grp.clk != s.grp.clk || s.grp.priv) then noteProgress s.grid.id t else t

/-- An operation of a deterministic launch that waits for its point and has it where `ok` holds. -/
def atPoint (ok : Bool) (s : State) (body : State → State) : State :=
  if ok then noteDone s (body s) else if s.grp.wait.begun then s else stall .det s

/-- A synchronising operation (R327): in a deterministic launch it waits for its point. -/
def syncOp (s : State) (body : State → State) : State :=
  if s.grid.det then atPoint (syncPoint s) s body else body s

/-- Whether no operation of the launch that comes before the issuing group's next one in the order D still waits for its commit (R253,
R326): none of an earlier quantum, none in this one of the group itself or of a lower GID. -/
def noneEarlier (s : State) : Bool :=
  s.ops.all fun o => match o.owner, o.quantum with
    | .group k, some q => k.launch != s.grid.id || decide (quantOf s.grp < q) || (q = quantOf s.grp && decide (gidOf s.grp.key < gidOf k))
    | _, _ => true

/-- Whether every operation earlier in D than the issuing group's next one has been performed (R253, R326). -/
def commReady (s : State) : Bool := commPoint s && noneEarlier s

/-- A communication operation whose value the group needs at once (R326): every operation earlier in D is performed first. -/
def commOp (s : State) (body : State → State) : State :=
  if s.grid.det then atPoint (commReady s) s body else body s

/-- Whether a synchronising or communication operation that has its point must still wait, with reason DET, to access a deterministic region: for its
place in D (R253, R326). -/
def regionWaits (s : State) (dt : Bool) : Bool := s.grid.det && dt && !commReady s

/-- The condition of an instruction is not met: it stalls, or in a deterministic launch its attempt ends (R328). -/
def unmet (r : Reason) (s : State) : State := if s.grid.det then reattempt s else stall r s

/-- A condition is not met after the instruction has taken a first effect: the group waits on, and in a deterministic launch the attempt
counts in CLK (R328). -/
def waitOn (w : Wait) (s : State) : State :=
  onGrp (fun g => { g with wait := w, clk := if s.grid.det && !g.priv then g.clk + 1 else g.clk }) s

/-- How many operations of the group's present quantum that have raised S wait, or have waited, for a commit. -/
def Group.commS (g : Group) : Nat := if g.comm .store || g.comm .atomic || g.comm .drain then g.commCnt else 0

/-- Whether a deterministic launch counts the attempts of the issuing group: not in privileged mode, where CLK stands (R37). -/
def counts (s : State) : Bool := s.grid.det && !s.grp.priv

/-- What an instruction does that waits for the group's own operations of some kinds. A deterministic launch holds no clock still for the commit of one of
the present quantum, which waits for others (R328): the attempt ends without effect, whether or not the commit has come, so that the number of attempts is
the same on every run (R329, log 12). -/
def awaitOwn (ks : List CommKind) (s : State) (body : State → State) : State :=
  if counts s && ks.any s.grp.comm then reattempt s else body s

/-- The same for an instruction that waits until S has come down to `n`. -/
def awaitS (n : Nat) (s : State) (body : State → State) : State :=
  if counts s && decide (n < s.grp.commS) then reattempt s else body s

/-- Parks the issuing group with a mask of unfinished threads (R149, R290); the faults are reported, and the group leaves its lane's
sets (R315). The instruction joins a record once: not for a second thread, nor again at a replay (R289). Its replay is no second decode (R65,
log 41). -/
def parkWith (mask : Word) (rs : List (Nat × FaultRec)) (s : State) : State :=
  let old := (s.grp.park.map fun p => p.recs.map (·.2.1)).getD []
  let (s, ids) := rs.foldl (fun (p : State × List (Nat × Nat × DWord)) r =>
    let q := reportOnce (old ++ p.2.map (·.2.1)) r.2 p.1
    (q.1, p.2 ++ [(r.1, q.2, r.2.va)])) (s, [])
  onGrp (fun g => { g with
    park := some ⟨mask, ids, [], false⟩
    wait := .stall .pagefault
    decoded := some (readAtDecode s)
    replayMask := none
    set := .suspended }) s

/-- Whether an operation is on the VEC path, and whether it is a load (R242). -/
def OpKind.vec : OpKind → Option Bool
  | .load _ _ _ _ => some true
  | .sload _ _ _ => some true
  | .store _ _ _ => some false
  | _ => none

/-- Whether an operation is a word atomic (R242). -/
def OpKind.atomic : OpKind → Bool
  | .amo _ _ _ => true
  | .samo _ _ _ _ _ => true
  | _ => false

/-- The stall of an instruction that waits for the group's earlier loads, where `loads`, stores, where `stores`, and word atomics
(R110, R115, R244). -/
def vecPending (loads stores : Bool) (s : State) : Option Reason :=
  let os := ownOps s
  if loads && os.any fun o => o.kind.vec = some true then some .load
  else if os.any fun o => (stores && o.kind.vec = some false) || o.kind.atomic then some .store
  else none

/-- Runs `f` with group `k` as the issuing one. -/
def asGroup (k : GKey) (f : State → State) (s : State) : State := checkout s.grp.key (f (checkout k s))

/-- The path of an operation (R242). -/
def OpKind.path : OpKind → Nat
  | .load _ _ _ _ => 0
  | .sload _ _ _ => 0
  | .store _ _ _ => 0
  | .copy _ => 1
  | .tld _ _ _ => 2
  | .tst _ _ _ => 2
  | .tzero _ => 2
  | .accz _ => 2
  | .accld _ _ _ _ => 2
  | .mma _ _ _ _ _ _ _ _ => 2
  | .amo _ _ _ => 3
  | .samo _ _ _ _ _ => 3
  | .drain _ _ _ _ _ _ => 3
  | .reel _ _ _ => 4

/-- The bytes of memory that an operation of the VEC, the MTX or the DRAIN path touches. -/
def OpKind.spans : OpKind → List (Loc × Nat)
  | .load _ n _ accs => accs.map fun a => (a.loc, n)
  | .sload _ n a => [(a.loc, n)]
  | .store n accs _ => accs.map fun a => (a.1.loc, n)
  | .amo _ _ accs => accs.map fun a => (a.1.loc, 4)
  | .samo _ _ a _ _ => [(a.loc, 8)]
  | .drain _ _ _ _ elems _ => elems.map fun e => (e.loc, 4)
  | .tld _ _ rows => rows.flatten.map fun p => (p.loc, p.len)
  | .tst _ _ rows => rows.flatten.map fun p => (p.loc, p.len)
  | _ => []

/-- Whether an operation writes the bytes of its spans. -/
def OpKind.writes : OpKind → Bool
  | .store _ _ _ => true
  | .amo _ _ _ => true
  | .samo _ _ _ _ _ => true
  | .drain _ _ _ _ _ _ => true
  | .tst _ _ _ => true
  | _ => false

/-- The bytes that an access touches: a write in a tag that has no cell yet for a granule also reads the whole granule where an ancestor has it
(R214, R251). -/
def touched (s : State) (wr : Bool) (p : Loc × Nat) : Loc × Nat :=
  match p.1.space with
  | .ctx _ n =>
    if wr && (granules p.1 p.2).any fun g => (findCell s n g).isNone then ({ p.1 with off := p.1.off / 64 * 64 }, (granules p.1 p.2).length * 64) else p
  | _ => p

/-- The bytes of memory that an operation's accesses touch. -/
def OpKind.reach (s : State) (k : OpKind) : List (Loc × Nat) := k.spans.map (touched s k.writes)

/-- The storage of a byte, the context tags of one byte of memory taken together: a read in a tag may reach an ancestor's location
(R146). -/
def Space.base : Space → Space
  | .ctx _ _ => .phys
  | .zeroSlot c n => .slot c n
  | x => x

/-- Whether two runs of bytes may name one location. -/
def mayMeet (p q : Loc × Nat) : Bool :=
  p.1.space.base = q.1.space.base && decide (p.1.off < q.1.off + q.2) && decide (q.1.off < p.1.off + p.2)

/-- Whether operation `e`, issued earlier by the same agent, must be performed before `o` is: `e` is an acquire, or `o` a release that
covers it, or both are on one path and may name one location; copies of one agent are performed in the order of their issue (R241, R242,
R244, log 8). -/
def orderedBefore (s : State) (e o : Op) : Bool :=
  e.acq || (o.rel && (e.kind.vec.isSome || e.kind.atomic)) ||
    (e.kind.path = o.kind.path && (o.kind.path = 1 || (e.kind.reach s).any fun p => (o.kind.reach s).any fun q => mayMeet p q))

/-- The groups of its team that take part in an operation, by index: the members of a gang operation, else the group that issued it. -/
def Op.parts (o : Op) : List Nat :=
  match o.kind, o.owner with
  | .mma _ _ _ _ _ ms _ _, _ => ms.map (·.1)
  | _, .group k => [k.idx]
  | _, _ => []

/-- Whether an operation was issued by a group that takes part in a gang operation, and must be performed before its later accesses (R244). -/
def acquiredBy (e o : Op) : Bool :=
  match e.owner, o.owner with
  | .group k, .group l => e.acq && tkeyOf k = tkeyOf l && o.parts.contains k.idx
  | _, _ => false

/-- Whether the MTX accesses of an operation of another group come before those of `o`, on one location (R246). -/
def gangBefore (s : State) (e o : Op) : Bool :=
  o.after.contains e.id && (e.kind.reach s).any fun p => (o.kind.reach s).any fun q => mayMeet p q

/-- The outstanding operations that must be performed before `o`. -/
def blockers (s : State) (o : Op) : List Op :=
  (s.ops.takeWhile fun e => e.id != o.id).filter fun e => (e.owner = o.owner && orderedBefore s e o) || acquiredBy e o || gangBefore s e o

/-- The stall reason of an instruction that waits for an operation. -/
def OpKind.reason (k : OpKind) : Reason :=
  match k.path with
  | 0 => if k.vec = some true then .load else .store
  | 1 => .copy
  | 2 => .tile
  | 3 => .store
  | _ => .reel

/-- The operation that the issuing group would add. `comm` marks a communication operation (R253). -/
def newOp (s : State) (kind : OpKind) (acq rel : Bool) (host : Option HostFails) (comm : Bool) : Op :=
  ⟨s.nextOp, .group s.grp.key, s.grp.ctx, kind, acq, rel, host, none, if s.grid.det && comm then some (quantOf s.grp) else none, [], none, 0,
    if kind.path = 2 then s.grp.mtxAfter else [], [], none, s.now⟩

/-- Whether an operation has an access to a peer that can not be sent because of a pause (R338). The requests of an operation leave in the
step that issues it; a copy's leave as the engine comes to them (log 18). -/
def OpKind.paused (s : State) (k : OpKind) : Bool := k.spans.any fun p => linkPaused s p.1

/-- The stall of an instruction that performs such an operation at its issue. -/
def nowBlocked (s : State) (kind : OpKind) (rel : Bool) : Option Reason :=
  if kind.paused s then some .fabric else (blockers s (newOp s kind false rel none false)).head?.map fun o => o.kind.reason

/-- An access that is made at issue, on whatever path, waits for the group's earlier acquires (R243, R244). -/
def acquired (s : State) (body : State → State) : State :=
  match (ownOps s).find? fun o => o.acq with
  | some o => stall o.kind.reason s
  | none => body s

/-- The kind of an operation that waits for a commit. -/
def OpKind.comm (k : OpKind) : CommKind := if k.atomic then .atomic else if k.vec.isSome then .store else .drain

/-- A group has an operation of a kind whose commit comes with its present quantum (R253). -/
def noteKind (k : CommKind) (g : Group) : Group := { g with commAt := (g.commAt.filter fun p => p.1 ≠ k) ++ [(k, quantOf g)] }

/-- A group has such an operation that has raised S. -/
def noteComm (comm det : Bool) (kind : OpKind) (g : Group) : Group :=
  if comm && det then { noteKind kind.comm g with commCnt := g.commS + 1 } else g

/-- Adds an outstanding operation of the issuing group. -/
def addOp (kind : OpKind) (acq rel : Bool) (host : Option HostFails) (comm : Bool) (s : State) : State :=
  { s with ops := s.ops ++ [newOp s kind acq rel host comm], nextOp := s.nextOp + 1, grp := noteComm comm s.grid.det kind s.grp }

/-- The stall of an instruction whose class counter stands at 63 (R33); a replay has raised it already (R149). -/
def cntFull (c : CntClass) (s : State) : Option Reason :=
  if s.grp.held != some c && s.grp.cnt c = 63 then some c.reason else none

/-- An instruction that raises a counter waits while it stands at 63 (R33). -/
def withRoom (c : CntClass) (s : State) (body : State → State) : State :=
  if c = .store && s.grp.held != some .store && counts s && decide (63 ≤ s.grp.commS) then reattempt s
  else match cntFull c s with
  | some r => stall r s
  | none => body s

/-- The counter rises for the operation of an instruction that retires: it takes over the count that an earlier issue of the instruction
has raised (R104, R149). -/
def takeCnt (c : CntClass) (g : Group) : Group := if g.held = some c then { g with held := none } else cntUp c g

/-- The counter rises for an instruction that parks or traps with threads unfinished (R149). -/
def holdCnt (c : CntClass) (g : Group) : Group := if g.held = some c then g else { cntUp c (finishHeld g) with held := some c }

/-- A group in YIELDC goes on once OCNT.C has come down to its bound: it resumes at PC + 4, ahead of the pending groups of its lane (R106,
R320). -/
def copyWake (k : GKey) (s : State) : State :=
  match findGroup s k with
  | some g =>
    match g.wait with
    | .yieldc n => if g.cntC ≤ n && g.phase = .running && teamRuns s k then toFront k (asGroup k retire s) else s
    | _ => s
  | none => s

/-- Ends an operation of a group: its counter falls, and the group's team is released if it had ended and this was its last. -/
def endOp (o : Op) (c : CntClass) (s : State) : State :=
  let s := dropOp o.id s
  match o.owner with
  | .group k => endedRelease (tkeyOf k) (copyWake k (updGroup k (cntDown c) s))
  | .packet _ => s

end Sys2Proof.Machine
end

