-- ==== Sys2Proof/Machine/Operands.lean ====
section
/-! DEFINITION. The operand forms: the instructions that compute from scalars, from masks and thread by thread from vector registers,
written once over the function each computes (R22, R55, R93, R96, R101, R124). -/

namespace Sys2Proof.Machine

/-- What a meaning answers. -/
abbrev Res := Host.Outcome State Fault Refusal

/-- An instruction word whose effect is a change of the issuing group's registers. -/
def regInstr (i : Instr) (f : Group → Group) (s : State) : Res := .next (issue i s (retireWith f))

/-- `s[d] ← f (s[a], s[b])` (R93). -/
def sBin (i : Instr) (d a rb : BitVec 7) (f : DWord → DWord → DWord) (s : State) : Res :=
  regInstr i (fun g => setS d.toNat (f (getS g a.toNat) (getS g rb.toNat)) g) s

/-- `s[d] ← f (s[d], s[a], s[b])` (R93). -/
def sTern (i : Instr) (d a rb : BitVec 7) (f : DWord → DWord → DWord → DWord) (s : State) : Res :=
  regInstr i (fun g => setS d.toNat (f (getS g d.toNat) (getS g a.toNat) (getS g rb.toNat)) g) s

/-- `s[d] ← f (s[a])` (R93, R96). -/
def sUn (i : Instr) (d a : BitVec 7) (f : DWord → DWord) (s : State) : Res :=
  regInstr i (fun g => setS d.toNat (f (getS g a.toNat)) g) s

/-- `k[d] ← f (k[a], k[b])` (R101). -/
def kBin (i : Instr) (d a rb : BitVec 3) (f : Word → Word → Word) (s : State) : Res :=
  regInstr i (fun g => setK d.toNat (f (getK g a.toNat) (getK g rb.toNat)) g) s

/-- Writes element `t` for the threads listed: `v[d][t] ← f t`, the values read before any is written (R124). -/
def writeV (d : Nat) (ts : List Nat) (f : Nat → Word) (g : Group) : Group :=
  (ts.map fun t => (t, f t)).foldl (fun g p => setV d p.1 p.2 g) g

/-- The same for a pair of registers (R21). -/
def writeV64 (d : Nat) (ts : List Nat) (f : Nat → DWord) (g : Group) : Group :=
  (ts.map fun t => (t, f t)).foldl (fun g p => setV64 d p.1 p.2 g) g

/-- `v[d][t] ← f t` for the acting threads; `f` sees the group before the instruction (R124). -/
def vMap (i : Instr) (gd : BitVec 2) (d : Nat) (f : Group → Nat → Word) (s : State) : Res :=
  regInstr i (fun g => writeV d (threads (actOf g gd)) (f g) g) s

/-- The same for a 64-bit destination. -/
def vMap64 (i : Instr) (gd : BitVec 2) (d : Nat) (f : Group → Nat → DWord) (s : State) : Res :=
  regInstr i (fun g => writeV64 d (threads (actOf g gd)) (f g) g) s

/-- `v[d][t] ← f (a, b)`. -/
def vBin (i : Instr) (gd : BitVec 2) (d a rb : BitVec 7) (f : Word → Word → Word) (s : State) : Res :=
  vMap i gd d.toNat (fun g t => f (opnd32 g a.toNat t) (opnd32 g rb.toNat t)) s

/-- `v[d][t] ← f (a)`. -/
def vUn (i : Instr) (gd : BitVec 2) (d a : BitVec 7) (f : Word → Word) (s : State) : Res :=
  vMap i gd d.toNat (fun g t => f (opnd32 g a.toNat t)) s

/-- `v[d][t] ← f (v[d][t], a, b)`. -/
def vTern (i : Instr) (gd : BitVec 2) (d a rb : BitVec 7) (f : Word → Word → Word → Word) (s : State) : Res :=
  vMap i gd d.toNat (fun g t => f (getV g d.toNat t) (opnd32 g a.toNat t) (opnd32 g rb.toNat t)) s

/-- A compare writes the whole mask: the result for an acting thread, 0 for every other (R133). -/
def vCmp (i : Instr) (gd : BitVec 2) (d : BitVec 3) (f : Group → Nat → Bool) (s : State) : Res :=
  regInstr i (fun g => let act := actOf g gd
    setK d.toNat (threadMask fun t => tbit act t && f g t) g) s

/-- FPCTL.FTZ (R39). -/
def ftzOf (g : Group) : Bool := tbit g.fpctl 2

/-- FPCTL.rm (R39). -/
def rmOf (g : Group) : BitVec 2 := g.fpctl.extractLsb' 0 2

/-- An FP32 operand, a subnormal flushed under FTZ (R69). -/
def f32 (g : Group) (x : Word) : FVal := ofBits fp32 (ftzOf g) x.toNat

/-- An FP64 operand. -/
def f64 (g : Group) (x : DWord) : FVal := ofBits fp64 (ftzOf g) x.toNat

/-- FP32 bits. -/
def w32 (n : Nat) : Word := BitVec.ofNat 32 n

/-- FP64 bits. -/
def w64 (n : Nat) : DWord := BitVec.ofNat 64 n

/-- `v[d][t] ← f (v[d][t], a, b)` on FP32 values, the result given as bits. -/
def vfOp (i : Instr) (gd : BitVec 2) (d a rb : BitVec 7) (f : Group → FVal → FVal → FVal → Nat) (s : State) : Res :=
  vMap i gd d.toNat (fun g t => w32 (f g (f32 g (getV g d.toNat t)) (f32 g (opnd32 g a.toNat t)) (f32 g (opnd32 g rb.toNat t)))) s

/-- The same on one FP32 source. -/
def vfUn (i : Instr) (gd : BitVec 2) (d a : BitVec 7) (f : Group → FVal → Nat) (s : State) : Res :=
  vMap i gd d.toNat (fun g t => w32 (f g (f32 g (opnd32 g a.toNat t)))) s

/-- The same on FP64 values. -/
def vdOp (i : Instr) (gd : BitVec 2) (d a rb : BitVec 7) (f : Group → FVal → FVal → FVal → Nat) (s : State) : Res :=
  vMap64 i gd d.toNat (fun g t => w64 (f g (f64 g (getV64 g d.toNat t)) (f64 g (opnd64 g a.toNat t)) (f64 g (opnd64 g rb.toNat t)))) s

/-- An FP32 compare. -/
def vfCmp (i : Instr) (gd : BitVec 2) (d : BitVec 3) (a rb : BitVec 7) (p : Option Ordering → Bool) (s : State) : Res :=
  vCmp i gd d (fun g t => p (fcmp (f32 g (opnd32 g a.toNat t)) (f32 g (opnd32 g rb.toNat t)))) s

/-- An FP64 compare. -/
def vdCmp (i : Instr) (gd : BitVec 2) (d : BitVec 3) (a rb : BitVec 7) (p : Option Ordering → Bool) (s : State) : Res :=
  vCmp i gd d (fun g t => p (fcmp (f64 g (opnd64 g a.toNat t)) (f64 g (opnd64 g rb.toNat t)))) s

end Sys2Proof.Machine
end

