-- ==== Sys2Proof/Machine/Special.lean ====
section
/-! DEFINITION. The special registers (R35-R41): their values, their writes, and the redirection of a handler's accesses to another
group of its team (R294-R296). -/

namespace Sys2Proof.Machine

/-- OCNT (R33). -/
def ocntOf (g : Group) : DWord := BitVec.ofNat 64 (g.cntL + g.cntS * 2 ^ 6 + g.cntC * 2 ^ 12 + g.cntT * 2 ^ 18)

/-- TSTATUS (R40) of its fields. -/
def tstatusBits (unf : Word) (tgroup : BitVec 5) (replay ppriv intrap : Bool) : DWord :=
  BitVec.ofNat 64 (bitOf intrap + bitOf ppriv * 2 + bitOf replay * 4 + tgroup.toNat * 2 ^ 8 + unf.toNat * 2 ^ 32)

/-- The landing slot's address, 0 once the slot has been freed (R35, R144). -/
def landingOf (t : Team) : DWord :=
  if t.slotFreed then 0 else BitVec.ofNat 64 (0x01E0400000000000 + t.slot * 0x4000)

/-- A special register of group `g`, which may be the target of a handler; `tg` is the issuer's TGROUP (R35, R294, R295). A target that waits
inside an instruction it has begun shows that instruction's own address as EPC: the choice of this model, log 30. -/
def specialVal (s : State) (g : Group) (tg : BitVec 5) (n : Nat) : DWord :=
  match n with
  | 0 => BitVec.ofNat 64 (gidOf g.key)
  | 1 => BitVec.ofNat 64 s.team.key.team
  | 2 => BitVec.ofNat 64 (spindleFmt s.team.spindle)
  | 3 => BitVec.ofNat 64 (g.laneSlot * 32 + g.quad * 8 + g.laneInQuad)
  | 4 => g.role.setWidth 64
  | 5 => s.team.pgidx.setWidth 64
  | 6 => s.team.pstat.setWidth 64
  | 7 => landingOf s.team
  | 8 => g.ctx.setWidth 64
  | 9 => g.winbase.setWidth 64
  | 10 => BitVec.ofNat 64 g.alloc
  | 11 => g.gang
  | 12 => g.fpctl.setWidth 64
  | 13 => g.cc.bits
  | 14 => g.live.setWidth 64
  | 15 => ocntOf g
  | 16 => g.clk
  | 17 => if s.grid.det then BitVec.ofNat 64 (quantOf g) else 0
  | 18 => BitVec.ofNat 64 (bitOf s.grid.det)
  | 19 => if s.grid.det then g.clk else BitVec.ofNat 64 s.now
  | 20 => g.tvec
  | 21 => g.tcause.setWidth 64
  | 22 => g.tval
  | 23 => if g.intrap then g.epc else if g.key = s.grp.key then g.epc else g.pcNext.getD g.pc
  | 24 =>
    match (if g.key = s.grp.key || g.intrap then none else g.park) with
    | some p => tstatusBits p.mask tg true g.ppriv false
    | none => tstatusBits g.unf tg g.replay g.ppriv g.intrap
  | 25 => g.bwto.setWidth 64
  | 26 => BitVec.ofNat 64 (g.wpHit.toNat * 256 + g.wpEn.toNat)
  | n =>
    if 32 ≤ n && n < 48 then s.team.tshape.getD (n - 32) 0
    else if 48 ≤ n && n < 64 then s.team.tqueue.getD (n - 48) 0
    else 0

/-- The registers that a handler's SMFS and SMTS reach in the group TGROUP names (R294). -/
def redirected (n : Nat) : Bool := [11, 12, 13, 14, 25, 8, 9, 10, 15, 16, 20, 21, 22, 23, 24, 26].contains n

/-- The group that a handler's access concerns: the one TGROUP names in privileged mode with INTRAP = 1, else the issuer (R294). -/
def targetKey (s : State) : GKey :=
  let g := s.grp
  if g.priv && g.intrap && g.tgroup.toNat != g.key.idx then { g.key with idx := g.tgroup.toNat } else g.key

/-- The group of `targetKey`. -/
def targetGroup (s : State) : Group := (findGroup s (targetKey s)).getD s.grp

/-- A group abandons the instruction it is parked in: its unfinished threads do not access, the counter that its issue raised falls, and it goes on
where its EPC says (R295, R149). -/
def abandon (g : Group) : Group :=
  if g.park.isSome then
    { finishHeld g with park := none, replayMask := none, wait := .none, decoded := none, pc := g.pcNext.getD g.pc, pcNext := none }
  else g

/-- Another agent writes the address of a group's next instruction (R295, R400): the instruction there is decoded afresh. A parked instruction, or one
that has taken a first effect and waits, is finished first, since its replay and its wait proceed (R121); what the write does to such a group, and that the
address which EPC reads there, the instruction's own, written back changes nothing, are the choice of this model, log 30. -/
def redirect (v : DWord) (g : Group) : Group :=
  if g.wait.begun || g.park.isSome then { g with pcNext := if v = g.pc then none else some v }
  else { g with pc := v, wait := .none, decoded := none, eccPend := g.eccPend.map EccDue.unnamed }

/-- The issuing group issues nothing more, as at EXIT (R24, R117). -/
def leaveIssue (s : State) : State := onGrp (fun g => { g with phase := .exiting, wait := .none, decoded := none, stallAt := s.cycles }) s

/-- LIVE ← LIVE & value; a group left without a live thread retires as at EXIT (R24, R100), and a parked instruction of it is abandoned (R295).
`now` is false for a handler's target, which retires when it resumes. -/
def clearLive (now : Bool) (v : Word) (g : Group) : Group :=
  let l := g.live &&& v
  if l = 0 then { abandon g with live := l, phase := if now && g.phase = .running then .exiting else g.phase } else { g with live := l }

/-- A write of TSTATUS to a parked group: UNF narrows the replay, one that has begun too, and REPLAY = 0 abandons the instruction (R295). -/
def writeParked (p : Park) (v : DWord) (g : Group) : Group :=
  let unf := v.extractLsb' 32 32
  if tbit v 2 then { g with park := some { p with mask := p.mask &&& unf }, replayMask := g.replayMask.map fun m => m &&& unf } else abandon g

/-- The write of a group-owned special register of the issuer or of a target (R36, R294-R296). `own` holds where the issuer writes its
own, and for a debugger's write. TGROUP is not among these. A handler's write of TSTATUS to a parked target acts by UNF and REPLAY alone; that PPRIV and
INTRAP are ignored there is the choice of this model, log 41. A debugger's write of EPC or TSTATUS reaches what the window shows of a parked group (R405),
and PPRIV and INTRAP as well: the choice of this model, log 30. -/
def writeSpecial (own : Bool) (n : Nat) (v : DWord) (g : Group) : Group :=
  match n with
  | 11 => { g with gang := v &&& 0x1FFFFFFFF }
  | 12 => { g with fpctl := v.extractLsb' 0 3 }
  | 13 => { g with cc := ccOf v }
  | 14 => clearLive own (v.extractLsb' 0 32) g
  | 20 => { g with tvec := v &&& ~~~3 }
  | 21 =>
    if own || g.intrap then { g with tcause := v.extractLsb' 0 8 }
    else { g with posted := some (v.extractLsb' 0 8, g.tval) }
  | 22 => { g with tval := v, posted := g.posted.map fun p => (p.1, v) }
  | 23 =>
    let v := v &&& ~~~3
    if (if own then g.park.isNone else g.intrap) then { g with epc := v } else redirect v g
  | 24 =>
    let unf := v.extractLsb' 32 32
    match (if !own && g.intrap then none else g.park) with
    | some p => writeParked p v (if own then { g with ppriv := tbit v 1, intrap := tbit v 0 } else g)
    | none => { g with unf, replay := tbit v 2, ppriv := tbit v 1, intrap := tbit v 0 }
  | 25 => { g with bwto := if v.extractLsb' 0 32 = 0 then 1 else v.extractLsb' 0 32 }
  | 26 => { g with wpHit := g.wpHit &&& ~~~(v.extractLsb' 8 8), wpEn := v.extractLsb' 0 8 }
  | _ => g

/-- The write of a team-owned special register (R27, R30, R36). -/
def writeTeamSpecial (n : Nat) (v : DWord) (t : Team) : Team :=
  if 32 ≤ n && n < 48 then { t with tshape := t.tshape.set (n - 32) (v &&& 0x3FF3F) }
  else if 48 ≤ n && n < 64 then { t with tqueue := t.tqueue.set (n - 48) (v &&& 0xF) }
  else t

/-- R294: TGROUP stores the issuer's own index or a group that the issuer holds halted; any other value stores the own index. -/
def storeTgroup (v : DWord) (s : State) : State :=
  let x := fieldN v 8 5
  let held := match findGroup s { s.grp.key with idx := x } with
    | some g => g.haltedBy.contains s.grp.key.idx
    | none => false
  onGrp (fun g => { g with tgroup := BitVec.ofNat 5 (if held then x else g.key.idx) }) s

/-- A group whose next instruction another agent has named no longer stalls where it did: one that this has suspended returns to its lane (R171, R315). -/
def unsuspendMoved (k : GKey) (s : State) : State :=
  if (findGroup s k).any fun g => g.park.isNone && g.wait = .none then unsuspend k s else s

/-- `redirect` on a group of the state. -/
def redirectGroup (k : GKey) (v : DWord) (s : State) : State := unsuspendMoved k (updGroup k (redirect (v &&& ~~~3)) s)

/-- SMTS (R36, R294). -/
def smtsEffect (n : Nat) (v : DWord) (s : State) : State :=
  if 32 ≤ n then onTeam (writeTeamSpecial n v) s
  else
    let k := targetKey s
    let own := k = s.grp.key
    let s1 := if own then onGrp (writeSpecial true n v) s
      else
        unsuspendMoved k (updGroup k (writeSpecial false n v) s)
    if n = 24 then storeTgroup v s1 else s1

end Sys2Proof.Machine
end

