-- ==== Sys2Proof/Machine/Control.lean ====
section
/-! DEFINITION. Control flow, waiting, window, donation, barriers, monitors, fences, traps and halts (R61, R62, R102-R123). -/

namespace Sys2Proof.Machine

/-- A signed word offset in bytes (R61). -/
def wordOff {w : Nat} (f : BitVec w) : DWord := sx f <<< 2

/-- B (R61, R102). -/
def execB (c : BitVec 5) (f : BitVec 21) (s : State) : Res :=
  .next (issue (.b c f) s fun s =>
    retireTo (if condHolds s.grp c.toNat then s.grp.pc + wordOff f else s.grp.pc + 4) s)

/-- CALL: LR ← PC + 4 (R62). -/
def execCall (f : BitVec 26) (s : State) : Res :=
  .next (issue (.call f) s fun s => retireTo (s.grp.pc + wordOff f) (onGrp (setS 126 (s.grp.pc + 4)) s))

/-- A jump to a register's value: ALIGN where it is no multiple of 4, with nothing changed (R62, R102); `link` writes LR. -/
def jumpTo (tgt : DWord) (link : Bool) (s : State) : State :=
  if fieldN tgt 0 2 != 0 then trapHere 0x03 tgt s.grp.live false s
  else retireTo tgt (if link then onGrp (setS 126 (s.grp.pc + 4)) s else s)

/-- JR (R102). -/
def execJr (a : BitVec 7) (s : State) : Res := .next (issue (.jr a) s fun s => jumpTo (getS s.grp a.toNat) false s)

/-- CALLR: the target is read before LR is written (R102). -/
def execCallr (a : BitVec 7) (s : State) : Res := .next (issue (.callr a) s fun s => jumpTo (getS s.grp a.toNat) true s)

/-- RET (R102). -/
def execRet (s : State) : Res := .next (issue .ret s fun s => jumpTo (getS s.grp 126) false s)

/-- WAIT (R103, R179): it waits for the operations of a class that it bounds. -/
def execWait (l sc c t : BitVec 6) (s : State) : Res :=
  .next (issue (.wait l sc c t) s fun s =>
    awaitS sc.toNat s fun s => match overBound s.grp l.toNat sc.toNat c.toNat t.toNat with
    | some r => stall r s
    | none => eccFirst (fun e => (e.cls = .store && sc.toNat < 63) || (e.cls = .tile && e.batch.isNone && t.toNat < 63)) s retire)

/-- MBATCH (R105). -/
def execMbatch (n : BitVec 3) (s : State) : Res :=
  regInstr (.mbatch n) (fun g => { g with batchOpen := g.batchOpen ||| (1 <<< n.toNat), curBatch := some n.toNat }) s

/-- MWAIT (R105, R179): it waits for the multiplies of a batch, and takes the errors that they have met. -/
def execMwait (n : BitVec 3) (s : State) : Res :=
  .next (issue (.mwait n) s fun s =>
    if mget s.grp.batchPend n.toNat != 0 then stall .tile s
    else eccFirst (fun e => e.batch = some n.toNat) s <| retireWith fun g => { g with
      batchOpen := g.batchOpen &&& ~~~((1 : BitVec 8) <<< n.toNat)
      curBatch := if g.curBatch = some n.toNat then none else g.curBatch })

/-- YIELD (R106). -/
def execYield (s : State) : Res := .next (issue .yield s fun s => retire (yieldPlace s))

/-- YIELDC (R106, R320): the place is given up, and the group waits until the end of a copy brings OCNT.C to n or below (`copyWake`). -/
def execYieldc (n : BitVec 6) (s : State) : Res :=
  .next (issue (.yieldc n) s fun s =>
    if s.grp.cntC ≤ n.toNat then retire (yieldPlace s) else onGrp (fun g => { g with wait := .yieldc n.toNat }) (leavePlace s))

/-- WINDOW (R107). -/
def execWindow (n : BitVec 3) (s : State) : Res :=
  .next (issue (.window n) s fun s =>
    if s.grp.alloc ≤ n.toNat then trapHere 0x04 (BitVec.ofNat 64 (n.toNat * 16)) (unfOf (checksOf (.window n)) s.grp) true s
    else retireWith (fun g => { g with winbase := n }) s)

/-- An operation whose destination register lies in a block that has been donated writes it where the block is (R45): register `r`, at or above `base`,
stands for `r - base + at_` of the recipient. -/
def Op.moved (base at_ : Nat) (taker : GKey) (o : Op) : Op :=
  match o.kind with
  | .amo op r accs => if base ≤ r then { o with kind := .amo op (r - base + at_) accs, into := some taker } else o
  | .accld a row r live => if base ≤ r then { o with kind := .accld a row (r - base + at_) live, into := some taker } else o
  | _ => o

/-- The rendezvous of two groups whose DONATEs match (R45, R108): the top `k` blocks of the donor pass to the recipient. -/
def donateMove (donor taker : GKey) (k : Nat) (s : State) : State :=
  match findGroup s donor, findGroup s taker with
  | some d, some q =>
    let base := (d.alloc - k) * 512
    let up := fun n => n - base + q.alloc * 512
    let moved := (d.vregs.filter fun p => base ≤ p.1).map fun p => (up p.1, p.2)
    let s := { s with
      ops := s.ops.map fun o => if o.writesFor donor then o.moved (base / 32) (q.alloc * 16) taker else o
      ecc := s.ecc.map fun e => if e.space = .vfile donor && decide (base ≤ e.off / 4) then ⟨.vfile taker, up (e.off / 4) * 4 + e.off % 4, 0⟩ else e }
    let s := updGroup donor (fun g => { g with vregs := g.vregs.filter (fun p => p.1 < base), alloc := g.alloc - k }) s
    updGroup taker (fun g => { g with vregs := moved.foldl (fun m p => mset m p.1 p.2) g.vregs, alloc := g.alloc + k }) s
  | _, _ => s

/-- A group's DONATE ends with its flags (R108). -/
def donateEnd (k : GKey) (ok : Bool) (s : State) : State :=
  if k = s.grp.key then retireWith (setCC (ccOk ok)) s else asGroup k (retireWith (setCC (ccOk ok))) s

/-- Both DONATEs match: the transfer is made once the donor's L is 0, and until then `w` (R108). The donor's loads wait for no other group, so that a
deterministic launch holds the clock of the later group still (R328). -/
def donateTry (donor taker : GKey) (k : Nat) (w : State → State) (s : State) : State :=
  match findGroup s donor with
  | some d => if d.cntL = 0 then donateEnd taker true (donateEnd donor true (donateMove donor taker k s)) else w s
  | none => s

/-- DONATE (R108): a partner at EXIT is resident until it retires, and the wait for it fails then. -/
def donateStep (give : Bool) (p k : Nat) (s : State) : State :=
  let g := s.grp
  let pk : GKey := { g.key with idx := p }
  match findGroup s pk with
  | none => donateEnd g.key false s
  | some q =>
    if p = g.key.idx || seenRetired s q || q.quad != g.quad || q.laneInQuad != g.laneInQuad ||
        (give && g.alloc ≤ k) || (!give && 8 < g.alloc + k) then donateEnd g.key false s
    else match q.wait with
      | .donate qgive qp qk =>
        if qp != g.key.idx then waitOn (.donate give p k) s
        else if (qgive == give) || qk != k then donateEnd g.key false (donateEnd pk false s)
        else donateTry (if give then g.key else pk) (if give then pk else g.key) k (onGrp fun g => { g with wait := .donate give p k }) s
      | _ => waitOn (.donate give p k) s

/-- DONATE (R108, R122). -/
def execDonate (d : BitVec 1) (a : BitVec 5) (k : BitVec 3) (s : State) : Res :=
  .next (issue (.donate d a k) s fun s => syncOp s (donateStep (d = 0) a.toNat k.toNat))

/-- A barrier of the issuing group's team. -/
def barrierOf (s : State) (n : Nat) : Barrier := s.team.barriers.getD n .initial

/-- The arrival of R109: one indivisible step that returns the phase it found. -/
def arriveBar (n c : Nat) (s : State) : State :=
  let idx := s.grp.key.idx
  onTeam (fun t => { t with barriers := t.barriers.modify n fun x =>
    let need := if x.arrivals = 0 then c else x.need
    if x.arrivals + 1 = need then ⟨x.phase + 1, need, 0, 0⟩
    else ⟨x.phase, need, x.arrivals + 1, x.arrived ||| (1 <<< idx)⟩ }) s

/-- BAR waits for the end of the phase in which it arrived (R109). -/
def barWait (n : Nat) (tok : Word) (s : State) : State :=
  if (barrierOf s n).phase = tok then waitOn (.barrier n tok) s else retire s

/-- A synchronising operation that first waits for the group's earlier loads, where `loads`, stores and atomics. -/
def afterVec (loads : Bool) (s : State) (body : State → State) : State :=
  awaitOwn [.store, .atomic] s fun s => match vecPending loads true s with
  | some r => stall r s
  | none => body s

/-- BAR (R109, R110, R122). -/
def execBar (n : BitVec 4) (c : BitVec 7) (s : State) : Res :=
  .next (issue (.bar n c) s fun s => syncOp s fun s =>
    match s.grp.wait with
    | .barrier n tok => barWait n tok s
    | _ => afterVec true s fun s => barWait n.toNat (barrierOf s n.toNat).phase (arriveBar n.toNat c.toNat s))

/-- BARA (R109, R110, R122). -/
def execBara (d : BitVec 7) (n : BitVec 4) (c : BitVec 7) (s : State) : Res :=
  .next (issue (.bara d n c) s fun s => syncOp s fun s =>
    afterVec true s fun s => retireWith (setS d.toNat ((barrierOf s n.toNat).phase.setWidth 64)) (arriveBar n.toNat c.toNat s))

/-- BARW (R109, R122). -/
def execBarw (n : BitVec 4) (rb : BitVec 7) (s : State) : Res :=
  .next (issue (.barw n rb) s fun s => syncOp s fun s =>
    if (barrierOf s n.toNat).phase = (getS s.grp rb.toNat).extractLsb' 0 32 then unmet .bar s else retire s)

/-- The groups that sleep at a monitor of the issuing group's spindle (R111: 32 entries). -/
def sleepers (s : State) : Nat :=
  ((residentOn s s.team.spindle).filter fun g => match g.wait with | .monitor _ _ _ => true | _ => false).length

/-- The fault of a scalar access (R99): LIVE is what is unfinished; a replayable fault parks the group. A group whose record was
answered FAIL takes the fault the answer names (R289, R290). -/
def scalarFault (s : State) (r : AccRes) (va : DWord) : Option State :=
  let m := s.grp.live
  match (s.grp.park.bind fun p => p.fails.head?) with
  | some f => some (trapHere f.2.1 f.2.2 m true s)
  | none => match r with
    | .ok _ _ _ => none
    | .fault cause tval info ecc => some (trapHere cause tval m true (reportInfo s.grid.part info ecc s))
    | .park p => some (parkWith m [(0, p)] s)
    | .uncorr => some (trapHere 0x30 va m true (uncorrStep s))

/-- The byte of the issuing team's landing slot that an address of its window names (R144). -/
def ownSlot (s : State) (va : DWord) : Loc := ⟨.slot (clusterOf s.team.spindle) s.team.slot, fieldN va 0 14, 0⟩

/-- WAITA, once its access has been checked: the word is read and the line armed in one step (R111, R112). -/
def waitaRead (l : Loc) (va last : DWord) (s : State) : State :=
  let x : DWord := BitVec.ofNat 64 (rdNat s l 8)
  let s := noteHits true false 8 [(0, va)] s
  if s.grid.det then retireWith (setCC (if x = last then ⟨false, false, true, false⟩ else .zero)) s
  else if x ≠ last then retireWith (setCC .zero) s
  else onGrp (fun g => { g with wait := .monitor { l with off := l.off / 64 * 64, gen := 0 } s.now false }) s

/-- The flags of a WAITA that slept: woken, or out of time (R111). -/
def waitaEnd (timedOut : Bool) (s : State) : State := retireWith (setCC ⟨!timedOut, false, false, timedOut⟩) s

/-- WAITA (R111, R112, R122); of a deterministic region it reads at its place in D (R253). Its read also waits for the group's earlier stores and word atomics: the choice of this model, log 41. -/
def waitaStep (va last : DWord) (s : State) : State :=
  match s.grp.wait with
  | .monitor _ _ woken => if woken then waitaEnd false s else s
  | _ =>
    let h := va.toNat / 2 ^ 53 % 16
    let m := s.grp.live
    if va.toNat % 8 ≠ 0 then trapHere 0x03 va m true s
    else if 2 ^ 57 ≤ va.toNat || (12 ≤ h && h ≤ 14) then trapHere 0x11 va m true s
    else if (8 ≤ h && h ≤ 11) || 32 ≤ sleepers s then retireWith (setCC (ccOk false)) s
    else
      let r := access s (envOf s) .ls va 8 true false false
      match scalarFault s r va with
      | some s => s
      | none => match r with
        | .ok l dt fill => afterVec false s fun s =>
          if regionWaits s dt then stall .det s
          else match nowBlocked s (.sload 0 8 ⟨0, va, l⟩) false with
          | some r => stall r s
          | none => waitaRead l va last (tlbFill fill s)
        | _ => s

/-- WAITA (R111). -/
def execWaita (a rb : BitVec 7) (s : State) : Res :=
  .next (issue (.waita a rb) s fun s => syncOp s fun s => waitaStep (getS s.grp a.toNat) (getS s.grp rb.toNat) s)

/-- WAKEA (R113, R122): the line that its address translates to, whatever may be read there. In a context-tagged region it is the line of the
caller's own context that wakes, as a write by the caller would wake it (R112): the choice of this model, log 41. -/
def execWakea (a : BitVec 7) (s : State) : Res :=
  .next (issue (.wakea a) s fun s => syncOp s fun s => afterVec false s fun s =>
    match access s (envOf s) .ls (getS s.grp a.toNat) 1 false false false with
    | .ok l _ _ => retire (wake l 1 s)
    | .uncorr => retire (wake (ownSlot s (getS s.grp a.toNat)) 1 s)
    | _ => retire s)

/-- FENCE (R115): release waits for loads, stores and atomics, acquire for loads and atomics. -/
def execFence (o sc : BitVec 2) (s : State) : Res :=
  .next (issue (.fence o sc) s fun s =>
    awaitOwn (if 2 ≤ o.toNat then [.store, .atomic] else [.atomic]) s fun s => match vecPending true (2 ≤ o.toNat) s with
    | some r => stall r s
    | none => retire s)

/-- Whether a matrix operation is one that the group takes part in. -/
def Op.gangOf (o : Op) (k : GKey) : Bool :=
  match o.kind, o.owner with
  | .mma _ _ _ _ _ ms _ _, .group g => tkeyOf g = tkeyOf k && ms.any fun m => m.1 = k.idx
  | _, _ => false

/-- Whether an operation still has accesses to make on a path; a drain reads its accumulator on the MTX path first (R174, R242). -/
def OpKind.onPath (k : OpKind) (p : Nat) : Bool :=
  k.path = p || (p = 2 && (match k with | .drain _ _ _ _ _ x => x.isNone | _ => false))

/-- The stall of FENCEX: an operation the group issued on path `p` is not performed (R116), or one whose MTX accesses a gang operation has put before
its own (R246); a send's ring write waits on path FAB until it is in a ring of this device or has left it (R242). -/
def pathPending (p : Nat) (s : State) : Option Reason :=
  let os := s.ops.filter fun o => (o.of s.grp.key || o.gangOf s.grp.key || (p = 2 && s.grp.mtxAfter.contains o.id)) && o.kind.onPath p
  if p = 7 then
    if s.tensors.any (fun t => (t.st = .moving || t.st = .evicting) && t.movers.contains s.grp.key) then some .tensor else none
  else if p = 5 then
    if s.holdBuf.any (fun m => m.sender = some s.grp.key) || s.outBuf.any (fun m => m.sender = some s.grp.key) then some .fabric else none
  else if os.isEmpty then none
  else match p with
    | 0 => if os.any fun o => o.kind.vec = some true then some .load else some .store
    | 1 => some .copy
    | 2 => some .tile
    | 3 => some .store
    | 4 => some .reel
    | _ => some .bwait

/-- The operations that wait for a commit on a path (R242, R253). -/
def commOn (p : Nat) : List CommKind :=
  if p = 0 then [.store] else if p = 3 then [.atomic, .drain] else if p = 5 then [.send] else []

/-- FENCEX (R116, R179). -/
def execFencex (p q : BitVec 3) (sc : BitVec 2) (s : State) : Res :=
  .next (issue (.fencex p q sc) s fun s =>
    awaitOwn (commOn p.toNat) s fun s => match pathPending p.toNat s with
    | some r => stall r s
    | none => eccFirst (fun e => e.paths.contains p.toNat) s retire)

/-- NOP (R117). -/
def execNop (s : State) : Res := .next (issue .nop s retire)

/-- EXIT (R44, R117, R179): the group stops; it retires once its operations have ended. -/
def execExit (s : State) : Res :=
  .next (issue .exit s fun s => eccFirst (fun _ => true) s fun s => leaveIssue s)

/-- An instruction that retires and raises a trap (R46, R118). -/
def trapAfter (cause : BitVec 8) (n : BitVec 7) (s : State) : State :=
  let s := onGrp (advance (s.grp.pc + 4)) s
  takeTrap cause (n.setWidth 64) s.grp.pc 0 false s

/-- TRAP (R118). -/
def execTrap (n : BitVec 7) (s : State) : Res := .next (issue (.trap n) s (trapAfter 0x22 n))

/-- BRK (R118, R396). -/
def execBrk (n : BitVec 7) (s : State) : Res :=
  .next (issue (.brk n) s fun s =>
    let d := dbgOf s s.team.spindle
    if d.brkStop && d.part = s.grid.part then stopGroup s.grp.key 1 (onGrp (advance (s.grp.pc + 4)) s)
    else trapAfter 0x20 n s)

/-- The return of R119, with the report of hits that the skipped instruction left (R293). -/
def eretStep (s : State) : State :=
  if !s.grp.intrap then trapHere 0x01 (wordVal .eret) s.grp.live false s
  else
    let again := s.grp.replay
    let s := endHalts s.grp.key (onGrp leaveHandler s)
    if again then (if s.grp.stepping then stopGroup s.grp.key 3 s else s) else afterRetire s

/-- ERET (R119). -/
def execEret (s : State) : Res := .next (issue .eret s eretStep)

/-- MARK (R120, R391, R395). -/
def execMark (i : BitVec 14) (s : State) : Res :=
  .next (issue (.mark i) s fun s =>
    let d := dbgOf s s.team.spindle
    if d.bp && (tracedSlot s s.grp.key).isSome && 64 ≤ d.staged.length then stall .trace s
    else retire (blockRec s.grp.key s.grp.live i.toNat s.grp.pc s))

/-- The groups that HALTG names, or nothing where it fails (R121): an index of the team, or 32 for every other resident group. -/
def haltTargets (s : State) (i : Nat) : Option (List GKey) :=
  let res := (groupsOf s s.team.key).filter fun g => !seenRetired s g
  if 32 < i || i = s.grp.key.idx then none
  else if i = 32 then some ((res.filter fun g => g.key != s.grp.key).map fun g => g.key)
  else match res.find? fun g => g.key.idx = i with
    | some g => some [g.key]
    | none => none

/-- Whether group `k` stalls at this moment in a HALTG that halts the issuing group (R297): one that waits for its point in a deterministic
launch. -/
def haltsBack (s : State) (k : GKey) : Bool :=
  let t := checkout k s
  t.grp.key = k && t.grp.phase = .running && t.grp.wait = .stall .det && (match (fetchWord t).bind fun w => decodeMain w.toNat with
    | some (.haltg a) => (match haltTargets t (fieldN (getS t.grp a.toNat) 0 6) with | some ks => ks.contains s.grp.key | none => false)
    | _ => false)

/-- HALTG (R121, R122, R297). -/
def execHaltg (a : BitVec 7) (s : State) : Res :=
  .next (issue (.haltg a) s fun s => syncOp s fun s =>
    let me := s.grp.key.idx
    match haltTargets s (fieldN (getS s.grp a.toNat) 0 6) with
    | none => retireWith (setCC (ccOk false)) s
    | some ks =>
      if ks.any fun k => (s.grp.haltedBy.contains k.idx || haltsBack s k) && k.idx < me then retireWith (setCC (ccOk false)) s
      else retireWith (setCC (ccOk true)) (ks.foldl (fun s k =>
        updGroup k (fun g => if g.haltedBy.contains me then g else { g with haltedBy := g.haltedBy ++ [me] }) s) s))

/-- HALTG.res (R121, R122). -/
def execHaltgRes (a : BitVec 7) (s : State) : Res :=
  .next (issue (.haltgRes a) s fun s => syncOp s fun s =>
    let me := s.grp.key.idx
    match haltTargets s (fieldN (getS s.grp a.toNat) 0 6) with
    | none => retireWith (setCC (ccOk false)) s
    | some ks => retireWith (setCC (ccOk true)) (ks.foldl (fun s k =>
        updGroup k (fun g => { g with haltedBy := g.haltedBy.filter fun i => i ≠ me }) s) s))

end Sys2Proof.Machine
end

