-- ==== Sys2Proof/Machine/BlockFp.lean ====
section
/-! DEFINITION. Block-floating-point streams: their layout, the quantiser and the widening (R84-R89). -/

namespace Sys2Proof.Machine

/-- The next multiple of 8 (R84). -/
def pad8 (n : Nat) : Nat := (n + 7) / 8 * 8

/-- The bytes of an area of `n` bytes, padded (R84). -/
def area (v n : Nat) : List Byte := toBytes (v % 2 ^ (8 * n)) (pad8 n)

/-- The size of a stream (R84). -/
def streamBytes (count w blocks : Nat) : Nat :=
  16 + pad8 ((count + 7) / 8) + pad8 blocks + pad8 ((count * w + 7) / 8)

/-- The element exponent (R89). -/
def bfpEx : FVal → Nat
  | .fin _ m e => if m = 0 then 0 else (max 1 ((Nat.log2 m : Int) + e + 127)).toNat
  | .inf _ => 254
  | .nan => 0

/-- The first pass of the quantiser: the blocks in order, each with its elements and its exponent. `cur` holds the open block's elements,
last first, and `emax` its exponent so far (R89). -/
def bfpBlocks (thr : Nat) : List FVal → (cur : List FVal) → (emax : Nat) → List (List FVal × Nat)
  | [], cur, emax => if cur.isEmpty then [] else [(cur.reverse, emax)]
  | x :: xs, cur, emax =>
    let k := bfpEx x
    if cur.isEmpty then bfpBlocks thr xs [x] k
    else if cur.length = 64 || (k != 0 && emax != 0 && decide (thr < max k emax - min k emax)) then
      (cur.reverse, emax) :: bfpBlocks thr xs [x] k
    else bfpBlocks thr xs (x :: cur) (max emax k)

/-- A mantissa before saturation (R89): NaN counts as +0 and an infinity as the largest finite FP32 value. -/
def bfpQuot (w e : Nat) (x : FVal) : Int :=
  let sh : Int := (e : Int) - 127 - ((w : Int) - 2)
  if e = 0 then 0
  else match x with
  | .fin neg m ex => toIntClamp 0 (-(2 ^ 400)) (2 ^ 400) (.fin neg m (ex - sh))
  | .inf neg => toIntClamp 0 (-(2 ^ 400)) (2 ^ 400) (.fin neg 0xFFFFFF (104 - sh))
  | .nan => 0

/-- The largest mantissa (R89). -/
def bfpLimit (w : Nat) : Int := 2 ^ (w - 1) - 1

/-- The number whose `w`-bit fields are the values given, the first lowest. -/
def packFields (w : Nat) : List Int → Nat
  | [] => 0
  | x :: xs => (x % 2 ^ w).toNat + 2 ^ w * packFields w xs

/-- The stream that the quantiser makes (R84, R85, R89). -/
def quantise (w thr : Nat) (xs : List FVal) : List Byte :=
  let bs := bfpBlocks thr xs [] 0
  let n := xs.length
  let qs := bs.flatMap fun p => p.1.map (bfpQuot w p.2)
  let lim := bfpLimit w
  let sat := qs.any fun q => decide (lim < q) || decide (q < -lim)
  let marks := bs.flatMap fun p => 1 :: List.replicate (p.1.length - 1) (0 : Int)
  let flag := fun x : Bool => if x then 1 else 0
  let isInf := fun x : FVal => match x with | .inf _ => true | _ => false
  let hdr := n + w * 2 ^ 32 + thr * 2 ^ 48 + flag (xs.any FVal.isNan) * 2 ^ 56 + flag (xs.any isInf) * 2 ^ 57 + flag sat * 2 ^ 58 + bs.length * 2 ^ 64
  toBytes hdr 16 ++ area (packFields 1 marks) ((n + 7) / 8) ++ area (packFields 8 (bs.map fun p => (p.2 : Int))) bs.length ++
    area (packFields w (qs.map fun q => max (-lim) (min lim q))) ((n * w + 7) / 8)

/-- The count, width and block number that a header gives; nothing where it breaks a rule of R87. -/
def bfpHeader (h : Nat) : Option (Nat × Nat × Nat) :=
  let n := h % 2 ^ 32
  let w := h / 2 ^ 32 % 2 ^ 8
  let b := h / 2 ^ 64 % 2 ^ 32
  if n = 0 || w < 2 || 8 < w || h / 2 ^ 96 != 0 || h / 2 ^ 59 % 2 ^ 5 != 0 || h / 2 ^ 40 % 2 ^ 8 != 0 || b = 0 || n < b then none
  else some (n, w, b)

/-- An element as BF16 bits, under the scale where there is one (R86, R88). -/
def bfpElem (e w m : Nat) (scale : Option FVal) : Nat :=
  let neg := 2 ^ (w - 1) ≤ m
  let mag := if neg then 2 ^ w - m else m
  let v : FVal := if e = 255 then .nan else if e = 0 then .fin false 0 0 else .fin neg mag ((e : Int) - 127 - ((w : Int) - 2))
  toBits bf16 0 false (match scale with | some x => v.mul x | none => v)

/-- The elements of a stream as BF16 bits: `n` elements from element `i` on, `j` the number of blocks begun; `bm`, `es` and `ms` are the
bitmap, exponent and mantissa areas as numbers (R86). -/
def bfpDecode (w bm es ms : Nat) (scale : Option FVal) : (n i j : Nat) → List Nat
  | 0, _, _ => []
  | n + 1, i, j =>
    let j := if bm.testBit i then j + 1 else j
    bfpElem (es / 2 ^ (8 * (j - 1)) % 256) w (ms / 2 ^ (i * w) % 2 ^ w) scale :: bfpDecode w bm es ms scale n (i + 1) j

/-- The number of 1 bits among the low `n`. -/
def onesBelow (x : Nat) : Nat → Nat
  | 0 => 0
  | n + 1 => onesBelow x n + (if x.testBit n then 1 else 0)

/-- The BF16 elements of a stream (R84-R88); nothing where it is invalid (R87). -/
def widen (stream : List Byte) (scale : Option FVal) : Option (List Nat) :=
  match bfpHeader (ofBytes (stream.take 16)) with
  | none => none
  | some (n, w, b) =>
    let p1 := pad8 ((n + 7) / 8)
    let p2 := pad8 b
    let bm := ofBytes ((stream.drop 16).take p1)
    if !bm.testBit 0 || onesBelow bm n != b then none
    else some (bfpDecode w bm (ofBytes ((stream.drop (16 + p1)).take p2)) (ofBytes (stream.drop (16 + p1 + p2))) scale n 0 0)

end Sys2Proof.Machine
end

