-- ==== Sys2Proof/Machine/Memory.lean ====
section
/-! DEFINITION. Scalar and vector loads and stores, word atomics and the tag table (R98, R99, R143-R156, R165, R166). An access is
checked when its instruction issues, and performed when its operation completes (LOAD_COMPLETION, STORE_PERFORMED, ATOMIC_COMPLETION);
the accesses of an instruction some of whose threads fault are performed at its issue. -/

namespace Sys2Proof.Machine

/-- What the checks of one thread's access gave. -/
structure Got where
  thread : Nat
  va : DWord
  res : AccRes
deriving DecidableEq, Repr

/-- Whether the access may be performed. -/
def Got.fine (x : Got) : Bool := match x.res with | .ok _ _ _ => true | _ => false

/-- The fault that a FAIL response has given a thread of the parked instruction (R289, R290). -/
def failFor (g : Group) (t : Nat) : Option (BitVec 8 × DWord) :=
  (g.park.bind fun p => p.fails.find? fun f => f.1 = t).map (·.2)

/-- The checks 1 to 9 of R292 for one thread; a thread whose record was answered FAIL takes that fault. -/
def threadAcc (s : State) (e : Env) (c : AccClass) (n : Nat) (rd wr : Bool) (t : Nat) (va : DWord) : AccRes :=
  match failFor s.grp t with
  | some f => .bad f.1 f.2
  | none => if va.toNat % n ≠ 0 then .bad 0x03 va else access s e c va n rd wr false

/-- Whether home 10 takes the operation (R156): the six AtomicOps, where the hub may send them or the link owns the line (R357). -/
def hostAmoOk (s : State) : AmoOp → Bool
  | .add => !s.atomicsOff.contains s.grid.hub || s.cxl.contains s.grid.hub
  | .xchg => !s.atomicsOff.contains s.grid.hub || s.cxl.contains s.grid.hub
  | .cas => !s.atomicsOff.contains s.grid.hub || s.cxl.contains s.grid.hub
  | _ => false

/-- The same checks for a word atomic; HOST_AMO_UNSUP comes before the link's other errors (R156, R292). -/
def threadAmo (s : State) (e : Env) (op : AmoOp) (n t : Nat) (va : DWord) : AccRes :=
  let r := threadAcc s e .amo n true true t va
  if va.toNat / 2 ^ 53 = 10 && !hostAmoOk s op then
    match r with
    | .ok _ _ _ => .bad 0x50 va
    | .fault c _ _ _ => if c = 0x51 || c = 0x52 then .bad 0x50 va else r
    | _ => r
  else r

/-- What an access of `n` bytes that passes its checks leaves at once: the caches fill (R287), and a write in a tag keeps the room of its cells
(R276), which take their bytes when the first write is performed (R214). -/
def keepAcc (wr : Bool) (n : Nat) (r : AccRes) (s : State) : State :=
  match r with
  | .ok l _ fill =>
    let s := tlbFill fill s
    (match wr, l.space with
    | true, .ctx _ c => (granules l n).foldl (fun s g => reserveCell c g s) s
    | _, _ => s)
  | _ => s

/-- The checks of every thread listed, in ascending order (R148), for accesses of `n` bytes. -/
def gather (check : State → Nat → DWord → AccRes) (wr : Bool) (n : Nat) (vas : List (Nat × DWord)) (s : State) : State × List Got :=
  vas.foldl (fun p t =>
    let r := check p.1 t.1 t.2
    (keepAcc wr n r p.1, p.2 ++ [⟨t.1, t.2, r⟩])) (s, [])

/-- The accesses that may be performed. -/
def fineAccs (gs : List Got) : List Access :=
  gs.filterMap fun g => match g.res with | .ok l _ _ => some ⟨g.thread, g.va, l⟩ | _ => none

/-- The threads that faulted. -/
def faultMask (gs : List Got) : Word := threadMask fun t => gs.any fun g => g.thread = t && !g.fine

/-- Whether an access lies in a region marked deterministic (R253). -/
def anyDet (gs : List Got) : Bool := gs.any fun g => match g.res with | .ok _ dt _ => dt | _ => false

/-- The faults that are not replayable, with their threads. -/
def hardFaults (gs : List Got) : List (Nat × BitVec 8 × DWord) :=
  gs.filterMap fun g => match g.res with | .fault c v _ _ => some (g.thread, c, v) | _ => none

/-- The faults that park, with their threads. -/
def parkFaults (gs : List Got) : List (Nat × FaultRec) :=
  gs.filterMap fun g => match g.res with | .park r => some (g.thread, r) | _ => none

/-- Reports the records and hank entries of faults that trap (R284, R285, R257). -/
def reportHard (gs : List Got) (s : State) : State :=
  gs.foldl (fun s g => match g.res with | .fault _ _ info ecc => reportInfo s.grid.part info ecc s | _ => s) s

/-- The end of an instruction with the faults given (R149), `m` the unfinished threads: the trap of the lowest thread whose fault is not
replayable, else the park. -/
def endFaults (m : Word) (faults : List (Nat × BitVec 8 × DWord)) (parks : List (Nat × FaultRec)) (s : State) : State :=
  match faults with
  | f :: _ => trapHere f.2.1 f.2.2 m true s
  | [] => parkWith m parks s

/-- Whether a watchpoint covers an access that may be performed (R293, R397). -/
def watched (s : State) (rd wr : Bool) (n : Nat) (gs : List Got) : Bool :=
  gs.any fun g => g.fine && (List.range 8).any fun w => watchHits s w rd wr g.va n

/-- The accesses performed at issue: PAGE_UNCORR stops them all, with the address of the lowest acting thread (R330); else those that may be are performed by `now`, and the
instruction retires, parks or traps (R149). `whole` is the mask of a scalar access, for which LIVE stands (R99). -/
def finishNow (c : CntClass) (whole : Option Word) (act : Word) (gs : List Got) (rd wr : Bool) (n : Nat) (now : State → State) (s : State) : State :=
  if gs.any fun g => g.res = .uncorr then
    trapHere 0x30 ((gs.head?.map Got.va).getD 0) act true (uncorrStep (onGrp (holdCnt c) s))
  else
    let s := noteHits rd wr n ((fineAccs gs).map fun a => (a.thread, a.va)) (now s)
    if gs.all Got.fine then retire s
    else endFaults (whole.getD (faultMask gs)) (hardFaults gs) (parkFaults gs) (reportHard gs (onGrp (holdCnt c) s))

/-- A load, store or atomic whose accesses have been checked, `s1` the state that the checks leave. The operation is added and the
instruction retires; where a thread has faulted, a watchpoint is hit, or the value is that of a deterministic region (`sync`), the
accesses are performed at once, behind the operations they are ordered after. `comm` marks a communication operation, which waits for its place in
the order D first (R253, R326). -/
def memInstr (c : CntClass) (whole : Option Word) (act : Word) (gs : List Got) (rd wr : Bool) (n : Nat) (op : OpKind) (acq rel comm sync : Bool)
    (now : State → State) (s1 s : State) : State :=
  let s1 := if gs.any fun g => g.res = .uncorr then s else s1
  if sync || !gs.all Got.fine || watched s rd wr n gs then
    let body := match nowBlocked s op rel with
      | some r => stall r s
      | none => finishNow c whole act gs rd wr n now s1
    if comm then commOp s fun _ => body else body
  else if op.paused s then stall .fabric s
  else retire (addOp op acq rel none comm (onGrp (takeCnt c) s1))

/-- The unfinished threads of a scalar-class access, at a replay too: LIVE (R99, R290). -/
def wholeOf (g : Group) : Word := g.live

/-- The parameter block of `words` 8-byte words at `va`, read at issue as plain SLDs would read it, of a deterministic region at its place in D, with their faults (R158, R218, R253); `body`
takes its value. -/
def withBlock (va : DWord) (words : Nat) (s : State) (body : Nat → State → State) : State :=
  let m := wholeOf s.grp
  let vas := (List.range words).map fun i => (0, va + BitVec.ofNat 64 (8 * i))
  let p := gather (fun s => threadAcc s (envOf s) .ls 8 true false) false 8 vas s
  match p.2.find? fun g => !g.fine with
  | some g =>
    if g.res = .uncorr then trapHere 0x30 g.va m true (uncorrStep s)
    else endFaults m (hardFaults [g]) (parkFaults [g]) (reportHard [g] s)
  | none =>
    let accs := fineAccs p.2
    if regionWaits s (anyDet p.2) then stall .det s
    else match nowBlocked s (.load 0 8 false accs) false with
    | some r => stall r s
    | none => body (accs.foldr (fun a n => rdNat s a.loc 8 + 2 ^ 64 * n) 0) p.1

/-- A value of `n` bytes, at most 4, extended to 32 bits (R148). -/
def extend (n : Nat) (signed : Bool) (x : Nat) : Word :=
  BitVec.ofNat 32 (if signed && 2 ^ (8 * n - 1) ≤ x then x + 2 ^ 32 - 2 ^ (8 * n) else x)

/-- Writes element `t` of register `r` of the allocation. -/
def setA (r t : Nat) (v : Word) (g : Group) : Group := { g with vregs := mset g.vregs (r * 32 + t) v }

/-- A loaded value reaches its register, or its pair for 8 bytes (R148). -/
def loadReg (d n : Nat) (signed : Bool) (t x : Nat) (g : Group) : Group :=
  if n = 8 then setA (d + 1) t (BitVec.ofNat 32 (x / 2 ^ 32)) (setA d t (BitVec.ofNat 32 x) g)
  else setA d t (extend n signed x) g

/-- Performs the accesses of a vector load of group `k`. -/
def loadAll (k : GKey) (d n : Nat) (signed : Bool) (accs : List Access) (s : State) : State :=
  accs.foldl (fun s a => let x := rdNat s a.loc n; updGroup k (loadReg d n signed a.thread x) s) s

/-- Performs a scalar load: zero extension (R99). -/
def sloadNow (k : GKey) (d n : Nat) (a : Access) (s : State) : State :=
  updGroup k (setS d (BitVec.ofNat 64 (rdNat s a.loc n))) s

/-- Performs the accesses of a store, in ascending threads (R148). -/
def storeAll (n : Nat) (accs : List (Access × DWord)) (s : State) : State :=
  accs.foldl (fun s a => wrBytes a.1.loc (toBytes a.2.toNat n) s) s

/-- The new value of an integer atomic (R153-R155). -/
def amoInt {w : Nat} (op : AmoOp) (old y cmp : BitVec w) : BitVec w :=
  match op with
  | .add => old + y
  | .min => smin old y
  | .max => smax old y
  | .minu => umin old y
  | .maxu => umax old y
  | .and => old &&& y
  | .or => old ||| y
  | .xor => old ^^^ y
  | .cas => if old = cmp then y else old
  | _ => y

/-- The new value of a 32-bit atomic; the floating ones round to nearest even, keep subnormals and ignore FPCTL (R154). -/
def amoVal (op : AmoOp) (old y cmp : Word) : Word :=
  let f := fun x : Word => ofBits fp32 false x.toNat
  match op with
  | .fadd => w32 (fsum fp32 0 false [f y, f old])
  | .fmin => w32 (toBits fp32 0 false (fminNum (f old) (f y)))
  | .fmax => w32 (toBits fp32 0 false (fmaxNum (f old) (f y)))
  | _ => amoInt op old y cmp

/-- One thread's update, indivisible: the location, and the old value's register (R152, R153). -/
def amoOne (k : GKey) (op : AmoOp) (d : Nat) (x : Access × Word × Word) (s : State) : State :=
  let old : Word := BitVec.ofNat 32 (rdNat s x.1.loc 4)
  updGroup k (setA d x.1.thread old) (wrBytes x.1.loc (toBytes (amoVal op old x.2.1 x.2.2).toNat 4) s)

/-- The updates of a vector atomic, in ascending threads (R152). -/
def amoAll (k : GKey) (op : AmoOp) (d : Nat) (accs : List (Access × Word × Word)) (s : State) : State :=
  accs.foldl (fun s x => amoOne k op d x s) s

/-- The update of a scalar atomic (R155). -/
def samoNow (k : GKey) (op : AmoOp) (d : Nat) (a : Access) (y cmp : DWord) (s : State) : State :=
  let old : DWord := BitVec.ofNat 64 (rdNat s a.loc 8)
  updGroup k (setS d old) (wrBytes a.loc (toBytes (amoInt op old y cmp).toNat 8) s)

/-- Acquire, and release, of an order field on a load and on a store (R60, R244): 1 acquire, 2 release, 3 both. An acquire-release store
holds every later access, and an acquire-release load waits for the earlier ones. -/
def ordAcq (o : BitVec 2) : Bool := o = 1 || o = 3
/-- See `ordAcq`. -/
def ordRel (o : BitVec 2) : Bool := o = 2 || o = 3

/-- The address of a scalar access (R99). -/
def scalarVa (g : Group) (a : BitVec 7) (off : BitVec 4) (n : Nat) : DWord := getS g a.toNat + sx off * BitVec.ofNat 64 n

/-- ALIGN of a scalar load or store comes before its counter rises (R99). -/
def alignedScalar (va : DWord) (n : Nat) (s : State) (body : State → State) : State :=
  if va.toNat % n ≠ 0 then trapHere 0x03 va (wholeOf s.grp) true s else body s

/-- SLD (R98, R99, R143-R146). -/
def execSld (d a : BitVec 7) (w o sc : BitVec 2) (n : BitVec 4) (s : State) : Res :=
  .next (issue (.sld d a w o sc n) s fun s => alignedScalar (scalarVa s.grp a n (2 ^ w.toNat)) (2 ^ w.toNat) s fun s =>
    withRoom .load s fun s =>
      let len := 2 ^ w.toNat
      let p := gather (fun s => threadAcc s (envOf s) .ls len true false) false len [(0, scalarVa s.grp a n len)] s
      let sync := s.grid.det && anyDet p.2
      match fineAccs p.2 with
      | [x] => memInstr .load (some (wholeOf s.grp)) (wholeOf s.grp) p.2 true false len (.sload d.toNat len x) (ordAcq o) (o = 3) sync sync
          (sloadNow s.grp.key d.toNat len x) p.1 s
      | _ => memInstr .load (some (wholeOf s.grp)) (wholeOf s.grp) p.2 true false len (.load 0 len false []) (ordAcq o) (o = 3) false true
          id p.1 s)

/-- Whether a store waits at its issue for its place in D: an acquire-release store to a deterministic region, behind which every later access of the group
is performed (R244, R253, R326; log 12). -/
def storeSync (s : State) (o : BitVec 2) (gs : List Got) : Bool := s.grid.det && anyDet gs && o = 3

/-- SST (R98, R99, R143-R146). -/
def execSst (d a : BitVec 7) (w o sc : BitVec 2) (n : BitVec 4) (s : State) : Res :=
  .next (issue (.sst d a w o sc n) s fun s => alignedScalar (scalarVa s.grp a n (2 ^ w.toNat)) (2 ^ w.toNat) s fun s =>
    withRoom .store s fun s =>
      let len := 2 ^ w.toNat
      let p := gather (fun s => threadAcc s (envOf s) .ls len false true) true len [(0, scalarVa s.grp a n len)] s
      let accs := (fineAccs p.2).map fun x => (x, getS s.grp d.toNat)
      memInstr .store (some (wholeOf s.grp)) (wholeOf s.grp) p.2 false true len (.store len accs sc) (o = 3) (ordRel o) (anyDet p.2) (storeSync s o p.2)
        (storeAll len accs) p.1 s)

/-- The addresses of a vector access, by acting thread (R148). -/
def vecVas (g : Group) (act : Word) (a : BitVec 7) (off : BitVec 4) (n : Nat) : List (Nat × DWord) :=
  (threads act).map fun t => (t, opnd64 g a.toNat t + sx off * BitVec.ofNat 64 n)

/-- A vector load in the context `ctx` (R148-R151). -/
def vecLoad (gd : BitVec 2) (d a : BitVec 7) (n : Nat) (signed : Bool) (o : BitVec 2) (off : BitVec 4) (ctx : BitVec 16) (s : State) : State :=
  let act := actOf s.grp gd
  if act = 0 then retire s
  else withRoom .load s fun s =>
    let p := gather (fun s => threadAcc s { envOf s with ctx := ctx } .ls n true false) false n (vecVas s.grp act a off n) s
    let accs := fineAccs p.2
    let sync := s.grid.det && anyDet p.2
    let r := vreg s.grp d.toNat
    memInstr .load none act p.2 true false n (.load r n signed accs) (ordAcq o) (o = 3) sync sync (loadAll s.grp.key r n signed accs) p.1 s

/-- VLD (R147-R150). -/
def execVld (g : BitVec 2) (d a : BitVec 7) (w o sc : BitVec 2) (n : BitVec 4) (s : State) : Res :=
  .next (issue (.vld g d a w o sc n) s fun s => vecLoad g d a (2 ^ w.toNat) true o n s.grp.ctx s)

/-- VLDU (R147-R150). -/
def execVldu (g : BitVec 2) (d a : BitVec 7) (w : BitVec 1) (o sc : BitVec 2) (n : BitVec 4) (s : State) : Res :=
  .next (issue (.vldu g d a w o sc n) s fun s => vecLoad g d a (2 ^ w.toNat) false o n s.grp.ctx s)

/-- The width of a VLDX form (R151). -/
def vldxBytes (f : BitVec 3) : Nat := if f = 5 then 8 else if f = 4 then 4 else if 2 ≤ f.toNat then 2 else 1

/-- VLDX (R151): f 0 and 2 extend the sign. -/
def execVldx (g : BitVec 2) (f : BitVec 3) (d a : BitVec 7) (rb : BitVec 5) (s : State) : Res :=
  .next (issue (.vldx g f d a rb) s fun s =>
    vecLoad g d a (vldxBytes f) (f = 0 || f = 2) 0 0 ((getS s.grp rb.toNat).extractLsb' 0 16) s)

/-- VST (R147-R150): the data, a vector source, are read at issue (R22). -/
def execVst (g : BitVec 2) (d a : BitVec 7) (w o sc : BitVec 2) (n : BitVec 4) (s : State) : Res :=
  .next (issue (.vst g d a w o sc n) s fun s =>
    let act := actOf s.grp g
    if act = 0 then retire s
    else withRoom .store s fun s =>
      let len := 2 ^ w.toNat
      let p := gather (fun s => threadAcc s (envOf s) .ls len false true) true len (vecVas s.grp act a n len) s
      let data := fun t => if w = 3 then opnd64 s.grp d.toNat t else (opnd32 s.grp d.toNat t).setWidth 64
      let accs := (fineAccs p.2).map fun x => (x, data x.thread)
      memInstr .store none act p.2 false true len (.store len accs sc) (o = 3) (ordRel o) (anyDet p.2) (storeSync s o p.2) (storeAll len accs) p.1 s)

/-- An atomic to home 10 whose trap is HOST_AMO_UNSUP, HOST_ABORT or HOST_POISON is performed: EXIT waits for nothing more from it, whatever its counter
says until its handler has ended (R149, R383). `s` is the state before the attempt, `t` the one after. -/
def heldFree (s t : State) : State :=
  if !s.grp.intrap && t.grp.intrap && (t.grp.tcause = 0x50 || t.grp.tcause = 0x51 || t.grp.tcause = 0x52) then onGrp (fun g => { g with heldFree := true }) t
  else t

/-- An atomic to home 10 holds its group until its completions have returned (R156). -/
def hostIssue (kind : OpKind) (gs : List Got) (s1 s : State) : State :=
  commOp s fun _ =>
    if kind.paused s then stall .fabric s else
    let id := s1.nextOp
    let s1 := addOp kind false false (some ⟨hardFaults gs, parkFaults gs⟩) false (reportHard gs s1)
    onGrp (fun g => { holdCnt .store g with wait := .hostAtomic id, stallAt := s1.cycles }) s1

/-- Whether an access that may be performed lies in home 10, and none meets PAGE_UNCORR. -/
def toHost (gs : List Got) : Bool := (gs.any fun g => g.fine && g.va.toNat / 2 ^ 53 = 10) && gs.all fun g => g.res != .uncorr

/-- A vector word atomic (R152-R154, R156). -/
def vecAmo (op : AmoOp) (gd : BitVec 2) (d a rb : BitVec 7) (s : State) : State :=
  let act := actOf s.grp gd
  if act = 0 then retire s
  else withRoom .store s fun s =>
    let p := gather (fun s => threadAmo s (envOf s) op 4) true 4 (vecVas s.grp act a 0 4) s
    let accs := (fineAccs p.2).map fun x => (x, opnd32 s.grp rb.toNat x.thread, getV s.grp d.toNat x.thread)
    let r := vreg s.grp d.toNat
    if toHost p.2 then hostIssue (.amo op r accs) p.2 p.1 s
    else heldFree s (memInstr .store none act p.2 true true 4 (.amo op r accs) false false true false (amoAll s.grp.key op r accs) p.1 s)

/-- A scalar word atomic (R152, R155, R156). -/
def scalarAmo (op : AmoOp) (d a rb : BitVec 7) (s : State) : State :=
  withRoom .store s fun s =>
    let p := gather (fun s => threadAmo s (envOf s) op 8) true 8 [(0, getS s.grp a.toNat)] s
    let m := wholeOf s.grp
    match fineAccs p.2 with
    | [x] =>
      let kind := OpKind.samo op d.toNat x (getS s.grp rb.toNat) (getS s.grp d.toNat)
      if toHost p.2 then hostIssue kind p.2 p.1 s
      else heldFree s (memInstr .store (some m) m p.2 true true 8 kind false false true false
        (samoNow s.grp.key op d.toNat x (getS s.grp rb.toNat) (getS s.grp d.toNat)) p.1 s)
    | _ => heldFree s (memInstr .store (some m) m p.2 true true 8 (.amo op 0 []) false false true true id p.1 s)

/-- VAMOADD: old + y (R153). -/
def execVamoadd (g : BitVec 2) (d a rb : BitVec 7) (s : State) : Res := .next (issue (.vamoadd g d a rb) s (vecAmo .add g d a rb))

/-- VAMOMIN: the signed minimum (R153). -/
def execVamomin (g : BitVec 2) (d a rb : BitVec 7) (s : State) : Res := .next (issue (.vamomin g d a rb) s (vecAmo .min g d a rb))

/-- VAMOMAX: the signed maximum (R153). -/
def execVamomax (g : BitVec 2) (d a rb : BitVec 7) (s : State) : Res := .next (issue (.vamomax g d a rb) s (vecAmo .max g d a rb))

/-- VAMOMINU: the unsigned minimum (R153). -/
def execVamominu (g : BitVec 2) (d a rb : BitVec 7) (s : State) : Res := .next (issue (.vamominu g d a rb) s (vecAmo .minu g d a rb))

/-- VAMOMAXU: the unsigned maximum (R153). -/
def execVamomaxu (g : BitVec 2) (d a rb : BitVec 7) (s : State) : Res := .next (issue (.vamomaxu g d a rb) s (vecAmo .maxu g d a rb))

/-- VAMOAND (R153). -/
def execVamoand (g : BitVec 2) (d a rb : BitVec 7) (s : State) : Res := .next (issue (.vamoand g d a rb) s (vecAmo .and g d a rb))

/-- VAMOOR (R153). -/
def execVamoor (g : BitVec 2) (d a rb : BitVec 7) (s : State) : Res := .next (issue (.vamoor g d a rb) s (vecAmo .or g d a rb))

/-- VAMOXOR (R153). -/
def execVamoxor (g : BitVec 2) (d a rb : BitVec 7) (s : State) : Res := .next (issue (.vamoxor g d a rb) s (vecAmo .xor g d a rb))

/-- VCAS: y where the old value is v[d][t] (R154). -/
def execVcas (g : BitVec 2) (d a rb : BitVec 7) (s : State) : Res := .next (issue (.vcas g d a rb) s (vecAmo .cas g d a rb))

/-- VXCHG (R154). -/
def execVxchg (g : BitVec 2) (d a rb : BitVec 7) (s : State) : Res := .next (issue (.vxchg g d a rb) s (vecAmo .xchg g d a rb))

/-- VAMOFADD: y + old in FP32 (R154). -/
def execVamofadd (g : BitVec 2) (d a rb : BitVec 7) (s : State) : Res := .next (issue (.vamofadd g d a rb) s (vecAmo .fadd g d a rb))

/-- VAMOFMIN: minimumNumber (R154). -/
def execVamofmin (g : BitVec 2) (d a rb : BitVec 7) (s : State) : Res := .next (issue (.vamofmin g d a rb) s (vecAmo .fmin g d a rb))

/-- VAMOFMAX: maximumNumber (R154). -/
def execVamofmax (g : BitVec 2) (d a rb : BitVec 7) (s : State) : Res := .next (issue (.vamofmax g d a rb) s (vecAmo .fmax g d a rb))

/-- SAMOADD: old + s[b] (R155). -/
def execSamoadd (d a rb : BitVec 7) (s : State) : Res := .next (issue (.samoadd d a rb) s (scalarAmo .add d a rb))

/-- SAMOMIN: the signed minimum (R155). -/
def execSamomin (d a rb : BitVec 7) (s : State) : Res := .next (issue (.samomin d a rb) s (scalarAmo .min d a rb))

/-- SAMOMAX: the signed maximum (R155). -/
def execSamomax (d a rb : BitVec 7) (s : State) : Res := .next (issue (.samomax d a rb) s (scalarAmo .max d a rb))

/-- SAMOAND (R155). -/
def execSamoand (d a rb : BitVec 7) (s : State) : Res := .next (issue (.samoand d a rb) s (scalarAmo .and d a rb))

/-- SAMOOR (R155). -/
def execSamoor (d a rb : BitVec 7) (s : State) : Res := .next (issue (.samoor d a rb) s (scalarAmo .or d a rb))

/-- SAMOXOR (R155). -/
def execSamoxor (d a rb : BitVec 7) (s : State) : Res := .next (issue (.samoxor d a rb) s (scalarAmo .xor d a rb))

/-- SCAS: s[b] where the old value is s[d] (R155). -/
def execScas (d a rb : BitVec 7) (s : State) : Res := .next (issue (.scas d a rb) s (scalarAmo .cas d a rb))

/-- SXCHG (R155). -/
def execSxchg (d a rb : BitVec 7) (s : State) : Res := .next (issue (.sxchg d a rb) s (scalarAmo .xchg d a rb))

/-- The key of an address (R165). -/
def tagKey (x : DWord) : BitVec 45 := x.extractLsb' 12 45

/-- TLOOK, at once, behind the group's earlier acquires (R165, R166, R244). -/
def execTlook (d a : BitVec 7) (s : State) : Res :=
  .next (issue (.tlook d a) s fun s => acquired s fun s =>
    match s.team.tags.find? fun p => p.2 = tagKey (getS s.grp a.toNat) with
    | some p => retireWith (fun g => setCC (ccOk true) (setS d.toNat (BitVec.ofNat 64 p.1) g)) s
    | none => retireWith (fun g => setCC (ccOk false) (setS d.toNat 0xFFFFFFFFFFFFFFFF g)) s)

/-- TSET (R165, R166). -/
def execTset (a rb : BitVec 7) (s : State) : Res :=
  .next (issue (.tset a rb) s fun s => acquired s fun s =>
    let slot := (getS s.grp a.toNat).toNat
    let key := tagKey (getS s.grp rb.toNat)
    if slot < s.team.tagSlots then
      retireWith (setCC (ccOk true)) (onTeam (fun t => { t with tags := (t.tags.filter fun p => p.1 ≠ slot ∧ p.2 ≠ key) ++ [(slot, key)] }) s)
    else retireWith (setCC (ccOk false)) s)

/-- TINV (R165, R166). -/
def execTinv (a : BitVec 7) (s : State) : Res :=
  .next (issue (.tinv a) s fun s => acquired s fun s =>
    let key := tagKey (getS s.grp a.toNat)
    let found := s.team.tags.any fun p => p.2 = key
    retireWith (setCC (ccOk found)) (onTeam (fun t => { t with tags := t.tags.filter fun p => p.2 ≠ key }) s))

/-- TCLR (R165, R166). -/
def execTclr (s : State) : Res :=
  .next (issue .tclr s fun s => acquired s fun s => retireWith (setCC (ccOk true)) (onTeam (fun t => { t with tags := [] }) s))

/-- TSLOT (R165, R259). -/
def execTslot (d a : BitVec 7) (s : State) : Res :=
  .next (issue (.tslot d a) s fun s =>
    let slot := (getS s.grp a.toNat).toNat
    let t := s.team
    if slot < t.tagSlots then
      retireWith (fun g => setCC (ccOk true)
        (setS d.toNat (0x01E0000000000000 + BitVec.ofNat 64 t.scratchBytes - BitVec.ofNat 64 ((t.tagSlots - slot) * 4096)) g)) s
    else retireWith (fun g => setCC (ccOk false) (setS d.toNat 0 g)) s)

end Sys2Proof.Machine
end

