-- ==== Sys2Proof/Machine/Copy.lean ====
section
/-! DEFINITION. Copies (R157-R164): what is checked at issue, what the engine does, and what it leaves in the copy status. -/

namespace Sys2Proof.Machine

/-- How an access of an engine ends the work before its end: with a copy code at an address (R157), or waiting on a fault record
(R158, R289), or behind a pause of the link to a peer (R338). -/
inductive EngStop where
  | ended (code : BitVec 8) (va : DWord) (info : Option FaultRec) (ecc : Option EccAt) (uncorr : Bool)
  | wait (r : Option FaultRec)
deriving DecidableEq, Repr

/-- A failure without a fault. -/
def EngStop.plain (code : BitVec 8) (va : DWord) : EngStop := .ended code va none none false

/-- One byte that an engine accesses; `failed` is the address whose record was answered FAIL: the access there ends without a new
translation (R289). A link without a route counts as code 3 (log 9). -/
def engAcc (s : State) (e : Env) (va : DWord) (wr : Bool) (failed : Option DWord) : EngStop ⊕ (Loc × List TlbEntry) :=
  if failed = some va then .inl (.plain 3 va)
  else match access s e .copy va 1 (!wr) wr true with
  | .ok l _ fill => if linkPaused s l then .inl (.wait none) else .inr (l, fill)
  | .fault c _ info ecc => .inl (.ended (if c = 0x51 || c = 0x52 then 6 else 3) va info ecc false)
  | .park r => .inl (.wait (some { r with va := va }))
  | .uncorr => .inl (.ended 3 va none none true)

/-- Reads `n` bytes from `va` on, up to the first that fails. -/
def engRead (e : Env) (failed : Option DWord) : (n : Nat) → (va : DWord) → (s : State) → State × List Byte × Option EngStop
  | 0, _, s => (s, [], none)
  | n + 1, va, s =>
    match engAcc s e va false failed with
    | .inl x => (s, [], some x)
    | .inr (l, fill) =>
      let r := engRead e failed n (va + 1) (tlbFill fill s)
      (r.1, rdByte s l :: r.2.1, r.2.2)

/-- What an engine has prepared: the state its accesses leave, the bytes to write in order, and what ended the work. -/
structure Prepared where
  s : State
  out : List (Loc × Byte)
  stop : Option EngStop
deriving DecidableEq, Repr

/-- Finds the places of bytes to write from `va` on, up to the first that fails. -/
def engPut (e : Env) (failed : Option DWord) : (bs : List Byte) → (va : DWord) → (s : State) → Prepared
  | [], _, s => ⟨s, [], none⟩
  | b :: bs, va, s =>
    match engAcc s e va true failed with
    | .inl x => ⟨s, [], some x⟩
    | .inr (l, fill) =>
      let r := engPut e failed bs (va + 1) (keepAcc true 1 (.ok l false fill) s)
      { r with out := (l, b) :: r.out }

/-- Moves runs of bytes, each from a source to a destination, in the order given, up to the first byte whose read or write fails; every
byte is read before any is written (R158). -/
def engMove (e : Env) (failed : Option DWord) : List (DWord × DWord) → State → Prepared
  | [], s => ⟨s, [], none⟩
  | (d, a) :: ps, s =>
    match engRead e failed 1 a s with
    | (s, [b], none) =>
      match engAcc s e d true failed with
      | .inl x => ⟨s, [], some x⟩
      | .inr (l, fill) =>
        let r := engMove e failed ps (keepAcc true 1 (.ok l false fill) s)
        { r with out := (l, b) :: r.out }
    | (s, _, x) => ⟨s, [], x⟩

/-- The byte pairs of a run. -/
def runPairs (d a : DWord) (n : Nat) : List (DWord × DWord) :=
  (List.range n).map fun i => (d + BitVec.ofNat 64 i, a + BitVec.ofNat 64 i)

/-- A parameter block that is refused (R157). -/
def badBlock (block : DWord) (s : State) : Prepared := ⟨s, [], some (.plain 4 block)⟩

/-- CPYS: the rows, in ascending destination order (R158, R163). Where rows of the destination overlap, the one written last remains: the
choice of this model, log 41. -/
def cpysPairs (d a : DWord) (p : BitVec 128) : List (DWord × DWord) :=
  let n := fieldN (p.extractLsb' 0 64) 0 32
  let rows := fieldN (p.extractLsb' 0 64) 32 32
  let ss : DWord := sx (p.extractLsb' 64 32)
  let ds : DWord := sx (p.extractLsb' 96 32)
  let js := if ds.msb then (List.range rows).reverse else List.range rows
  js.flatMap fun j => runPairs (d + BitVec.ofNat 64 j * ds) (a + BitVec.ofNat 64 j * ss) n

/-- Whether a CPYS block is within its limits (R163). -/
def cpysOk (p : BitVec 128) : Bool :=
  let n := fieldN (p.extractLsb' 0 64) 0 32
  1 ≤ n && decide (n ≤ 2 ^ 24) && 1 ≤ fieldN (p.extractLsb' 0 64) 32 32

/-- CPYG: the elements from `i` on (R162): the index, the element's alignment, its bytes. The alignment of R162 is that of the element read;
the place it is written to needs none: the choice of this model, log 41. -/
def cpygGo (e : Env) (failed : Option DWord) (d base list : DWord) (es : Nat) : (n i : Nat) → (s : State) → Prepared
  | 0, _, s => ⟨s, [], none⟩
  | n + 1, i, s =>
    match engRead e failed 4 (list + BitVec.ofNat 64 (4 * i)) s with
    | (s, bs, none) =>
      let src := base + BitVec.ofNat 64 (ofBytes bs * 2 ^ es)
      if src.toNat % 2 ^ es ≠ 0 then ⟨s, [], some (.plain 3 src)⟩
      else
        let r := engMove e failed (runPairs (d + BitVec.ofNat 64 (i * 2 ^ es)) src (2 ^ es)) s
        (match r.stop with
        | some _ => r
        | none =>
          let q := cpygGo e failed d base list es n (i + 1) r.s
          { q with out := r.out ++ q.out })
    | (s, _, x) => ⟨s, [], x⟩

/-- CPYG (R162). -/
def cpygRun (e : Env) (failed : Option DWord) (d a block : DWord) (p : BitVec 128) (s : State) : Prepared :=
  let lo := p.extractLsb' 0 64
  let list : DWord := p.extractLsb' 64 64
  if fieldN lo 0 32 = 0 || fieldN lo 34 30 != 0 || list.toNat % 4 != 0 then badBlock block s
  else cpygGo e failed d a list (fieldN lo 32 2) (fieldN lo 0 32) 0 s

/-- The hank entry, the record and the zeroed slot that an engine's fault leaves. A copy whose later byte is the team's first access to its uncorrectable
slot, which ends with code 3, is that access: the slot is zeroed and no instruction of the team traps for it afterwards (R330; the choice of this model,
log 9). -/
def engReport (e : Env) : Option EngStop → State → State
  | some (.ended _ _ info ecc uncorr), s =>
    let s := reportInfo e.grid.part info ecc s
    if uncorr then uncorrAt e.team s else s
  | _, s => s

/-- CPYM: the targets left (R164), with what ended the work at each. -/
def cpymGo (e : Env) (failed : Option DWord) (off : Nat) (bs : List Byte) : List Nat → State → State × List (Loc × Byte) × List (Option EngStop)
  | [], s => (s, [], [])
  | n :: ns, s =>
    let va : DWord := BitVec.ofNat 64 (0x01E0000000000000 + (n + 1) * 2 ^ 40 + off)
    let r : Prepared := match neighbour s e.grid.id (e.team.spindle / 24 * 24 + n) with
      | none => ⟨s, [], some (.plain 5 va)⟩
      | some _ => engPut e failed bs va s
    let q := cpymGo e failed off bs ns r.s
    (q.1, r.out ++ q.2.1, r.stop :: q.2.2)

/-- What ends a CPYM: a wait of any target, else the failure at the lowest spindle. `src` is what ended the read of the source: the bytes before the
failing one go to every target, and the lowest target's own failure or code 5 comes before the source's code 3 (the choice of this model, log 41). -/
def cpymStop (src : Option EngStop) (stops : List (Option EngStop)) : Option EngStop :=
  match stops.find? fun x => match x with | some (.wait _) => true | _ => false with
  | some x => x
  | none => match src with
    | some _ => (stops.head?.join).or src
    | none => stops.findSome? id

/-- CPYM (R164). The failures that do not end it leave their hank entries and records too (R257, R288). -/
def cpymRun (e : Env) (failed : Option DWord) (d a block : DWord) (p : BitVec 128) (s : State) : Prepared :=
  let lo := p.extractLsb' 0 64
  let n := fieldN lo 0 32
  let mask := fieldN lo 32 24
  if n = 0 || mask = 0 || fieldN lo 56 8 != 0 || p.extractLsb' 64 64 != 0 then badBlock block s
  else
    let r := engRead e failed n a s
    match r.2.2 with
    | some (.wait x) => ⟨r.1, [], some (.wait x)⟩
    | x =>
      let q := cpymGo e failed (fieldN d 0 40) r.2.1 ((List.range 24).filter fun i => mask.testBit i) r.1
      let stop := cpymStop x q.2.2
      (match stop with
      | some (.wait w) => ⟨q.1, [], some (.wait w)⟩
      | _ => ⟨((x :: q.2.2).erase stop).foldl (fun s y => engReport e y s) q.1, q.2.1, stop⟩)

/-- CPYD (R160): the stream is checked before anything is written. The whole of it is read before its bitmap and block counts are checked, so
that a byte that cannot be read ends it with code 3 where a check would end it with code 1: the choice of this model, log 41. -/
def cpydRun (e : Env) (failed : Option DWord) (d a : DWord) (scale : Word) (s : State) : Prepared :=
  match engRead e failed 16 a s with
  | (s, hd, none) =>
    match bfpHeader (ofBytes hd) with
    | none => ⟨s, [], some (.plain 1 a)⟩
    | some (n, w, b) =>
      match engRead e failed (streamBytes n w b) a s with
      | (s, bs, none) =>
        match widen bs (if scale = 0 then none else some (ofBits fp32 false scale.toNat)) with
        | none => ⟨s, [], some (.plain 1 a)⟩
        | some xs => engPut e failed (xs.flatMap fun x => toBytes x 2) d s
      | (s, _, x) => ⟨s, [], x⟩
  | (s, _, x) => ⟨s, [], x⟩

/-- An element of CPYC's source as FP32, multiplied by the factor where there is one (R89, R161). -/
def cpycElem (et : Nat) (factor : Word) (bs : List Byte) : FVal :=
  let x := ofBits fp32 false (if et = 0 then ofBytes bs * 2 ^ 16 else ofBytes bs)
  if factor = 0 then x else ofBits fp32 false (toBits fp32 0 false (x.mul (ofBits fp32 false factor.toNat)))

/-- Cuts a list into pieces of `n`. -/
def pieces {α : Type} (n : Nat) : (count : Nat) → List α → List (List α)
  | 0, _ => []
  | c + 1, l => l.take n :: pieces n c (l.drop n)

/-- CPYC (R161). -/
def cpycRun (e : Env) (failed : Option DWord) (d a block : DWord) (p : BitVec 128) (s : State) : Prepared :=
  let lo := p.extractLsb' 0 64
  let hi := p.extractLsb' 64 64
  let n := fieldN lo 0 32
  let w := fieldN lo 32 8
  let et := fieldN lo 48 2
  if n = 0 || w < 2 || 8 < w || 2 ≤ et || fieldN lo 50 14 != 0 then badBlock block s
  else
    let eb := if et = 0 then 2 else 4
    match engRead e failed (n * eb) a s with
    | (s, bs, none) =>
      let stream := quantise w (fieldN lo 40 8) ((pieces eb n bs).map (cpycElem et (hi.extractLsb' 0 32)))
      if fieldN hi 32 32 < stream.length then ⟨s, [], some (.plain 2 d)⟩ else engPut e failed stream d s
    | (s, _, x) => ⟨s, [], x⟩

/-- What the engine does for a copy. -/
def copyRun (e : Env) (failed : Option DWord) (j : CopyJob) (s : State) : Prepared :=
  match j with
  | .cpy d a n => engMove e failed (runPairs d a n) s
  | .cpym d a block p => cpymRun e failed d a block p s
  | .cpyd d a scale => cpydRun e failed d a scale s
  | .cpyc d a block p => cpycRun e failed d a block p s
  | .cpyg d a block p => cpygRun e failed d a block p s
  | .cpys d a block p => if cpysOk p then engMove e failed (cpysPairs d a p) s else badBlock block s

/-- The copy status after a failure: one count, one code, one address (R157). -/
def failStatus (code : BitVec 8) (va : DWord) (g : Group) : Group :=
  { g with copyCount := if g.copyCount = 255 then 255 else g.copyCount + 1, copyCode := code, copyWhere := va }

/-- The copy ends: the status is written before C falls (R157, R158), which wakes a group that sleeps on its line (R112); a packet's copy gives the packet its code (R366). -/
def copyEnds (o : Op) (code : BitVec 8) (va : DWord) (s : State) : State :=
  match o.owner with
  | .group k => endOp o .copy (if code = 0 then s else wake ⟨.status k, 0, 0⟩ 16 (updGroup k (failStatus code va) s))
  | .packet id => finishPacket id (code.setWidth 16) (dropOp o.id s)

/-- Who accesses for an operation: the issuing group at its issue, or a hub's copy engine for a packet, which has no team (R302). -/
def opEnv (s : State) (o : Op) : Env :=
  match o.owner with
  | .group k => { envFor s k o.ctx with ghosts := o.ghosts }
  | .packet id =>
    match s.packets.find? fun p => p.id = id with
    | some p =>
      match s.queues.find? fun q => q.part = p.part ∧ q.q = p.q with
      | some q => ⟨⟨0, 0, 0⟩, .initial, { Grid.initial with part := p.part, asid := q.asid, hub := q.hub }, 0, []⟩
      | none => ⟨⟨0, 0, 0⟩, .initial, .initial, 0, []⟩
    | none => ⟨⟨0, 0, 0⟩, .initial, .initial, 0, []⟩

/-- An engine's access waits on the record of its fault (R158, R289), or for the end of a pause (R338). -/
def engWait (o : Op) (r : Option FaultRec) (s : State) : State :=
  match r with
  | some r =>
    let p := report r s
    updOp o.id (fun o => { o with records := [p.2], awaitVa := r.va }) p.1
  | none => s

/-- The access whose record was answered FAIL (R289). -/
def Op.failedAt (o : Op) : Option DWord := o.failed.map fun _ => o.awaitVa

/-- Whether the engine can not go on with a copy because of a pause of the link to a peer (R338). -/
def copyPaused (s : State) (o : Op) (j : CopyJob) : Bool :=
  match (copyRun (opEnv s o) o.failedAt j s).stop with
  | some (.wait none) => true
  | _ => false

/-- The engine performs a copy whole: the bytes before the failing point are written in ascending destination order (R158). -/
def copyNow (o : Op) (j : CopyJob) (s : State) : State :=
  let e := opEnv s o
  let r := copyRun e o.failedAt j s
  match r.stop with
  | some (.wait x) => engWait o x s
  | stop =>
    let s := engReport e stop (r.out.foldl (fun s p => wrBytes p.1 [p.2] s) r.s)
    match stop with
    | some (.ended c va _ _ _) => copyEnds o c va s
    | _ => copyEnds o 0 0 s

/-- The checks of an operand address at issue: alignment, home, window (R158, R143, R144); `sels` are the windows the entry allows. -/
def operandFault (s : State) (va : DWord) (al : Nat) (wr : Bool) (sels : Option (Nat → Bool)) : AccRes :=
  let home := va.toNat / 2 ^ 53
  let ok : AccRes := .ok ⟨.phys, 0, 0⟩ false []
  if va.toNat % al ≠ 0 then .bad 0x03 va
  else if 16 ≤ home || home = 9 || (12 ≤ home && home ≤ 14) then .bad 0x11 va
  else
    let here := match sels with | some p => home = 15 && p (fieldN va 40 13) | none => true
    if !here then .bad 0x11 va
    else if home = 15 then window s (envOf s) .copy va wr
    else ok

/-- The first operand whose check fails decides the fault (R158); UNF holds LIVE and C does not rise. -/
def withOperands (rs : List (DWord × AccRes)) (s : State) (body : State → State) : State :=
  let m := wholeOf s.grp
  match rs.find? fun r => match r.2 with | .ok _ _ _ => false | _ => true with
  | some (va, .uncorr) => trapHere 0x30 va m true (uncorrStep s)
  | some (_, .fault c v _ _) => trapHere c v m true s
  | _ => body s

/-- A copy is handed to the engine and counts in C (R158). -/
def copyGo (j : CopyJob) (s : State) : State :=
  withRoom .copy s fun s => retire (addOp (.copy j) false false none false (onGrp (takeCnt .copy) s))

/-- A 16-byte parameter block as bits. -/
def params128 (n : Nat) : BitVec 128 := BitVec.ofNat 128 n

/-- CPY (R158, R159): a length of 0 makes no access, and so none to an uncorrectable slot (R330). -/
def execCpy (d a rb : BitVec 7) (s : State) : Res :=
  .next (issue (.cpy d a rb) s fun s =>
    let x := getS s.grp d.toNat
    let y := getS s.grp a.toNat
    let n := fieldN (getS s.grp rb.toNat) 0 32
    let made := fun r : AccRes => if n = 0 && r = .uncorr then .ok ⟨.phys, 0, 0⟩ false [] else r
    withOperands [(x, made (operandFault s x 1 true none)), (y, made (operandFault s y 1 false none))] s fun s =>
      if n = 0 then retire s else copyGo (.cpy x y n) s)

/-- CPYM (R158, R159, R164). -/
def execCpym (d a rb : BitVec 7) (s : State) : Res :=
  .next (issue (.cpym d a rb) s fun s =>
    let x := getS s.grp d.toNat
    let y := getS s.grp a.toNat
    let z := getS s.grp rb.toNat
    withOperands [(x, operandFault s x 1 true (some fun n => n = 0)), (y, operandFault s y 1 false none)] s fun s =>
      withBlock z 2 s fun p s => copyGo (.cpym x y z (params128 p)) s)

/-- CPYD (R158-R160). -/
def execCpyd (d a rb : BitVec 7) (s : State) : Res :=
  .next (issue (.cpyd d a rb) s fun s =>
    let x := getS s.grp d.toNat
    let y := getS s.grp a.toNat
    withOperands [(x, operandFault s x 2 true (some fun n => n ≤ 0x18 || n = 0x20)), (y, operandFault s y 8 false none)] s fun s =>
      copyGo (.cpyd x y ((getS s.grp rb.toNat).extractLsb' 0 32)) s)

/-- CPYC (R158, R159, R161): the block says which alignment the source needs, which is therefore checked behind its read (log 9). -/
def execCpyc (d a rb : BitVec 7) (s : State) : Res :=
  .next (issue (.cpyc d a rb) s fun s =>
    let x := getS s.grp d.toNat
    let y := getS s.grp a.toNat
    let z := getS s.grp rb.toNat
    withOperands [(x, operandFault s x 8 true none), (y, operandFault s y 1 false (some fun n => n = 0 || n = 0x20))] s fun s =>
      withBlock z 2 s fun p s =>
        let et := p / 2 ^ 48 % 4
        if et < 2 && y.toNat % (if et = 0 then 2 else 4) != 0 then trapHere 0x03 y (wholeOf s.grp) true s
        else copyGo (.cpyc x y z (params128 p)) s)

/-- CPYG (R158, R159, R162). -/
def execCpyg (d a rb : BitVec 7) (s : State) : Res :=
  .next (issue (.cpyg d a rb) s fun s =>
    let x := getS s.grp d.toNat
    let y := getS s.grp a.toNat
    let z := getS s.grp rb.toNat
    withOperands [(x, operandFault s x 1 true none), (y, operandFault s y 1 false none)] s fun s =>
      withBlock z 2 s fun p s => copyGo (.cpyg x y z (params128 p)) s)

/-- CPYS (R158, R159, R163). -/
def execCpys (d a rb : BitVec 7) (s : State) : Res :=
  .next (issue (.cpys d a rb) s fun s =>
    let x := getS s.grp d.toNat
    let y := getS s.grp a.toNat
    let z := getS s.grp rb.toNat
    withOperands [(x, operandFault s x 1 true none), (y, operandFault s y 1 false none)] s fun s =>
      withBlock z 2 s fun p s => copyGo (.cpys x y z (params128 p)) s)

end Sys2Proof.Machine
end

