-- ==== Sys2Proof/Machine/Queue.lean ====
section
/-! DEFINITION. Queues (R167-R169) and tensors (R170-R172, R269-R273). -/

namespace Sys2Proof.Machine

/-- Whether a group still waits with a stall reason, or has its stall over and not issued yet, so that its place in a line of waiting groups counts; the
waits of a team that has ended are discarded (R298, R403). -/
def stillWaits (s : State) (r : Reason) (k : GKey) : Bool :=
  match findGroup s k with
  | some g => g.phase = .running && teamLives s k && ((!g.wait.begun && g.decoded.any fun d => d.reason = some r) || (r = .ctx && g.wait = .cxnew))
  | none => false

/-- Whether no other group stands before the issuing one in a line, oldest first (R167, R273). -/
def firstInLine (s : State) (r : Reason) (line : List GKey) : Bool :=
  match line.find? fun k => k = s.grp.key || stillWaits s r k with
  | some k => k = s.grp.key
  | none => true

/-- A line that a group joins at its end, if it does not stand in it. -/
def joinLine (k : GKey) (line : List GKey) : List GKey := if line.contains k then line else line ++ [k]

/-- A queue of the issuing group's team. -/
def queueOf (s : State) (n : Nat) : Queue := s.team.queues.getD n .initial

/-- Changes a queue of the issuing group's team. -/
def updQueue (n : Nat) (f : Queue → Queue) (s : State) : State := onTeam (fun t => { t with queues := t.queues.modify n f }) s

/-- The groups of a line of the team, as keys. -/
def lineKeys (s : State) (l : List Nat) : List GKey := l.map fun i => { s.grp.key with idx := i }

/-- The issuing group leaves the lines of every queue (R167). -/
def leaveQueues (s : State) : State :=
  let me := s.grp.key.idx
  onTeam (fun t => { t with queues := t.queues.map fun q => { q with
    pushers := q.pushers.filter fun i => i ≠ me
    poppers := q.poppers.filter fun i => i ≠ me } }) s

/-- The issuing group waits in a line of queue `n`; in a deterministic launch its attempt ends without effect (R167, R328). -/
def waitQueue (n : Nat) (push : Bool) (s : State) : State :=
  if s.grid.det then reattempt s
  else
    let q := queueOf s n
    let me := s.grp.key.idx
    if (if push then q.pushers else q.poppers).contains me then stall .queue s
    else stall .queue (updQueue n (fun q => if push then { q with pushers := q.pushers ++ [me] } else { q with poppers := q.poppers ++ [me] })
      (leaveQueues s))

/-- A push needs an allowance and room (R167). -/
def pushReady (q : Queue) : Bool := 1 ≤ q.allowance && decide (q.entries.length < 63)

/-- A push spends one allowance and appends an entry (R167, R168). -/
def pushEntry (v : DWord) (q : Queue) : Queue := { q with allowance := q.allowance - 1, entries := q.entries ++ [v] }

/-- QPUSH and QPUSHT behind their releases (R168, R169). -/
def pushStep (n : Nat) (v : DWord) (s : State) : State :=
  if pushReady (queueOf s n) && firstInLine s .queue (lineKeys s (queueOf s n).pushers) then
    retire (updQueue n (pushEntry v) (leaveQueues s))
  else waitQueue n true s

/-- A pop removes the oldest entry (R167, R168). -/
def popStep (d n : Nat) (s : State) : State :=
  match (queueOf s n).entries with
  | v :: rest =>
    if firstInLine s .queue (lineKeys s (queueOf s n).poppers) then
      retireWith (setS d v) (updQueue n (fun q => { q with entries := rest }) (leaveQueues s))
    else waitQueue n false s
  | [] => waitQueue n false s

/-- QINIT (R168, R253). -/
def execQinit (d : BitVec 4) (rb : BitVec 7) (s : State) : Res :=
  .next (issue (.qinit d rb) s fun s => commOp s fun s =>
    retire (updQueue d.toNat (fun q => { q with init := true, allowance := rb.toNat, entries := [] }) s))

/-- QPUSH: a release over the VEC path; its stalls have reason QUEUE (R168, R169, R253). -/
def execQpush (d : BitVec 4) (a : BitVec 7) (s : State) : Res :=
  .next (issue (.qpush d a) s fun s =>
    awaitOwn [.store, .atomic] s fun s => match vecPending true true s with
    | some _ => stall .queue s
    | none => commOp s (pushStep d.toNat (getS s.grp a.toNat)))

/-- QPUSHT: a release over the VEC and MTX paths (R168, R169, R253). -/
def execQpusht (d a : BitVec 4) (s : State) : Res :=
  .next (issue (.qpusht d a) s fun s =>
    awaitOwn [.store, .atomic] s fun s => match vecPending true true s with
    | some _ => stall .queue s
    | none =>
      match pathPending 2 s with
      | some _ => stall .queue s
      | none => commOp s (pushStep d.toNat (a.setWidth 64)))

/-- QPOP (R168, R169, R253). -/
def execQpop (d : BitVec 7) (a : BitVec 4) (s : State) : Res :=
  .next (issue (.qpop d a) s fun s => commOp s (popStep d.toNat a.toNat))

/-- QPOPT (R168, R169, R253). -/
def execQpopt (d : BitVec 7) (a : BitVec 4) (s : State) : Res :=
  .next (issue (.qpopt d a) s fun s => commOp s (popStep d.toNat a.toNat))

/-- An addition to an allowance stops at 63 (R167). -/
def allow (n : Nat) (q : Queue) : Queue := { q with allowance := min 63 (q.allowance + n) }

/-- QALLOW (R168, R253). -/
def execQallow (d : BitVec 4) (rb : BitVec 7) (s : State) : Res :=
  .next (issue (.qallow d rb) s fun s => commOp s fun s => retire (updQueue d.toNat (allow rb.toNat) s))

/-- Whether a tensor has a range in the tier of a home (R269, R272). -/
def Tensor.hasTier (t : Tensor) (home : Nat) : Bool :=
  if home ≤ 7 then (match t.hbmAt with | some h => h.1 = home | none => false)
  else if home = 8 then t.boardAt.isSome
  else home = 9 && t.flashAt.isSome

/-- Whether the tier's copy is held. -/
def Tensor.held (t : Tensor) (home : Nat) : Bool := if home ≤ 7 then t.hbm else if home = 8 then t.board else t.flash

/-- The source of a move (R270); 15 where no copy is held, and the move fails (log 10). -/
def Tensor.sourceFor (t : Tensor) (home : Nat) : Nat :=
  let die := match t.hbmAt with | some h => h.1 | none => 15
  if home ≤ 7 then (if t.board then 8 else if t.flash then 9 else 15)
  else if home = 8 then (if t.hbm then die else if t.flash then 9 else 15)
  else if t.hbm then die else if t.board then 8 else 15

/-- Whether a tensor's HBM range is in use, so that an overlapping range finds no room (R271). -/
def Tensor.usesHbm (t : Tensor) : Bool :=
  t.st = .resident || t.st = .evicting || (t.st = .moving && (decide (t.target ≤ 7) || decide (t.source ≤ 7)))

/-- The physical runs of a tensor's HBM range, as address and length (R271, R280): GPAs of its partition, of which those that do not
translate lie nowhere. -/
def hbmPlaces (s : State) (t : Tensor) : List (Nat × Nat) :=
  match t.hbmAt with
  | some p =>
    if t.part = 0 then [(p.2, t.size)]
    else (pieceRuns (BitVec.ofNat 64 p.2) t.size).filterMap fun x => match stage2 s t.part p.1 x.1.toNat false false with
      | .ok pa _ => some (pa, x.2)
      | _ => none
  | none => []

/-- The stage-2 entries with an uncorrectable error that the way to a tensor's HBM range meets. -/
def hbmErrs (s : State) (t : Tensor) : List Nat :=
  match t.hbmAt with
  | some p =>
    if t.part = 0 then []
    else ((pieceRuns (BitVec.ofNat 64 p.2) t.size).filterMap fun x => match stage2 s t.part p.1 x.1.toNat false false with
      | .ecc a => some a
      | _ => none).eraseDups
  | none => []

/-- The hank learns of the errors that the test for room meets in the tables of tensor `t` and of those whose ranges it compares (R257, R271). -/
def noteRoom (t : Tensor) (s : State) : State :=
  (t :: s.tensors.filter fun u => !(u.part = t.part && u.handle = t.handle) && u.usesHbm).foldl (fun x u =>
    (hbmErrs s u).foldl (fun x a => reportInfo u.part none (some (.table a)) x) x) s

/-- Whether the HBM ranges of two tensors overlap (R271). -/
def hbmOverlap (s : State) (t u : Tensor) : Bool :=
  match t.hbmAt, u.hbmAt with
  | some p, some q => p.1 = q.1 && (hbmPlaces s t).any fun x => (hbmPlaces s u).any fun y => decide (x.1 < y.1 + y.2) && decide (y.1 < x.1 + x.2)
  | _, _ => false

/-- The bytes of a partition's tensors on a die (R271). R271 says only 'resident bytes': that a tensor on its way into the HBM counts from the start of its
move is the choice of this model, log 41. -/
def residentBytes (s : State) (part die : Nat) : Nat :=
  (s.tensors.filter fun t => t.part = part && t.hasTier die && (t.hbm || (t.st = .moving && t.target = die))).foldl (fun n t => n + t.size) 0

/-- Whether a move of a tensor into HBM has room (R271); the PF has no quota (R369). -/
def hbmRoom (s : State) (t : Tensor) : Bool :=
  let die := match t.hbmAt with | some h => h.1 | none => 0
  (s.tensors.all fun u => (u.part = t.part && u.handle = t.handle) || !(u.usesHbm && hbmOverlap s t u)) &&
    (t.part = 0 || decide (residentBytes s t.part die + t.size ≤ (mget (partOf s t.part).hbmQuota die).toNat))

/-- What a request on a tensor answers: a status code and the tensor after it, or that it waits (R272). -/
inductive TenRes where
  | done (code : Nat) (t : Tensor)
  | waits
deriving DecidableEq, Repr

/-- TNMOV on a registered tensor (R271, R272). Of a RESIDENT tensor whose copy in the target tier is held, a move down is DONE and copies
nothing, as R272's row for a held copy has it, before its row for a move down: the choice of this model, log 41. -/
def tnmovRes (s : State) (home : Nat) (t : Tensor) : TenRes :=
  if !t.hasTier home then .done 9 t
  else match t.st with
  | .evicting => .waits
  | .moving => if t.target = home then .done 2 (if home ≤ 7 then { t with defer := false } else t) else .waits
  | _ =>
    if t.held home then .done 0 { t with defer := false }
    else if home ≤ 7 && !hbmRoom s t then .done 4 t
    else .done 1 { t with st := .moving, target := home, source := t.sourceFor home, records := [], broken := false }

/-- TNEVICT on a registered tensor (R272). -/
def tnevictRes (t : Tensor) : TenRes :=
  match t.st with
  | .evicting => .waits
  | .moving => if t.target ≤ 7 then .done 3 { t with defer := true } else .waits
  | .absent => .done (if t.board || t.flash then 0 else 9) t
  | .resident =>
    if !(t.board || t.flash) then .done 9 t
    else if t.pins = 0 then .done 0 { t with st := .evicting, defer := false }
    else .done 3 { t with defer := true }

/-- A deferred eviction starts once nothing pins the tensor (R272). -/
def startDeferred (t : Tensor) : Tensor :=
  if t.st = .resident && t.defer && t.pins = 0 then { t with st := .evicting, defer := false } else t

/-- A TEN instruction ends with its status (R170). -/
def tenEnd (d code : Nat) (s : State) : State :=
  retireWith (fun g => setCC (tensorCC code) (setS d (BitVec.ofNat 64 code) g)) s

/-- The handle of a TEN instruction (R170). -/
def handleOf (s : State) (a : BitVec 7) : Word := (getS s.grp a.toNat).extractLsb' 0 32

/-- The home and address of a tensor's range in a tier (R269). -/
def Tensor.rangeIn (t : Tensor) (home : Nat) : Option (Nat × Nat) :=
  if home ≤ 7 then t.hbmAt else if home = 8 then t.boardAt.map fun a => (8, a) else if home = 9 then t.flashAt.map fun a => (9, a) else none

/-- The bytes that a tensor's copy takes in a tier: in flash, whole pages of 16 KiB (R267). -/
def Tensor.lenIn (t : Tensor) (home : Nat) : Nat := if home = 9 then (t.size + 0x3FFF) / 0x4000 * 0x4000 else t.size

/-- The bytes of a target range hold values that nothing fixes until its move ends (R270, log 3). -/
def openTarget (t : Tensor) (s : State) : State :=
  match t.rangeIn t.target with
  | some (h, a) =>
    let n := t.lenIn t.target
    let s1 := (List.range n).foldl (fun u i =>
      match stage2 u t.part h (a + i) false true with
      | .ok pa gen => wrByte ⟨.phys, homeKey h pa, gen⟩ (Config.freeByte (s.fresh + i)) u
      | _ => u) s
    { s1 with fresh := s.fresh + n }
  | none => s

/-- Whether a stalled request still stands in the line of a tensor (R273): its group is still in that stall, or its packet has not ended. -/
def requestWaits (s : State) : Owner → Bool
  | .group k => stillWaits s .tensor k
  | .packet id => s.packets.any fun p => p.id = id && !p.finished

/-- Whether a request of `me` on a tensor is applied now (R272, R273): none stalls before it, or its answer depends on none of those that do:
the move in flight answers it, or no state of the tensor changes its answer. -/
def answered (s : State) (me : Owner) (f : Tensor → TenRes) (t : Tensor) : Bool :=
  (match t.waiters.find? fun o => o = me || requestWaits s o with | some o => o = me | none => true) ||
    t.st = .moving || f { t with st := .evicting } != .waits

/-- A request is stalled: it joins the tensor's line (R273). -/
def joinTensor (me : Owner) (t : Tensor) : Tensor := if t.waiters.contains me then t else { t with waiters := t.waiters ++ [me] }

/-- What a request does to its tensor where it is applied. Statuses 1 and 4 of a move into HBM come of the test for room. -/
def applyTo (part : Nat) (h : Word) (me : Owner) (code : Nat) (u : Tensor) (s : State) : State :=
  let s := if code = 4 || (code = 1 && decide (u.target ≤ 7)) then noteRoom u s else s
  let s := updTensor part h (fun _ => { u with waiters := u.waiters.filter fun o => o ≠ me }) s
  if code = 1 then openTarget u s else s

/-- A TEN request applied to its tensor, one at a time, the requests that stall in their order (R172, R272, R273). -/
def tenRequest (d : Nat) (h : Word) (f : Tensor → TenRes) (s : State) : State :=
  let part := s.grid.part
  let me := s.grp.key
  match findTensor s part h with
  | none => tenEnd d 6 s
  | some t =>
    match (if answered s (.group me) f t then f t else .waits) with
    | .waits => stall .tensor (updTensor part h (joinTensor (.group me)) s)
    | .done code u =>
      let ms := if code = 1 then [me] else if code = 2 || (u.st = .evicting && t.st != .evicting) then joinLine me u.movers else u.movers
      tenEnd d code (applyTo part h (.group me) code { u with movers := ms } s)

/-- TNMOV (R171, R272), behind the group's acquires, since the move is made for it (R243, R244). -/
def execTnmov (d a rb : BitVec 7) (s : State) : Res :=
  .next (issue (.tnmov d a rb) s fun s => acquired s fun s =>
    tenRequest d.toNat (handleOf s a) (tnmovRes s (fieldN (getS s.grp rb.toNat) 0 4)) s)

/-- TNPIN (R171, R272). -/
def execTnpin (d a : BitVec 7) (s : State) : Res :=
  .next (issue (.tnpin d a) s fun s =>
    let h := handleOf s a
    match findTensor s s.grid.part h with
    | none => tenEnd d.toNat 6 s
    | some t =>
      if t.pins = 65535 then tenEnd d.toNat 7 s
      else tenEnd d.toNat 0 (updTensor s.grid.part h (fun t => { t with pins := t.pins + 1 }) s))

/-- TNUNPIN: the pin count that reaches 0 starts a deferred eviction (R171, R272). -/
def execTnunpin (d a : BitVec 7) (s : State) : Res :=
  .next (issue (.tnunpin d a) s fun s =>
    let h := handleOf s a
    match findTensor s s.grid.part h with
    | none => tenEnd d.toNat 6 s
    | some t =>
      if t.pins = 0 then tenEnd d.toNat 8 s
      else tenEnd d.toNat 0 (updTensor s.grid.part h (fun t => startDeferred { t with pins := t.pins - 1 }) s))

/-- TNEVICT (R171, R272). -/
def execTnevict (d a : BitVec 7) (s : State) : Res :=
  .next (issue (.tnevict d a) s fun s => acquired s fun s => tenRequest d.toNat (handleOf s a) tnevictRes s)

/-- TNWAIT: FAILED where the last move failed; the group leaves its lane while it waits (R171, R272, R315). -/
def execTnwait (d a : BitVec 7) (s : State) : Res :=
  .next (issue (.tnwait d a) s fun s =>
    match findTensor s s.grid.part (handleOf s a) with
    | none => tenEnd d.toNat 6 s
    | some t =>
      if t.st = .moving || t.st = .evicting then
        suspend s.grp.key (stall .tensor (updTensor s.grid.part (handleOf s a) (fun t => { t with watchers := joinLine s.grp.key t.watchers }) s))
      else tenEnd d.toNat t.last s)

/-- The groups that TNWAIT has suspended on a tensor return to their lanes once no move and no eviction of it is in flight, and test it again
(R171, R315). -/
def wakeTensor (part : Nat) (h : Word) (s : State) : State :=
  match findTensor s part h with
  | some t =>
    if t.st = .moving || t.st = .evicting then s
    else (t.watchers.filter fun k => (findGroup s k).any fun g => g.wait = .stall .tensor && g.park.isNone).foldl (fun s k => unsuspend k s)
      (updTensor part h (fun t => { t with watchers := [] }) s)
  | none => s

/-- The code of a residency state (R171). -/
def TensorSt.code : TensorSt → Nat
  | .absent => 0
  | .moving => 1
  | .resident => 2
  | .evicting => 3

/-- The state word of TNSTAT (R171). -/
def tnstatWord (t : Tensor) : DWord :=
  BitVec.ofNat 64 (t.pins * 2 ^ 32 + t.last * 2 ^ 24 + t.st.code * 2 ^ 16 + (if t.st = .moving then t.target else 15) * 2 ^ 12 +
    bitOf t.board * 2 ^ 11 + bitOf t.flash * 2 ^ 10 + bitOf t.hbm * 2 ^ 9 + bitOf t.defer * 2 ^ 8)

/-- TNSTAT (R171). -/
def execTnstat (d a : BitVec 7) (s : State) : Res :=
  .next (issue (.tnstat d a) s fun s =>
    match findTensor s s.grid.part (handleOf s a) with
    | none => retireWith (fun g => setCC (ccOk false) (setS d.toNat 6 g)) s
    | some t => retireWith (fun g => setCC (ccOk true) (setS d.toNat (tnstatWord t) g)) s)

end Sys2Proof.Machine
end

