-- ==== Sys2Proof/Machine/Ctx.lean ====
section
/-! DEFINITION. Context tags (R206-R214). -/

namespace Sys2Proof.Machine

/-- The tag operand of a CTXI instruction (R207). -/
def tagOpnd (g : Group) (a : BitVec 7) : BitVec 16 := (getS g a.toNat).extractLsb' 0 16

/-- The tag of a partition, live or retiring; a tag of another partition reads as FREE (R211). -/
def ownTag (s : State) (n : BitVec 16) : Option Tag := (findTag s n).filter fun t => t.part = s.grid.part

/-- A tag's depth (R206). -/
def tagDepth (s : State) (n : BitVec 16) : Nat := match ownTag s n with | some t => t.depth | none => 0

/-- The lowest-numbered FREE tag (R206). -/
def lowestFree (s : State) : Option Nat := findFrom (fun n => s.tags.all fun t => t.tag.toNat != n) 1 65535

/-- Whether a partition's quota admits another live tag (R206, R369); the PF has none. -/
def tagRoom (s : State) (part : Nat) : Bool :=
  part = 0 || decide ((s.tags.filter fun t => t.part = part && !t.retiring).length < (partOf s part).tagQuota)

/-- The depth of a tag whichever partition it belongs to (R206). -/
def depthOf (s : State) (n : BitVec 16) : Nat := match findTag s n with | some t => t.depth | none => 0

/-- Whether a child of `p` may be allocated (R208). -/
def parentOk (s : State) (p : BitVec 16) : Bool := tagLive s s.grid.part p && tagDepth s p != 4

/-- The group leaves the line of those that wait for a tag. -/
def leaveCtx (s : State) : State := { s with ctxWaiters := s.ctxWaiters.filter fun k => k ≠ s.grp.key }

/-- The partition of a group. -/
def partOfKey (s : State) (k : GKey) : Nat := ((findGrid s k.launch).map (·.part)).getD 0

/-- Whether the issuing group is the oldest of those that wait and whose quota has room (R208, R368). -/
def firstForTag (s : State) : Bool :=
  firstInLine s .ctx (s.ctxWaiters.filter fun k => k = s.grp.key || tagRoom s (partOfKey s k))

/-- The issuing group waits in an instruction that has tested its conditions; the stall has reason CTX (R208, R209). Where it waits for other groups, a
deterministic launch counts the attempt in CLK (R328). -/
def ctxWait (others : Bool) (w : Wait) (s : State) : State :=
  onGrp (fun g => { g with
    wait := w, stallAt := if g.wait = w then g.stallAt else s.cycles, clk := if others && counts s then g.clk + 1 else g.clk }) s

/-- The allocation of R208. -/
def allocTag (d : Nat) (p : BitVec 16) (n : Nat) (s : State) : State :=
  let t : Tag := ⟨BitVec.ofNat 16 n, s.grid.part, s.grid.asid, p, tagDepth s p + 1, 0, false⟩
  retireWith (fun g => setCC (ccOk true) (setS d (BitVec.ofNat 64 n) g)) { leaveCtx s with tags := s.tags ++ [t] }

/-- CXNEW (R208): the parent is tested once, and then it waits for a free tag. -/
def execCxnew (d a : BitVec 7) (s : State) : Res :=
  .next (issue (.cxnew d a) s fun s =>
    let p := tagOpnd s.grp a
    if s.grp.wait != .cxnew && !parentOk s p then trapHere 0x15 (BitVec.ofNat 64 (p.toNat + (if depthOf s p = 4 then 0x10000 else 0))) (wholeOf s.grp) true s
    else match (if tagRoom s s.grid.part && firstForTag s then lowestFree s else none) with
    | some n => allocTag d.toNat p n s
    | none => ctxWait true .cxnew { s with ctxWaiters := joinLine s.grp.key s.ctxWaiters })

/-- CXTNEW (R208). -/
def execCxtnew (d a : BitVec 7) (s : State) : Res :=
  .next (issue (.cxtnew d a) s fun s =>
    let p := tagOpnd s.grp a
    let fail := fun c => retireWith (fun g => setCC c (setS d.toNat 0 g)) s
    if !parentOk s p then fail ⟨false, false, false, true⟩
    else match (if tagRoom s s.grid.part then lowestFree s else none) with
    | some n => allocTag d.toNat p n s
    | none => fail ⟨false, false, true, false⟩)

/-- Whether CXRET retires the tag (R209). -/
def mayRetire (s : State) (n : BitVec 16) : Bool :=
  match ownTag s n with
  | some t => !t.retiring && (s.tags.all fun c => c.parent != n || c.retiring) && decide (t.holders ≤ (if s.grp.ctx = n then 1 else 0))
  | none => false

/-- CXRET (R209): its conditions are tested once, and then it waits for the group's operations. A child that another group has made in the meantime has
its own conditions, and CXRET fails (R277: a live tag keeps its location): the choice of this model, log 41. -/
def execCxret (a : BitVec 7) (s : State) : Res :=
  .next (issue (.cxret a) s fun s =>
    let n := tagOpnd s.grp a
    let g := s.grp
    let done := decide (g.cntL + g.cntS + g.cntC + g.cntT = 0) && !(counts s && decide (0 < g.commS))
    let s := leaveCtx s
    if (g.wait != .cxret && (n = 0 || !mayRetire s n)) || (done && !mayRetire s n) then retireWith (setCC (ccOk false)) s
    else if !done then ctxWait (decide (0 < g.commS)) .cxret s
    else
      let parent := match ownTag s n with | some t => t.parent | none => 0
      let s := if g.ctx = n then joinTag parent (onGrp (fun g => { g with ctx := parent }) s) else s
      retireWith (setCC (ccOk true)) { s with tags := s.tags.map fun t => if t.tag = n then { t with retiring := true, holders := if g.ctx = n then 0 else t.holders } else t })

/-- CXSET (R210). -/
def execCxset (a : BitVec 7) (s : State) : Res :=
  .next (issue (.cxset a) s fun s =>
    let n := tagOpnd s.grp a
    if !tagLive s s.grid.part n then trapHere 0x15 (n.setWidth 64) (wholeOf s.grp) true s
    else retireWith (fun g => { g with ctx := n }) (joinTag n (leaveTag s.grp.ctx s)))

/-- The state word of a tag (R211). Tag 0 is LIVE, and its holders are the groups in it: those of the issuing group's partition, whose tags alone its groups
see, where R211 says only 'groups holding the tag as CTX' (the choice of this model, log 41). -/
def tagWord (s : State) (n : BitVec 16) : DWord :=
  if n = 0 then
    let hs := (allGroups s).filter fun g => g.phase != .retired && g.ctx = 0 && partOfKey s g.key = s.grid.part
    BitVec.ofNat 64 (min hs.length 65535 * 2 ^ 48 + 1 * 2 ^ 20)
  else match ownTag s n with
  | some t =>
    let cells := (s.cells.filter fun c => c.tag = n && c.made).length
    BitVec.ofNat 64 (min t.holders 65535 * 2 ^ 48 + min cells (2 ^ 24 - 1) * 2 ^ 24 + (if t.retiring then 2 else 1) * 2 ^ 20 +
      t.depth * 2 ^ 16 + t.parent.toNat)
  | none => 0

/-- CXGET (R211). -/
def execCxget (d a : BitVec 7) (s : State) : Res :=
  .next (issue (.cxget d a) s fun s =>
    let n := tagOpnd s.grp a
    retireWith (fun g => setCC (ccOk (tagLive s s.grid.part n)) (setS d.toNat (tagWord s n) g)) s)

/-- The ancestors of a tag, nearest first; chains are at most 4 deep (R206, R212). -/
def ancestors (s : State) (n : BitVec 16) : (fuel : Nat) → List (BitVec 16)
  | 0 => []
  | f + 1 => match findTag s n with
    | some t => t.parent :: ancestors s t.parent f
    | none => []

/-- Ancestors as the word of CXPAR (R212). -/
def ancestorWord : List (BitVec 16) → Nat
  | [] => 0
  | t :: ts => t.toNat + 2 ^ 16 * ancestorWord ts

/-- CXPAR (R212). -/
def execCxpar (d a : BitVec 7) (s : State) : Res :=
  .next (issue (.cxpar d a) s fun s =>
    let n := tagOpnd s.grp a
    if tagLive s s.grid.part n then
      retireWith (fun g => setCC (ccOk true) (setS d.toNat (BitVec.ofNat 64 (ancestorWord (ancestors s n 4))) g)) s
    else retireWith (fun g => setCC (ccOk false) (setS d.toNat 0 g)) s)

end Sys2Proof.Machine
end

