-- ==== Sys2Proof/Machine/Crypto.lean ====
section
/-! DEFINITION. The signatures of R1: SHA-512 and Ed25519 with SHA-512, which R375-R378 use. The specification names the two standard
functions and does not spell them out; their definitions are those of the standards that bear these names, FIPS 180-4 and RFC 8032
(PRESUMED, log 36). -/

namespace Sys2Proof.Machine

/-- The eight words of SHA-512's state. -/
structure Sha where
  a : DWord
  b : DWord
  c : DWord
  d : DWord
  e : DWord
  f : DWord
  g : DWord
  h : DWord
deriving DecidableEq, Repr

/-- The state before the first block. -/
def Sha.initial : Sha :=
  ⟨0x6A09E667F3BCC908, 0xBB67AE8584CAA73B, 0x3C6EF372FE94F82B, 0xA54FF53A5F1D36F1,
   0x510E527FADE682D1, 0x9B05688C2B3E6C1F, 0x1F83D9ABFB41BD6B, 0x5BE0CD19137E2179⟩

/-- The constants of the first 40 rounds. -/
def shaKeys0 : List DWord :=
  [0x428A2F98D728AE22, 0x7137449123EF65CD, 0xB5C0FBCFEC4D3B2F, 0xE9B5DBA58189DBBC,
   0x3956C25BF348B538, 0x59F111F1B605D019, 0x923F82A4AF194F9B, 0xAB1C5ED5DA6D8118,
   0xD807AA98A3030242, 0x12835B0145706FBE, 0x243185BE4EE4B28C, 0x550C7DC3D5FFB4E2,
   0x72BE5D74F27B896F, 0x80DEB1FE3B1696B1, 0x9BDC06A725C71235, 0xC19BF174CF692694,
   0xE49B69C19EF14AD2, 0xEFBE4786384F25E3, 0x0FC19DC68B8CD5B5, 0x240CA1CC77AC9C65,
   0x2DE92C6F592B0275, 0x4A7484AA6EA6E483, 0x5CB0A9DCBD41FBD4, 0x76F988DA831153B5,
   0x983E5152EE66DFAB, 0xA831C66D2DB43210, 0xB00327C898FB213F, 0xBF597FC7BEEF0EE4,
   0xC6E00BF33DA88FC2, 0xD5A79147930AA725, 0x06CA6351E003826F, 0x142929670A0E6E70,
   0x27B70A8546D22FFC, 0x2E1B21385C26C926, 0x4D2C6DFC5AC42AED, 0x53380D139D95B3DF,
   0x650A73548BAF63DE, 0x766A0ABB3C77B2A8, 0x81C2C92E47EDAEE6, 0x92722C851482353B]

/-- The constants of the last 40 rounds. -/
def shaKeys1 : List DWord :=
  [0xA2BFE8A14CF10364, 0xA81A664BBC423001, 0xC24B8B70D0F89791, 0xC76C51A30654BE30,
   0xD192E819D6EF5218, 0xD69906245565A910, 0xF40E35855771202A, 0x106AA07032BBD1B8,
   0x19A4C116B8D2D0C8, 0x1E376C085141AB53, 0x2748774CDF8EEB99, 0x34B0BCB5E19B48A8,
   0x391C0CB3C5C95A63, 0x4ED8AA4AE3418ACB, 0x5B9CCA4F7763E373, 0x682E6FF3D6B2B8A3,
   0x748F82EE5DEFB2FC, 0x78A5636F43172F60, 0x84C87814A1F0AB72, 0x8CC702081A6439EC,
   0x90BEFFFA23631E28, 0xA4506CEBDE82BDE9, 0xBEF9A3F7B2C67915, 0xC67178F2E372532B,
   0xCA273ECEEA26619C, 0xD186B8C721C0C207, 0xEADA7DD6CDE0EB1E, 0xF57D4F7FEE6ED178,
   0x06F067AA72176FBA, 0x0A637DC5A2C898A6, 0x113F9804BEF90DAE, 0x1B710B35131C471B,
   0x28DB77F523047D84, 0x32CAAB7B40C72493, 0x3C9EBE0A15C9BEBC, 0x431D67C49C100D4C,
   0x4CC5D4BECB3E42B6, 0x597F299CFC657E2A, 0x5FCB6FAB3AD6FAEC, 0x6C44198C4A475817]

/-- The word of the message schedule that follows sixteen others. -/
def shaNext (w : List DWord) : DWord :=
  let x := w.getD 1 0
  let y := w.getD 14 0
  let s0 := x.rotateRight 1 ^^^ x.rotateRight 8 ^^^ x >>> 7
  let s1 := y.rotateRight 19 ^^^ y.rotateRight 61 ^^^ y >>> 6
  w.getD 0 0 + s0 + w.getD 9 0 + s1

/-- One round, with the schedule's word and the round's constant. -/
def Sha.round (s : Sha) (w k : DWord) : Sha :=
  let s1 := s.e.rotateRight 14 ^^^ s.e.rotateRight 18 ^^^ s.e.rotateRight 41
  let ch := (s.e &&& s.f) ^^^ (~~~s.e &&& s.g)
  let t := s.h + s1 + ch + k + w
  let s0 := s.a.rotateRight 28 ^^^ s.a.rotateRight 34 ^^^ s.a.rotateRight 39
  let maj := (s.a &&& s.b) ^^^ (s.a &&& s.c) ^^^ (s.b &&& s.c)
  ⟨t + (s0 + maj), s.a, s.b, s.c, s.d + t, s.e, s.f, s.g⟩

/-- The rounds with the constants `ks`; `w` are the sixteen words of the schedule from the current one on. -/
def shaRounds : (ks : List DWord) → (w : List DWord) → Sha → Sha
  | [], _, s => s
  | k :: ks, w, s => shaRounds ks (w.drop 1 ++ [shaNext w]) (s.round (w.getD 0 0) k)

/-- The words of a block, eight bytes each, the most significant first. -/
def shaWords (bs : List Byte) : (n : Nat) → List DWord
  | 0 => []
  | n + 1 => BitVec.ofNat 64 (ofBytes (bs.take 8).reverse) :: shaWords (bs.drop 8) n

/-- A block of 128 bytes. -/
def Sha.block (s : Sha) (bs : List Byte) : Sha :=
  let t := shaRounds (shaKeys0 ++ shaKeys1) (shaWords bs 16) s
  ⟨s.a + t.a, s.b + t.b, s.c + t.c, s.d + t.d, s.e + t.e, s.f + t.f, s.g + t.g, s.h + t.h⟩

/-- `n` blocks. -/
def shaBlocks : (n : Nat) → List Byte → Sha → Sha
  | 0, _, s => s
  | n + 1, bs, s => shaBlocks n (bs.drop 128) (s.block (bs.take 128))

/-- A message with its padding: whole blocks. -/
def shaPad (m : List Byte) : List Byte :=
  m ++ 0x80 :: List.replicate ((239 - m.length % 128) % 128) 0 ++ (toBytes (m.length * 8) 16).reverse

/-- SHA-512 (R1, R375-R378): byte n of the digest is byte n of the value, the least significant first. -/
def sha512 (m : List Byte) : BitVec 512 :=
  let bs := shaPad m
  let s := shaBlocks (bs.length / 128) bs Sha.initial
  BitVec.ofNat 512 (ofBytes ([s.a, s.b, s.c, s.d, s.e, s.f, s.g, s.h].flatMap fun x => (toBytes x.toNat 8).reverse))

/-- The prime of Ed25519's field. -/
def edPrime : Nat := 2 ^ 255 - 19

/-- The order of its base point. -/
def edOrder : Nat := 2 ^ 252 + 27742317777372353535851937790883648493

/-- The curve's constant, -121665 / 121666. -/
def edD : Nat := 37095705934669439343138083508754565189542113879843219016388785533085940283555

/-- A power in the field, of an exponent of `n` bits. -/
def edPow : (n x e : Nat) → Nat
  | 0, _, _ => 1
  | n + 1, x, e =>
    let h := edPow n (x * x % edPrime) (e / 2)
    if e % 2 = 1 then x * h % edPrime else h

/-- A difference in the field. -/
def edSub (x y : Nat) : Nat := (x + (edPrime - y)) % edPrime

/-- The inverse in the field, 0 for 0. -/
def edInv (x : Nat) : Nat := edPow 255 x (edPrime - 2)

/-- A point of the curve: X/Z, Y/Z, and T = XY/Z. -/
structure EdPoint where
  x : Nat
  y : Nat
  z : Nat
  t : Nat
deriving DecidableEq, Repr

/-- The neutral point. -/
def EdPoint.zero : EdPoint := ⟨0, 1, 1, 0⟩

/-- The base point. -/
def EdPoint.base : EdPoint :=
  let x := 15112221349535400772501151409588531511454012693041857206046113283949847762202
  let y := 46316835694926478169428394003475163141307993866256225615783033603165251855960
  ⟨x, y, 1, x * y % edPrime⟩

/-- The sum of two points. -/
def EdPoint.add (p q : EdPoint) : EdPoint :=
  let a := edSub p.y p.x * edSub q.y q.x % edPrime
  let b := (p.y + p.x) * (q.y + q.x) % edPrime
  let c := 2 * p.t * q.t * edD % edPrime
  let d := 2 * p.z * q.z % edPrime
  let e := edSub b a
  let f := edSub d c
  let g := (d + c) % edPrime
  let h := (b + a) % edPrime
  ⟨e * f % edPrime, g * h % edPrime, f * g % edPrime, e * h % edPrime⟩

/-- A multiple of a point, of a factor of `n` bits. -/
def EdPoint.mul (p : EdPoint) : (n k : Nat) → EdPoint
  | 0, _ => .zero
  | n + 1, k =>
    let h := EdPoint.mul (p.add p) n (k / 2)
    if k % 2 = 1 then p.add h else h

/-- Whether two points are one. -/
def EdPoint.same (p q : EdPoint) : Bool :=
  p.x * q.z % edPrime = q.x * p.z % edPrime && p.y * q.z % edPrime = q.y * p.z % edPrime

/-- The 256 bits of a point: y, and the lowest bit of x on top. -/
def EdPoint.bits (p : EdPoint) : Nat :=
  let i := edInv p.z
  p.y * i % edPrime + p.x * i % edPrime % 2 * 2 ^ 255

/-- A square root in the field, if there is one. -/
def edRoot (a : Nat) : Option Nat :=
  let x := edPow 255 a ((edPrime + 3) / 8)
  let y := x * edPow 255 2 ((edPrime - 1) / 4) % edPrime
  if x * x % edPrime = a then some x else if y * y % edPrime = a then some y else none

/-- The point of 256 bits, if they name one. -/
def edPoint (v : Nat) : Option EdPoint :=
  let y := v % 2 ^ 255
  let sign := v / 2 ^ 255 % 2
  let yy := y * y % edPrime
  match edRoot (edSub yy 1 * edInv ((edD * yy + 1) % edPrime) % edPrime) with
  | none => none
  | some x =>
    if edPrime ≤ y || (x = 0 && sign = 1) then none
    else
      let x := if x % 2 = sign then x else edPrime - x
      some ⟨x, y, 1, x * y % edPrime⟩

/-- The factor by which a signature takes the signer's key. -/
def edChallenge (r key msg : List Byte) : Nat := (sha512 (r ++ key ++ msg)).toNat % edOrder

/-- Whether the 64 bytes of an Ed25519 signature of a message verify under the 32 bytes of a key (R1, R376). The standard lets a verifier
compare with or without the cofactor; the model compares with it (DESIGN CHOICE, log 36). -/
def edVerifies (key sig msg : List Byte) : Bool :=
  let r := sig.take 32
  let s := ofBytes (sig.drop 32)
  match edPoint (ofBytes key), edPoint (ofBytes r) with
  | some a, some p =>
    key.length = 32 && sig.length = 64 && decide (s < edOrder) &&
      ((EdPoint.base.mul 256 s).mul 4 8).same ((p.add (a.mul 256 (edChallenge r key msg))).mul 4 8)
  | _, _ => false

/-- The 64 bytes of the Ed25519 signature of a message with the private key `seed` of 32 bytes (R1, R378). -/
def edSign (seed msg : List Byte) : List Byte :=
  let h := (sha512 seed).toNat
  let a := h % 2 ^ 254 / 8 * 8 + 2 ^ 254
  let key := toBytes (EdPoint.base.mul 256 a).bits 32
  let r := (sha512 (toBytes (h / 2 ^ 256) 32 ++ msg)).toNat % edOrder
  let rs := toBytes (EdPoint.base.mul 256 r).bits 32
  rs ++ toBytes ((r + edChallenge rs key msg * a) % edOrder) 32

end Sys2Proof.Machine
end

