-- ==== Sys2Proof/Machine/Reel.lean ====
section
/-! DEFINITION. The reels (R215-R229, R333-R336): the nodes of a tree in its pool, the instructions at issue, and the steps that
REEL_STEP takes, one at a time. -/

namespace Sys2Proof.Machine

/-- A node's fields (R216). -/
structure Node where
  n : Nat
  w : Word
  p : Word
  vl : Nat
  nch : Nat
  exp : Bool
  pend : Bool
  term : Bool
  used : Bool
  first : Nat
  parent : Nat
  action : Nat
deriving DecidableEq, Repr

/-- A field of a record of bytes read as a number. -/
def numField (x lo len : Nat) : Nat := x / 2 ^ lo % 2 ^ len

/-- The node that 32 bytes hold (R216). -/
def nodeOf (x : Nat) : Node where
  n := numField x 0 32
  w := BitVec.ofNat 32 (numField x 32 32)
  p := BitVec.ofNat 32 (numField x 64 32)
  vl := numField x 96 16
  nch := numField x 112 8
  exp := x.testBit 120
  pend := x.testBit 121
  term := x.testBit 122
  used := x.testBit 123
  first := numField x 128 32
  parent := numField x 160 32
  action := numField x 192 32

/-- The 32 bytes of a node as a number (R216). -/
def nodeBits (x : Node) : Nat :=
  x.n + x.w.toNat * 2 ^ 32 + x.p.toNat * 2 ^ 64 + x.vl * 2 ^ 96 + x.nch * 2 ^ 112 + bitOf x.exp * 2 ^ 120 + bitOf x.pend * 2 ^ 121 +
    bitOf x.term * 2 ^ 122 + bitOf x.used * 2 ^ 123 + x.first * 2 ^ 128 + x.parent * 2 ^ 160 + x.action * 2 ^ 192

/-- The parent of a root (R216). -/
def noParent : Nat := 0xFFFFFFFF

/-- A free node: every field 0 (R226). -/
def Node.free : Node := ⟨0, 0, 0, 0, 0, false, false, false, false, 0, 0, 0⟩

/-- A node as allocation leaves it (R221, R224). -/
def Node.fresh (prior : Word) (parent action : Nat) : Node := ⟨0, 0, prior, 0, 0, false, false, false, true, 0, parent, action⟩

/-- The statuses of R219. -/
inductive ReelStatus where
  | ok | collide | terminal | expanded | batchFull | noRoot | noSpace | busy | noSlot | badParam
deriving DecidableEq, Repr

/-- The flags of a status (R219). -/
def ReelStatus.cc : ReelStatus → CC
  | .ok => ⟨true, false, false, false⟩
  | .collide => ⟨false, false, true, false⟩
  | .terminal => ⟨false, true, false, false⟩
  | .expanded => ⟨false, true, false, false⟩
  | .batchFull => ⟨false, false, false, true⟩
  | .noRoot => ⟨false, false, true, true⟩
  | .noSpace => ⟨false, true, true, false⟩
  | .busy => ⟨false, true, false, true⟩
  | .noSlot => ⟨false, false, true, false⟩
  | .badParam => ⟨false, false, false, true⟩

/-- The handle of a tree (R215, R334). -/
def treeHandle (t : Tree) : Nat := t.die * 256 + t.slot

/-- The reference of a node (R215). -/
def nodeRef (t : Tree) (i : Nat) : DWord := BitVec.ofNat 64 (i * 2 ^ 16 + treeHandle t)

/-- The live tree of the partition that a handle names (R215, R219). -/
def treeOf (s : State) (part h : Nat) : Option Tree :=
  s.trees.find? fun t => t.part = part && treeHandle t = h

/-- The tree and the index that a node reference names; whether the node is used is for a step to see (R215, R219). -/
def refOf (s : State) (part : Nat) (ref : DWord) : Option (Tree × Nat) :=
  if 2 ^ 40 ≤ ref.toNat then none
  else match treeOf s part (ref.toNat % 2 ^ 16) with
    | some t => let i := fieldN ref 16 24; if i < t.cap then some (t, i) else none
    | none => none

/-- Changes a tree. -/
def updTree (t : Tree) (f : Tree → Tree) (s : State) : State :=
  { s with trees := updFirst (fun x => x.die = t.die ∧ x.slot = t.slot) f s.trees }

/-- How an access of a reel to a pool ends short: a fault that the instruction's group takes, or a record to wait for. -/
inductive PoolStop where
  | trap (cause : BitVec 8) (va : DWord) (info : Option FaultRec) (ecc : Option EccAt)
  | wait (r : FaultRec)
deriving DecidableEq, Repr

/-- A pool as a step reaches it: by page number of its addresses, the place of the page. -/
abbrev PoolView := List (Nat × Loc)

/-- Translates pieces of a pool (R285), each within a page. `failed` is the piece whose record was answered FAIL, and its fault (R289). -/
def poolView (part : Nat) (asid : BitVec 16) (die : Nat) (rd wr : Bool) (failed : Option (DWord × BitVec 8)) : List (DWord × Nat) → State → State × PoolView × Option PoolStop
  | [], s => (s, [], none)
  | c :: cs, s =>
    match failed.bind fun f => if f.1 = c.1 then some f.2 else none with
    | some cause => (s, [], some (.trap cause c.1 none none))
    | none =>
    match translate s part asid c.1 rd wr false false (BitVec.ofNat 11 (die * 256)) with
    | .trap cause info ecc => (s, [], some (.trap cause c.1 info (ecc.map .table)))
    | .park r => (s, [], some (.wait r))
    | .ok home pa gen _ _ fill =>
      let l : Loc := ⟨.phys, homeKey home pa, gen⟩
      if rd && hasEcc s l c.2 then (s, [], some (.trap 0x70 c.1 none (some (.data l))))
      else
        let r := poolView part asid die rd wr failed cs (tlbFill fill s)
        (r.1, (c.1.toNat / 4096, { l with off := l.off - c.1.toNat % 4096 }) :: r.2.1, r.2.2)

/-- The address of a node (R216). -/
def nodeVa (t : Tree) (i : Nat) : DWord := t.pool + BitVec.ofNat 64 (i * 32)

/-- The place of a node. -/
def nodeLoc (t : Tree) (v : PoolView) (i : Nat) : Loc :=
  let va := (nodeVa t i).toNat
  match v.find? fun p => p.1 = va / 4096 with
  | some p => p.2.add (va % 4096)
  | none => ⟨.phys, va, 0⟩

/-- Reads a node. -/
def rdNode (s : State) (t : Tree) (v : PoolView) (i : Nat) : Node := nodeOf (rdNat s (nodeLoc t v i) 32)

/-- Writes a node. -/
def wrNode (t : Tree) (v : PoolView) (i : Nat) (x : Node) (s : State) : State := wrBytes (nodeLoc t v i) (toBytes (nodeBits x) 32) s

/-- The partition of an operation's group. -/
def Op.part (s : State) (o : Op) : Nat :=
  match o.owner with
  | .group k => ((findGrid s k.launch).map (·.part)).getD 0
  | .packet _ => 0

/-- An operation that its group waits for ends: the group goes on with `act`; where its team has ended nothing of it goes on (R298). -/
def resumeOp (o : Op) (act : State → State) (s : State) : State :=
  let s := dropOp o.id s
  match o.owner with
  | .packet _ => s
  | .group k =>
    match findGroup s k, findTeam s (tkeyOf k) with
    | some g, some t => if t.phase = .ended || g.phase != .running then endedRelease t.key s else asGroup k act s
    | _, _ => s

/-- The same for an operation that is a communication operation of a deterministic launch (R205, R253). -/
def counted (act : State → State) (s : State) : State := if s.grid.det then noteProgress s.grid.id (act s) else act s

/-- A reel instruction ends with a status and its value (R219). -/
def reelEnd (o : Op) (d : Nat) (v : DWord) (c : CC) (s : State) : State :=
  resumeOp o (counted (retireWith fun g => setCC c (setS d v g))) s

/-- A reel instruction ends with a fault (R219, R220): REPLAY 1, UNF = LIVE. -/
def reelTrap (o : Op) (cause : BitVec 8) (tval : DWord) (s : State) : State :=
  resumeOp o (fun s => trapHere cause tval (wholeOf s.grp) true s) s

/-- Where the job of a reel operation stands after a step. -/
def reelNext (o : Op) (die d : Nat) (j : ReelJob) (s : State) : State :=
  updOp o.id (fun o => { o with kind := .reel die d j, failed := none }) s

/-- Reaches pieces of a tree's pool for a step; `undo` is what a fault takes back first. -/
def withPool (o : Op) (t : Tree) (rd wr : Bool) (cs : List (DWord × Nat)) (undo : State → State) (s : State) (body : PoolView → State → State) : State :=
  let r := poolView t.part t.asid t.die rd wr (o.failed.map fun c => (o.awaitVa, c)) cs s
  match r.2.2 with
  | none => body r.2.1 r.1
  | some (.wait q) => let p := report q r.1; updOp o.id (fun o => { o with records := [p.2], failed := none, awaitVa := q.va }) p.1
  | some (.trap c va info ecc) => reelTrap o c va (undo (reportInfo t.part info ecc r.1))

/-- The piece of one node. -/
def nodeRun (t : Tree) (i : Nat) : List (DWord × Nat) := [(nodeVa t i, 32)]

/-- Reaches nodes that a step writes, once it knows which: a step that only reads needs R alone (R285). -/
def withNodes (o : Op) (t : Tree) (is : List Nat) (undo : State → State) (s : State) (body : PoolView → State → State) : State :=
  withPool o t false true (is.flatMap (nodeRun t)) undo s body

/-- Whether a node named by a running tree's index is used. -/
def usedAt (s : State) (t : Tree) (v : PoolView) (i : Nat) : Bool := (rdNode s t v i).used

/-- The lowest index that starts a run of `count` free nodes (R224). -/
def freeRun (s : State) (t : Tree) (v : PoolView) (count : Nat) : Option Nat :=
  findFrom (fun i => decide (i + count ≤ t.cap) && (List.range count).all fun j => !usedAt s t v (i + j)) 0 t.cap

/-- The nodes from a node down, itself first; `fuel` bounds the depth (R226). -/
def subtree (s : State) (t : Tree) (v : PoolView) : (fuel : Nat) → (i : Nat) → List Nat
  | 0, _ => []
  | f + 1, i =>
    let x := rdNode s t v i
    i :: (List.range x.nch).flatMap fun j => subtree s t v f (x.first + j)

/-- Whether a descent may still stand on one of the nodes (R226, R335). -/
def treeBusy (s : State) (t : Tree) (v : PoolView) (is : List Nat) : Bool :=
  t.reserved != 0 || is.any fun i => let x := rdNode s t v i; x.used && (x.pend || x.vl != 0)

/-- Frees nodes, and takes their batch entries away (R226). -/
def freeNodes (t : Tree) (v : PoolView) (is : List Nat) (s : State) : State :=
  updTree t (fun t => { t with batch := t.batch.filter fun b => !is.contains b }) (is.foldl (fun s i => wrNode t v i .free s) s)

/-- An FP32 operation of R223 and R225: round to nearest even, subnormals kept. -/
def r32 (x : Word) : FVal := ofBits fp32 false x.toNat
/-- See `r32`. -/
def radd (x y : Word) : Word := w32 (fsum fp32 0 false [r32 x, r32 y])
/-- See `r32`. -/
def rneg (x : Word) : Word := x ^^^ 0x80000000
/-- See `r32`. -/
def rsub (x y : Word) : Word := w32 (fsum fp32 0 false [r32 x, (r32 y).neg])
/-- See `r32`. -/
def rmul (x y : Word) : Word := w32 (toBits fp32 0 false ((r32 x).mul (r32 y)))
/-- See `r32`. -/
def rdiv (x y : Word) : Word := w32 (fdiv fp32 0 false (r32 x) (r32 y))
/-- fp32(x) of R223. -/
def rofNat (n : Nat) : Word := w32 (toBits fp32 0 false (.fin false n 0))

/-- The parent's term of R223. -/
def parentTerm (x : Node) : Word := w32 (fsqrt fp32 0 false (r32 (rofNat (x.n + x.vl))))

/-- The score of a child (R223). -/
def score (t : Tree) (sq : Word) (c : Node) : Word :=
  let nv := c.n + c.vl
  let q := if nv = 0 then t.fpu else rdiv (rsub c.w (rmul (rofNat c.vl) t.vlv)) (rofNat nv)
  let u := rdiv (rmul (rmul t.cpuct c.p) sq) (radd 0x3F800000 (rofNat nv))
  radd q u

/-- The better of the best child so far and the next one (R223). -/
def better (best : Option (Nat × Word)) (c : Nat) (x : Word) : Nat × Word :=
  match best with
  | none => (c, x)
  | some b =>
    if (r32 b.2).isNan then (if (r32 x).isNan then b else (c, x))
    else if fcmp (r32 x) (r32 b.2) = some .gt then (c, x) else b

/-- VL one higher, saturating (R222). -/
def vlUp (x : Node) : Node := { x with vl := min (x.vl + 1) 65535 }

/-- VL one lower, not below 0 (R222, R225). -/
def vlDown (x : Node) : Node := { x with vl := x.vl - 1 }

/-- The reserved batch entry is released (R222). -/
def release (t : Tree) (s : State) : State := updTree t (fun t => { t with reserved := t.reserved - 1 }) s

/-- Where a descent goes once it has chosen child `c` (R222). -/
def descTo (t : Tree) (c : Nat) (path : List Nat) : DescSt := if t.novl then .at c (path ++ [c]) else .lose c (path ++ [c])

/-- Whether a tree is the one in which an instruction has begun, if it has (R336). -/
def sameTree (tree : Option Nat) (t : Tree) : Bool := tree.getD t.id = t.id

/-- One step of TRDESC (R222, R335). Where the tree ends between two of its steps, as it can for a launch that did not make it, it ends with
TREE_BADNODE (DESIGN CHOICE, log 41). A trap at an access to the pool gives back the entry that the descent has reserved, and keeps the virtual losses
that it has added on its way, where R335 is silent: the choice of this model, log 41. -/
def descStep (o : Op) (die d : Nat) (h : DWord) (st : DescSt) (tree : Option Nat) (s : State) : State :=
  match (treeOf s (o.part s) h.toNat).filter (sameTree tree) with
  | none => reelTrap o 0x41 h s
  | some t =>
    let go := fun st s => reelNext o die d (.desc h st (some t.id)) s
    match st with
    | .start =>
      match t.root with
      | none => reelEnd o d 0 ReelStatus.noRoot.cc s
      | some n =>
        if t.bcap ≤ t.batch.length + t.reserved then reelEnd o d 0 ReelStatus.batchFull.cc s
        else
          let reserve := updTree t fun t => { t with reserved := t.reserved + 1 }
          if t.novl then go (.at n [n]) (reserve s)
          else withPool o t true true (nodeRun t n) id s fun v s =>
            go (.at n [n]) (wrNode t v n (vlUp (rdNode s t v n)) (reserve s))
    | .lose n path =>
      withPool o t true true (nodeRun t n) (release t) s fun v s => go (.at n path) (wrNode t v n (vlUp (rdNode s t v n)) s)
    | .at n path =>
      withPool o t true false (nodeRun t n) (release t) s fun v s =>
        let x := rdNode s t v n
        if x.exp then
          if x.nch = 0 then go (descTo t x.first path) s else go (.pick x.first x.nch (parentTerm x) 0 none path) s
        else if x.term then reelEnd o d (nodeRef t n) ReelStatus.terminal.cc (release t s)
        else if x.pend then
          (if t.novl then reelEnd o d (nodeRef t n) ReelStatus.collide.cc (release t s)
          else go (.undo path.reverse n) (release t s))
        else withNodes o t [n] (release t) s fun v s =>
          reelEnd o d (nodeRef t n) ReelStatus.ok.cc
            (updTree t (fun t => { t with batch := t.batch ++ [n], reserved := t.reserved - 1 }) (wrNode t v n { x with pend := true } s))
    | .pick first nch sq i best path =>
      withPool o t true false (nodeRun t (first + i)) (release t) s fun v s =>
        let b := better best (first + i) (score t sq (rdNode s t v (first + i)))
        if nch ≤ i + 1 then go (descTo t b.1 path) s else go (.pick first nch sq (i + 1) (some b) path) s
    | .undo [] leaf => reelEnd o d (nodeRef t leaf) ReelStatus.collide.cc s
    | .undo (m :: rest) leaf =>
      withPool o t true true (nodeRun t m) id s fun v s =>
        let s := wrNode t v m (vlDown (rdNode s t v m)) s
        if rest.isEmpty then reelEnd o d (nodeRef t leaf) ReelStatus.collide.cc s else go (.undo rest leaf) s

/-- One step of TRBACK (R225). Where the tree ends between two of its steps it ends with TREE_BADNODE, behind the updates it has made (DESIGN
CHOICE, log 41). -/
def backStep (o : Op) (die d : Nat) (ref : DWord) (val : Word) (neg : Bool) (at_ : Option Nat) (tree : Option Nat) (s : State) : State :=
  match (refOf s (o.part s) ref).filter fun p => sameTree tree p.1 with
  | none => reelTrap o 0x41 ref s
  | some (t, leaf) =>
    let n := at_.getD leaf
    withPool o t true false (nodeRun t n) id s fun v s =>
      let x := rdNode s t v n
      if at_.isNone && !x.used then reelTrap o 0x41 ref s
      else withNodes o t [n] id s fun v s =>
        let y := vlDown { x with pend := x.pend && at_.isSome, n := min (x.n + 1) (2 ^ 32 - 1), w := radd x.w val }
        let s := wrNode t v n y s
        if x.parent = noParent then reelEnd o d 0 ReelStatus.ok.cc s
        else reelNext o die d (.back ref (if neg then rneg val else val) neg (some x.parent) (some t.id)) s

/-- A step on a whole tree that a node reference names, which it reads: the node must be used (R219, R220). -/
def wholeStep (o : Op) (ref : DWord) (s : State) (body : Tree → Nat → PoolView → State → State) : State :=
  match refOf s (o.part s) ref with
  | none => reelTrap o 0x41 ref s
  | some (t, n) =>
    withPool o t true false (poolRuns t) id s fun v s => if usedAt s t v n then body t n v s else reelTrap o 0x41 ref s

/-- The same for a handle. -/
def treeStep (o : Op) (h : DWord) (s : State) (body : Tree → PoolView → State → State) : State :=
  match treeOf s (o.part s) h.toNat with
  | none => reelTrap o 0x41 h s
  | some t => withPool o t true false (poolRuns t) id s (body t)

/-- NOSPACE, or TREE_NOSPACE in the `.f` forms (R219). -/
def noSpace (o : Op) (d : Nat) (f : Bool) (operand : DWord) (s : State) : State :=
  if f then reelTrap o 0x40 operand s else reelEnd o d 0 ReelStatus.noSpace.cc s

/-- TRROOT (R221). -/
def rootStep (o : Op) (d : Nat) (h : DWord) (f : Bool) (s : State) : State :=
  treeStep o h s fun t v s =>
    match t.root with
    | some n => reelEnd o d (nodeRef t n) ReelStatus.ok.cc s
    | none =>
      match freeRun s t v 1 with
      | none => noSpace o d f h s
      | some n => withNodes o t [n] id s fun v s =>
        reelEnd o d (nodeRef t n) ReelStatus.ok.cc
          (updTree t (fun t => { t with root := some n }) (wrNode t v n (.fresh 0x3F800000 noParent 0) s))

/-- TREXP (R224). -/
def expStep (o : Op) (d : Nat) (ref : DWord) (count : Nat) (priors actions : List Word) (f : Bool) (s : State) : State :=
  wholeStep o ref s fun t n v s =>
    let x := rdNode s t v n
    if x.exp then reelEnd o d (nodeRef t x.first) ReelStatus.expanded.cc s
    else if x.term then reelEnd o d (nodeRef t n) ReelStatus.expanded.cc s
    else if count = 0 then withNodes o t [n] id s fun v s => reelEnd o d (nodeRef t n) ReelStatus.ok.cc (wrNode t v n { x with term := true } s)
    else match freeRun s t v count with
      | none => noSpace o d f ref s
      | some c => withNodes o t (n :: (List.range count).map fun i => c + i) id s fun v s =>
        let s := (List.range count).foldl (fun s i => wrNode t v (c + i) (.fresh (priors.getD i 0) n (actions.getD i 0).toNat) s) s
        reelEnd o d (nodeRef t c) ReelStatus.ok.cc (wrNode t v n { x with first := c, nch := count, exp := true } s)

/-- TRREUSE (R226). -/
def reuseStep (o : Op) (d : Nat) (ref : DWord) (s : State) : State :=
  wholeStep o ref s fun t c v s =>
    if t.root = some c then reelEnd o d (nodeRef t c) ReelStatus.ok.cc s
    else
      let keep := subtree s t v t.cap c
      let out := (List.range t.cap).filter fun i => !keep.contains i && usedAt s t v i
      if treeBusy s t v out then reelEnd o d 0 ReelStatus.busy.cc s
      else withNodes o t (out ++ [c]) id s fun v s =>
        let x := rdNode s t v c
        let s := wrNode t v c { x with parent := noParent } (freeNodes t v out s)
        reelEnd o d (nodeRef t c) ReelStatus.ok.cc (updTree t (fun t => { t with root := some c }) s)

/-- TRFREE.t (R226, R336). -/
def freeTreeStep (o : Op) (d : Nat) (h : DWord) (s : State) : State :=
  treeStep o h s fun t v s =>
    if treeBusy s t v (List.range t.cap) then reelEnd o d 0 ReelStatus.busy.cc s
    else reelEnd o d 0 ReelStatus.ok.cc { s with trees := s.trees.filter fun x => ¬ (x.die = t.die ∧ x.slot = t.slot) }

/-- TRFREE (R226). -/
def freeStep (o : Op) (d : Nat) (ref : DWord) (s : State) : State :=
  wholeStep o ref s fun t n v s =>
    let sub := subtree s t v t.cap n
    if treeBusy s t v sub then reelEnd o d 0 ReelStatus.busy.cc s
    else if t.root = some n then
      let all := (List.range t.cap).filter fun i => usedAt s t v i
      withNodes o t all id s fun v s => reelEnd o d 0 ReelStatus.ok.cc (updTree t (fun t => { t with root := none }) (freeNodes t v all s))
    else
      let x := rdNode s t v n
      withNodes o t sub id s fun v s => reelEnd o d 0 ReelStatus.ok.cc
        (wrNode t v n { x with exp := false, term := false, nch := 0, first := 0 } (freeNodes t v (sub.filter fun i => i ≠ n) s))

/-- TRLEAF (R227). -/
def leafStep (o : Op) (d : Nat) (h : DWord) (most : Nat) (out : List Loc) (s : State) : State :=
  match treeOf s (o.part s) h.toNat with
  | none => reelTrap o 0x41 h s
  | some t =>
    let got := t.batch.take most
    let s := (out.zip got).foldl (fun s p => wrBytes p.1 (toBytes (nodeRef t p.2).toNat 8) s) s
    reelEnd o d (BitVec.ofNat 64 got.length) (ccOk (got.length != 0)) (updTree t (fun t => { t with batch := t.batch.drop most }) s)

/-- The tree word of TRSTAT (R228). -/
def treeWord (s : State) (t : Tree) (v : PoolView) : DWord :=
  let free := ((List.range t.cap).filter fun i => !usedAt s t v i).length
  BitVec.ofNat 64 (t.root.getD noParent + min free (2 ^ 24 - 1) * 2 ^ 32 + t.batch.length * 2 ^ 56)

/-- TRSTAT (R228). -/
def statStep (o : Op) (d : Nat) (ref : DWord) (k : Nat) (s : State) : State :=
  if k = 4 then
    match treeOf s (o.part s) (ref.toNat % 2 ^ 16) with
    | none => reelTrap o 0x41 ref s
    | some t => withPool o t true false (poolRuns t) id s fun v s => reelEnd o d (treeWord s t v) ReelStatus.ok.cc s
  else match refOf s (o.part s) ref with
    | none => reelTrap o 0x41 ref s
    | some (t, n) =>
      withPool o t true false (nodeRun t n) id s fun v s =>
        if usedAt s t v n then reelEnd o d (BitVec.ofNat 64 (rdNat s ((nodeLoc t v n).add (8 * k)) 8)) ReelStatus.ok.cc s
        else reelTrap o 0x41 ref s

/-- The tree that a parameter block of TRNEW describes, in the lowest free slot of its reel (R217, R334). -/
def newTree (s : State) (g : Grid) (p : BitVec 256) : Tree where
  id := s.nextTree
  die := numField p.toNat 53 4
  slot := (findFrom (fun n => s.trees.all fun t => t.die != numField p.toNat 53 4 || t.slot != n) 0 64).getD 64
  part := g.part
  asid := g.asid
  launch := g.id
  pool := p.extractLsb' 0 64
  cap := numField p.toNat 64 32
  cpuct := p.extractLsb' 96 32
  vlv := p.extractLsb' 128 32
  fpu := p.extractLsb' 160 32
  bcap := numField p.toNat 192 8
  novl := p.toNat.testBit 200
  root := none
  batch := []
  reserved := 0

/-- Whether the values of a block are within their limits (R217). -/
def paramsOk (p : BitVec 256) (t : Tree) : Bool :=
  numField p.toNat 201 55 = 0 && 1 ≤ t.bcap && 2 ≤ t.cap && decide (t.cap ≤ 2 ^ 24) && decide (t.pool.toNat % 32 = 0) &&
    decide (t.pool.toNat < 2 ^ 56)

/-- Whether a pool lies in a context-tagged region (R217). -/
def poolCt (s : State) (t : Tree) : Bool :=
  (poolRuns t).any fun c => match translate s t.part t.asid c.1 false true false false 0 with
    | .ok _ _ _ ct _ _ => ct
    | _ => false

/-- Whether the pools of two trees of an address space share an address (R217). -/
def overlapsPool (t x : Tree) : Bool :=
  decide (x.part = t.part) && decide (x.asid = t.asid) && decide (x.pool.toNat < t.pool.toNat + 32 * t.cap) &&
    decide (t.pool.toNat < x.pool.toNat + 32 * x.cap)

/-- The pool as runs of places. -/
def poolPlaces (t : Tree) (v : PoolView) : List (Loc × Nat) := (poolRuns t).map fun c =>
  match v.find? fun p => p.1 = c.1.toNat / 4096 with
  | some p => (p.2.add (c.1.toNat % 4096), c.2)
  | none => (⟨.phys, c.1.toNat, 0⟩, c.2)

/-- Writes zero to `n` bytes of physical memory, at most a page. -/
def zeroRun (l : Loc) (n : Nat) (s : State) : State := wrBytes l (List.replicate n 0) s

/-- TRNEW (R217, R334). The partition's quota bounds its trees on the die as the 64 slots do (R369). -/
def newStep (o : Op) (d : Nat) (p : BitVec 256) (s : State) : State :=
  match o.owner with
  | .packet _ => s
  | .group k =>
    let g := (findGrid s k.launch).getD .initial
    let t := newTree s g p
    if !paramsOk p t || s.trees.any (overlapsPool t) then reelEnd o d 0 ReelStatus.badParam.cc s
    else
      let ct := poolCt s t
      withPool o t false true (poolRuns t) id s fun v s =>
      let mine := (s.trees.filter fun x => x.die = t.die && x.part = t.part).length
      if ct || ((poolPlaces t v).any fun c => inPool s c.1 c.2) then reelEnd o d 0 ReelStatus.badParam.cc s
      else if 64 ≤ t.slot || (t.part != 0 && decide ((partOf s t.part).treeQuota ≤ mine)) then reelEnd o d 0 ReelStatus.noSlot.cc s
      else
        let s := (poolPlaces t v).foldl (fun s c => zeroRun c.1 c.2 s) { s with trees := s.trees ++ [t], nextTree := s.nextTree + 1 }
        reelEnd o d (BitVec.ofNat 64 (treeHandle t)) ReelStatus.ok.cc s

/-- The next step of a reel operation (R220). -/
def reelStep (o : Op) (die d : Nat) (j : ReelJob) (s : State) : State :=
  match j with
  | .new p => newStep o d p s
  | .root h f => rootStep o d h f s
  | .desc h st tree => descStep o die d h st tree s
  | .exp ref count priors actions f => expStep o d ref count priors actions f s
  | .back ref v neg at_ tree => backStep o die d ref v neg at_ tree s
  | .reuse ref => reuseStep o d ref s
  | .free ref whole => if whole then freeTreeStep o d ref s else freeStep o d ref s
  | .leaf h most out => leafStep o d h most out s
  | .stat ref k => statStep o d ref k s

/-- A reel instruction is handed to its reel, and the group waits for its last step (R197, R218, R220). -/
def reelGo (die d : Nat) (j : ReelJob) (s : State) : State :=
  let id := s.nextOp
  onGrp (fun g => { g with wait := .reel id }) (addOp (.reel die d j) false false none false s)

/-- The die that a handle or a reference names (R215). -/
def dieIn (x : DWord) : Nat := fieldN x 8 3

/-- A 32-byte parameter block or another block of words at an 8-aligned address (R217, R224). -/
def alignedBlock (va : DWord) (words : Nat) (s : State) (body : Nat → State → State) : State :=
  if va.toNat % 8 ≠ 0 then trapHere 0x03 va (wholeOf s.grp) true s else withBlock va words s body

/-- TRNEW (R217-R219). -/
def execTrnew (d a : BitVec 7) (s : State) : Res :=
  .next (issue (.trnew d a) s fun s => commOp s fun s =>
    alignedBlock (getS s.grp a.toNat) 4 s fun p s =>
      reelGo (numField p 53 4) d.toNat (.new (BitVec.ofNat 256 p)) s)

/-- TRROOT (R221). -/
def execTrroot (d a : BitVec 7) (rb : BitVec 1) (s : State) : Res :=
  .next (issue (.trroot d a rb) s fun s => commOp s fun s =>
    let h := getS s.grp a.toNat
    reelGo (dieIn h) d.toNat (.root h (rb = 1)) s)

/-- TRDESC (R222). -/
def execTrdesc (d a : BitVec 7) (s : State) : Res :=
  .next (issue (.trdesc d a) s fun s => commOp s fun s =>
    let h := getS s.grp a.toNat
    reelGo (dieIn h) d.toNat (.desc h .start none) s)

/-- The words of 32 bits of a block from bit `lo` on. -/
def blockWords (x lo count : Nat) : List Word := (List.range count).map fun i => BitVec.ofNat 32 (numField x (lo + 32 * i) 32)

/-- TREXP (R224). -/
def execTrexp (d a : BitVec 7) (rb : BitVec 1) (s : State) : Res :=
  .next (issue (.trexp d a rb) s fun s => commOp s fun s =>
    let va := getS s.grp d.toNat
    let ref := getS s.grp a.toNat
    alignedBlock va 1 s fun hd s =>
      if 256 ≤ hd then trapHere 0x01 (wordVal (.trexp d a rb)) (wholeOf s.grp) false s
      else withBlock (va + 8) hd s fun x s =>
        reelGo (dieIn ref) d.toNat (.exp ref hd (blockWords x 0 hd) (blockWords x (32 * hd) hd) (rb = 1)) s)

/-- TRBACK (R225). -/
def execTrback (a rb : BitVec 7) (s : State) : Res :=
  .next (issue (.trback a rb) s fun s => commOp s fun s =>
    let ref := getS s.grp a.toNat
    let v := getS s.grp rb.toNat
    reelGo (dieIn ref) 127 (.back ref (v.extractLsb' 0 32) (tbit v 32) none none) s)

/-- TRREUSE (R226). -/
def execTrreuse (d a : BitVec 7) (s : State) : Res :=
  .next (issue (.trreuse d a) s fun s => commOp s fun s =>
    let ref := getS s.grp a.toNat
    reelGo (dieIn ref) d.toNat (.reuse ref) s)

/-- TRFREE (R226). -/
def execTrfree (a : BitVec 7) (rb : BitVec 1) (s : State) : Res :=
  .next (issue (.trfree a rb) s fun s => commOp s fun s =>
    let ref := getS s.grp a.toNat
    reelGo (dieIn ref) 127 (.free ref (rb = 1)) s)

/-- The homes and windows that the REEL and FAB entries allow for an operand address (R197, R227, R232, R233). -/
def plainHome (va : DWord) : Bool :=
  let home := va.toNat / 2 ^ 53
  home ≤ 8 || (home = 15 && (fieldN va 40 13 = 0 || fieldN va 40 13 = 0x20))

/-- The checks of one piece of `n` bytes of an operand range (R197). -/
def rangeAcc (rd wr : Bool) (n : Nat) (s : State) (t : Nat) (va : DWord) : AccRes :=
  match failFor s.grp 0 with
  | some f => .bad f.1 f.2
  | none => if va.toNat % n ≠ 0 then .bad 0x03 va else if !plainHome va then .bad 0x11 va else threadAcc s (envOf s) .ls n rd wr t va

/-- Checks an operand range of `count` pieces of `n` bytes as the group's own loads or stores would be; a fault is raised as for an SLD or
an SST, and nothing has been done (R197, R227, R233). `body` takes the places, and whether a region is marked deterministic. -/
def withRange (rd wr : Bool) (n : Nat) (va : DWord) (count : Nat) (s : State) (body : Bool → List Loc → State → State) : State :=
  let m := wholeOf s.grp
  let vas := (List.range count).map fun i => (0, va + BitVec.ofNat 64 (n * i))
  let p := gather (rangeAcc rd wr n) wr n vas s
  match p.2.find? fun g => !g.fine with
  | some g =>
    if g.res = .uncorr then trapHere 0x30 g.va m true (uncorrStep s)
    else endFaults m (hardFaults [g]) (parkFaults [g]) (reportHard [g] s)
  | none => body (anyDet p.2) ((fineAccs p.2).map (·.loc)) p.1

/-- TRLEAF (R227). Of an empty list of leaves nothing is accessed, so that its address is not checked (DESIGN CHOICE, log 41). -/
def execTrleaf (d a rb : BitVec 7) (s : State) : Res :=
  .next (issue (.trleaf d a rb) s fun s => commOp s fun s =>
    let h := getS s.grp a.toNat
    let most := fieldN (getS s.grp d.toNat) 0 8
    withRange false true 8 (getS s.grp rb.toNat) most s fun _ ls s => reelGo (dieIn h) d.toNat (.leaf h most ls) s)

/-- TRSTAT (R228). -/
def execTrstat (d a : BitVec 7) (k : BitVec 3) (s : State) : Res :=
  .next (issue (.trstat d a k) s fun s => commOp s fun s =>
    let ref := getS s.grp a.toNat
    reelGo (dieIn ref) d.toNat (.stat ref k.toNat) s)

end Sys2Proof.Machine
end

