-- ==== Sys2Proof/Machine/Fabric.lean ====
section
/-! DEFINITION. The fabric: stamps, floors and watermarks (R341-R346, R352), the merges at the device's outputs and at its receive side
(R345, R346), receive rings (R230), and the FAB instructions (R231-R235, R353). -/

namespace Sys2Proof.Machine

/-- The stamp floor F of the ordered class (R342). -/
def floorOf (s : State) : Nat := max s.floor s.now

/-- The quanta of a launch that are not committed: those its groups stand in, those of operations that wait for their commit, and quantum 0 for a page
without a team (R325, R352); where there is none of these, the quantum behind the last that a group has reached. -/
def launchQuanta (s : State) (d : Grid) : List Nat :=
  let gs := (allGroups s).filter fun g => g.key.launch = d.id
  let qs := (gs.filter (goesOn s)).map quantOf ++
    (s.ops.filterMap fun o => match o.owner with | .group k => if k.launch = d.id then o.quantum else none | .packet _ => none) ++
    (if d.pages.any fun p => p.st.unplaced then [0] else [])
  if qs.isEmpty then [gs.foldl (fun m g => max m (quantOf g)) 0 + 1] else qs

/-- The logical floor (R352): all ones where no deterministic launch runs. -/
def logicalFloor (s : State) : Nat :=
  let qs := ((allGrids s).filter fun d => d.det && !d.ended).flatMap (launchQuanta s)
  qs.foldl (fun m q => min m ((q + 1) * 2 ^ 40)) (2 ^ 64 - 1)

/-- The floor of a class. -/
def classFloor (s : State) (logical : Bool) : Nat := if logical then logicalFloor s else floorOf s

/-- A port's watermark of a class. -/
def Port.mark (p : Port) (logical : Bool) : Nat := if logical then p.lw else p.w

/-- The delivery watermark (R234, R346): a LIVE port that becomes STALLED stays in it until it is fenced (R347, log 15). -/
def deliveryMark (s : State) (logical : Bool) : Nat :=
  s.ports.foldl (fun m p => if p.st = .live || p.st = .stalled then min m (p.mark logical) else m) (classFloor s logical)

/-- Whether ordered delivery is suspended (R348). -/
def ordStalled (s : State) : Bool := s.ports.any fun p => p.st = .stalled

/-- Whether a message is of the logical class. -/
def msgLogical (m : Msg) : Bool := m.cls = .logical

/-- Whether a message's key comes before another's (R344). -/
def msgBefore (x y : Msg) : Bool :=
  decide (x.stamp < y.stamp) || (x.stamp = y.stamp &&
    (decide (x.srcDev < y.srcDev) || (x.srcDev = y.srcDev &&
      (decide (x.srcPort < y.srcPort) || (x.srcPort = y.srcPort && decide (x.seq < y.seq))))))

/-- The class that a pause names (R337). -/
def pauseOf : MsgClass → PauseClass
  | .ordered => .ordered
  | .logical => .logical
  | .unordered => .unordered

/-- The receive ring of a number. -/
def findRing (s : State) (n : Nat) : Option Ring := s.rings.find? fun r => r.num = n

/-- Changes a ring. -/
def updRing (n : Nat) (f : Ring → Ring) (s : State) : State := { s with rings := updFirst (fun r => r.num = n) f s.rings }

/-- A counter of 32 bits that stops at its largest value (R350). -/
def satInc (x : Word) : Word := if x = 0xFFFFFFFF then x else x + 1

/-- A message is discarded for a ring that is not bound (R346, R350). -/
def dropUnboundMsg (s : State) : State := { s with dropUnbound := satInc s.dropUnbound }

/-- A message is discarded for a class that does not match the ring's kind (R346, R350). -/
def dropKindMsg (s : State) : State := { s with dropKind := satInc s.dropKind }

/-- The entry of a message; `full` says that its ring has no free slot, so that the payload is dropped (R230). -/
def entryOf (full : Bool) (m : Msg) : RingEntry :=
  let n := if full then 0 else m.payload.length
  { header := BitVec.ofNat 128 (n + m.srcDev % 256 * 2 ^ 16 + m.srcPort % 16 * 2 ^ 24 + bitOf (m.cls = .unordered) * 2 ^ 29 + bitOf full * 2 ^ 30 +
      m.seq % 2 ^ 32 * 2 ^ 32 + (if m.cls = .unordered then 0 else m.stamp) % 2 ^ 64 * 2 ^ 64)
    payload := if full then [] else m.payload }

/-- Writes bytes through an address space as far as its translation goes; the rest is not written (R230, R366, log 15). An uncorrectable error of a table
entry goes into the hank (R257). -/
def wrVa (part : Nat) (asid : BitVec 16) (va : DWord) (bs : List Byte) (s : State) : State :=
  let place := fun i => translate s part asid (va + BitVec.ofNat 64 i) false true false false 0
  let lost := ((List.range bs.length).filterMap fun i => match place i with | .trap _ _ e => e | _ => none).eraseDups
  ((List.range bs.length).zip bs).foldl (fun s b =>
    match place b.1 with
    | .ok home pa gen _ _ _ => wrBytes ⟨.phys, homeKey home pa, gen⟩ [b.2] s
    | _ => s) (lost.foldl (fun s a => reportInfo part none (some (.table a)) s) s)

/-- A message reaches its ring: an entry in delivery order and, where a slot is free, its bytes in the ring's memory (R230, R346). An overflow
entry stands beyond the 2^j slots: it counts toward a full ring, its header is written to no slot of the ring's memory, and the write index
stays where it is. Where it stands is the choice of this model, log 41. -/
def ringPut (m : Msg) (s : State) : State :=
  match findRing s m.ring with
  | none => dropUnboundMsg s
  | some r =>
    if r.logical != msgLogical m then dropKindMsg s
    else
      let full := decide (2 ^ r.log2 ≤ r.entries.length)
      let e := entryOf full m
      let s := updRing m.ring (fun r => { r with entries := r.entries ++ [e], wr := r.wr + bitOf (!full) }) s
      if full then s
      else wrVa r.part r.asid (r.va + BitVec.ofNat 64 (r.wr % 2 ^ r.log2 * 272)) (toBytes e.header.toNat 16 ++ e.payload) s

/-- The held message of a class with the smallest key (R346). -/
def headHeld (s : State) (logical : Bool) : Option HeldMsg :=
  (s.holdBuf.filter fun h => msgLogical h.msg = logical).foldl
    (fun m h => match m with | none => some h | some x => if msgBefore h.msg x.msg then some h else some x) none

/-- The delivery of one held message of a class, where the delivery watermark has passed its stamp and no port is STALLED (R346, R348);
F then exceeds its stamp (R342). -/
def deliverOne (logical : Bool) (s : State) : State :=
  match headHeld s logical with
  | some h =>
    if !ordStalled s && decide (h.msg.stamp < deliveryMark s logical) then
      let s := ringPut h.msg { s with holdBuf := s.holdBuf.erase h }
      if logical then s else { s with floor := max s.floor (h.msg.stamp + 1) }
    else s
  | none => s

/-- The output that an ordered or logical message from a port takes to another device: the lowest live route but that port (R339, log 15). -/
def nextHop (s : State) (dst port : Nat) : Option Nat := (liveRoutes s dst).find? fun p => p != port

/-- Whether the route table takes some message from an input port to an output port (R345). -/
def routeReaches (s : State) (port out : Nat) : Bool := s.routes.any fun r => r.1 != s.devId && nextHop s r.1 port = some out

/-- The inputs of an output port (R345): the device's own injection, 16, and the ports whose routes reach it; a fenced port is one while a
message that came in on it waits. -/
def inputsOf (s : State) (out : Nat) : List Nat :=
  16 :: (List.range 16).filter fun i => ((portOf s i).st != .fenced && routeReaches s i out) || s.outBuf.any fun x => x.out = out && x.input = i

/-- The watermark of an input (R345): a JOINING port passes on nothing below the delivery watermark (R347). -/
def inputMark (s : State) (logical : Bool) (i : Nat) : Nat :=
  if i = 16 then classFloor s logical
  else
    let p := portOf s i
    if p.st = .joining then max (p.mark logical) (deliveryMark s logical) else p.mark logical

/-- The messages of a class that wait for an output. -/
def waitingOut (s : State) (out : Nat) (logical : Bool) : List OutMsg :=
  s.outBuf.filter fun x => x.out = out && x.msg.cls = (if logical then .logical else .ordered)

/-- The one with the smallest key. -/
def headOut (s : State) (out : Nat) (logical : Bool) : Option OutMsg :=
  (waitingOut s out logical).foldl (fun m h => match m with | none => some h | some x => if msgBefore h.msg x.msg then some h else some x) none

/-- The watermark of an output (R345). -/
def outMark (s : State) (out : Nat) (logical : Bool) : Nat :=
  let ws := waitingOut s out logical
  (inputsOf s out).foldl (fun m i =>
    let own := ws.filter fun x => x.input = i
    min m (match own with
      | [] => inputMark s logical i
      | x :: xs => xs.foldl (fun n y => min n y.msg.stamp) x.msg.stamp)) (2 ^ 64 - 1)

/-- An output of the switch sends the message with the smallest key, once every input without one has a watermark above its stamp, while its
link is trained and the class is not paused (R338, R339, R344, R345). A message that this device sends is not held against the watermark that the output
has already carried: without a deterministic launch that one is all ones (R352), and a later launch's logical sends lie below it, which R344 forbids and
R352 asks for. That they are sent is the choice of this model, log 41. -/
def sendOne (out : Nat) (logical : Bool) (s : State) : State :=
  match headOut s out logical with
  | some x =>
    let ws := waitingOut s out logical
    if (portOf s out).link && !(portOf s out).pausedOut.contains (pauseOf x.msg.cls) &&
        ((inputsOf s out).all fun i => (ws.any fun y => y.input = i) || decide (x.msg.stamp < inputMark s logical i)) then
      updPort out (fun p => if logical then { p with outLW := max p.outLW x.msg.stamp, outLSince := s.now } else { p with outW := max p.outW x.msg.stamp, outSince := s.now })
        { s with outBuf := s.outBuf.erase x, egress := s.egress ++ [.message out x.msg] }
    else s
  | none => s

/-- An output sends the unordered message that has waited longest, while its link is trained and that class is not paused (R338, R339). -/
def sendWaiting (out : Nat) (s : State) : State :=
  match s.outBuf.find? fun x => x.out = out && x.msg.cls = .unordered with
  | some x =>
    if !(portOf s out).link || (portOf s out).pausedOut.contains .unordered then s
    else { s with outBuf := s.outBuf.erase x, egress := s.egress ++ [.message out x.msg] }
  | none => s

/-- What the outputs can send is sent (R345). -/
def pump (s : State) : State :=
  (List.range 16).foldl (fun s p =>
    (List.range s.outBuf.length).foldl (fun s _ => sendWaiting p (sendOne p false (sendOne p true s))) s) s

/-- A message of the unordered class leaves on a port, or waits for the end of a pause (R338). -/
def sendPlain (input port : Nat) (m : Msg) (sender : Option GKey) (s : State) : State :=
  pump { s with outBuf := s.outBuf ++ [⟨input, port, m, sender⟩] }

/-- Whether the replies to a device are paused on the route to it (R338). -/
def repliesPaused (s : State) (dev : Nat) : Bool :=
  match liveRoutes s dev with
  | p :: _ => (portOf s p).pausedOut.contains .loadStoreRep
  | [] => false

/-- The port that a message to another device takes: the lowest live route whose class is not paused (R339); `none` within says that every
live route's injection queue is full (R232, log 14). -/
def outPort (s : State) (dst : Nat) (c : MsgClass) : Option (Option Nat) :=
  match liveRoutes s dst with
  | [] => none
  | ps => some (ps.find? fun p => !(portOf s p).pausedOut.contains (pauseOf c))

/-- The statuses of R232. -/
inductive SendStatus where
  | sent | badHdr | noRoute
deriving DecidableEq, Repr

/-- An OSEND or USEND ends with its status (R232). -/
def sendEnd (d : Nat) : SendStatus → State → State
  | .sent => retireWith fun g => setCC ⟨true, false, false, false⟩ (setS d 0 g)
  | .badHdr => retireWith fun g => setCC ⟨false, false, false, true⟩ (setS d 1 g)
  | .noRoute => retireWith fun g => setCC ⟨false, false, true, false⟩ (setS d 2 g)

/-- The stamp of the next ordered send of the issuing group (R342, R352). -/
def nextStamp (s : State) : Nat :=
  if s.grid.det then (quantOf s.grp + 1) * 2 ^ 40 + (mget s.grid.detSends (quantOf s.grp)).toNat else floorOf s

/-- What an ordered send leaves in the counters: F, or the launch's count of the quantum; the port's seq; the group's last stamp (R342,
R343, R352). -/
def countSend (port stamp : Nat) (s : State) : State :=
  let s := onGrp (fun g => { g with lastSend := BitVec.ofNat 64 stamp }) s
  if s.grid.det then onGrp (noteKind .send) <|
    onGrid (fun d => { d with detSends := mset d.detSends (quantOf s.grp) (mget d.detSends (quantOf s.grp) + 1) })
      (updPort port (fun p => { p with lseq := (p.lseq + 1) % 2 ^ 32 }) s)
  else updPort port (fun p => { p with seq := (p.seq + 1) % 2 ^ 32 }) { s with floor := stamp + 1 }

/-- The hold buffer's size (R338). -/
def holdMax : Nat := 4096

/-- Whether the device pauses its ordered and logical inbound classes (R338). -/
def pausesIn (s : State) : Bool := decide (holdMax ≤ s.holdBuf.length)

/-- The injection of a message: into the device's own receive side, or into the merge of an output port. A send to the own device takes
port 0's seq (R339, R343, log 14). -/
def inject (ord : Bool) (own : Bool) (port dst ring : Nat) (payload : List Byte) (s : State) : State :=
  let cls : MsgClass := if !ord then .unordered else if s.grid.det then .logical else .ordered
  let p := portOf s port
  let stamp := if ord then nextStamp s else 0
  let m : Msg := ⟨cls, dst, stamp, s.devId, port, if cls = .logical then p.lseq else p.seq, ring, payload⟩
  let me := some s.grp.key
  if !ord then (if own then ringPut m s else sendPlain 16 port m me s)
  else
    let s := countSend port stamp s
    if own then { s with holdBuf := s.holdBuf ++ [⟨16, m, me⟩] } else pump { s with outBuf := s.outBuf ++ [⟨16, port, m, me⟩] }

/-- OSEND and USEND (R232, R235). A bad header is found before the payload's addresses are checked, and a missing route behind those checks: the
order is the choice of this model, log 41. -/
def sendStep (ord : Bool) (d : Nat) (va hdr : DWord) (s : State) : State :=
  match vecPending true true s with
  | some r => stall r s
  | none =>
    let n := fieldN hdr 16 9
    if fieldN hdr 25 39 != 0 || n = 0 || 256 < n then sendEnd d .badHdr s
    else withRange true false 1 va n s fun _ ls s =>
      let dst := fieldN hdr 0 8
      let bs := ls.map fun l => rdByte s l
      let cls : MsgClass := if !ord then .unordered else if s.grid.det then .logical else .ordered
      if dst = s.devId then
        (if ord && pausesIn s then stall .fabric s
        else sendEnd d .sent (inject ord true 0 dst (fieldN hdr 8 8) bs s))
      else match outPort s dst cls with
        | none => sendEnd d .noRoute s
        | some none => stall .fabric s
        | some (some p) => sendEnd d .sent (inject ord false p dst (fieldN hdr 8 8) bs s)

/-- OSEND (R232, R235, R253, R352). -/
def execOsend (d a rb : BitVec 7) (s : State) : Res :=
  .next (issue (.osend d a rb) s fun s => commOp s fun s =>
    sendStep true d.toNat (getS s.grp a.toNat) (getS s.grp rb.toNat) s)

/-- USEND (R232, R235, R253). -/
def execUsend (d a rb : BitVec 7) (s : State) : Res :=
  .next (issue (.usend d a rb) s fun s => commOp s fun s =>
    sendStep false d.toNat (getS s.grp a.toNat) (getS s.grp rb.toNat) s)

/-- The checks of an instruction of the FAB major with function `f` (R231, R236), given as they are because the Lean runtime can not build
the constructor itself. -/
def fabChecks (f : Nat) (ok : Bool) (ops : List Opnd) (word : Nat) : Checks :=
  ⟨ok && ops.all Opnd.ok, false, none, ops, false, none, BitVec.ofNat 32 (0xE8000000 + f * 2 ^ 21 + word)⟩

/-- The header word that ORECV and OPEEK return (R230, R233). -/
def RingEntry.word (e : RingEntry) : DWord := e.header.extractLsb' 0 64

/-- The stamp of an entry. -/
def RingEntry.stamp (e : RingEntry) : Nat := (e.header.extractLsb' 64 64).toNat

/-- The ring that a group may use: bound to its partition (R233). -/
def ringFor (s : State) (x : DWord) : Option Ring := (findRing s (fieldN x 0 8)).filter fun r => r.part = s.grid.part

/-- The oldest entry that the group may take: on a logical ring in a deterministic launch the oldest of those that were sent in an earlier
quantum (R353). -/
def takeable (s : State) (r : Ring) : Option RingEntry :=
  r.entries.find? fun e => !(s.grid.det && r.logical && decide (quantOf s.grp * 2 ^ 40 ≤ e.stamp))

/-- Whether a deterministic launch must still wait for the watermark of its logical ring, or for the delivery of what was sent in an earlier
quantum (R353). -/
def markWaits (s : State) (r : Ring) : Bool :=
  s.grid.det && r.logical &&
    (decide (deliveryMark s true ≤ quantOf s.grp * 2 ^ 40) ||
      s.holdBuf.any fun h => msgLogical h.msg && decide (h.msg.stamp < quantOf s.grp * 2 ^ 40))

/-- What the watermark has let go reaches its rings before a deterministic launch looks into one (R346, R353). -/
def deliverLogical (s : State) : State :=
  if s.grid.det then (List.range s.holdBuf.length).foldl (fun s _ => deliverOne true s) s else s

/-- Whether a group waits in ORECV. -/
def inOrecv (s : State) (k : GKey) : Bool :=
  match findGroup s k with
  | some g => g.phase = .running && (match g.wait with | .orecv _ => true | _ => false)
  | none => false

/-- Whether the issuing group is the oldest receiver of a ring (R233). -/
def firstReceiver (s : State) (r : Ring) : Bool :=
  match r.waiters.find? fun k => k = s.grp.key || inOrecv s k with
  | some k => k = s.grp.key
  | none => true

/-- The issuing group leaves the lines of every ring. -/
def leaveRings (s : State) : State :=
  { s with rings := s.rings.map fun r => { r with waiters := r.waiters.filter fun k => k ≠ s.grp.key } }

/-- The group takes its place among the receivers of a ring, where it has none (R233). -/
def joinRing (r : Ring) (s : State) : State :=
  match s.grp.wait with
  | .orecv _ => s
  | _ =>
    let me := s.grp.key
    onGrp (fun g => { g with wait := .orecv s.now }) (updRing r.num (fun r => { r with waiters := r.waiters ++ [me] }) (leaveRings s))

/-- A granule that a receive covers gets its cell of CTX, where its region is context-tagged (R233). -/
def coverCell (l : Loc) (s : State) : State :=
  match l.space with
  | .ctx p n => materialise p n (l.off / 64) l.gen s
  | _ => s

/-- The group takes an entry: the cells of the whole range are made, the payload is stored and the header word returned. Behind its own earlier
accesses it keeps its place among the receivers (R233); so it does in a deterministic launch until its place in D, where the payload goes to a deterministic
region (R253). -/
def takeEntry (d : Nat) (r : Ring) (e : RingEntry) (dt : Bool) (ls : List Loc) (s : State) : State :=
  match nowBlocked s (.store 1 (ls.map fun l => (⟨0, 0, l⟩, 0)) 0) false with
  | some _ => joinRing r s
  | none =>
    if regionWaits s dt then joinRing r s else
    let s := (ls.zip e.payload).foldl (fun s p => wrBytes p.1 [p.2] s) (ls.foldl (fun s l => coverCell l s) s)
    let s := updRing r.num (fun r => { r with entries := r.entries.erase e }) (leaveRings s)
    retireWith (fun g => setCC (ccOk true) (setS d e.word { g with lastRecv := BitVec.ofNat 64 e.stamp })) s

/-- The group waits for an entry; in a deterministic launch its attempt counts in CLK (R233, R328, R353). -/
def waitEntry (r : Ring) (s : State) : State :=
  let t := joinRing r s
  if s.grid.det then waitOn t.grp.wait t else t

/-- ORECV and OPEEK end without an entry (R233): the ring is empty, delivery is suspended, or the ring is not the partition's. -/
def noEntry (d : Nat) (v : DWord) (c w : Bool) (s : State) : State :=
  retireWith (fun g => setCC ⟨false, false, c, w⟩ (setS d v g)) (leaveRings s)

/-- The first byte of a receive's 256 that lies in no home and no window which ORECV admits, with its fault (R144, R197, R233). -/
def receiveFault (s : State) (dest : DWord) : Option (BitVec 8 × DWord) :=
  (List.range 256).findSome? fun i =>
    let va := dest + BitVec.ofNat 64 i
    if !plainHome va then some (0x11, va)
    else if va.toNat / 2 ^ 53 = 15 then (match window s (envOf s) .ls va true with | .fault c v _ _ => some (c, v) | _ => none)
    else none

/-- ORECV (R233, R353). A ring that is not bound to the partition ends it before s[b] is checked, and the check of s[b] comes before the test of the ring
and of a suspended delivery: the order is the choice of this model, log 41. -/
def recvStep (d : Nat) (ring dest : DWord) (s : State) : State :=
  let s := deliverLogical s
  match ringFor s ring with
  | none => noEntry d 0 true true s
  | some r => match (if s.grp.wait.begun then none else receiveFault s dest) with
  | some f => trapHere f.1 f.2 (wholeOf s.grp) true s
  | none =>
    if markWaits s r then (if s.grp.wait.begun then s else stall .det s)
    else match takeable s r with
    | some e => if firstReceiver s r then withRange false true 1 dest 256 s (takeEntry d r e) else waitEntry r s
    | none => if ordStalled s && !(s.grid.det && r.logical) then noEntry d 0x60 false true s else waitEntry r s

/-- ORECV (R233, R235). -/
def execOrecv (d a rb : BitVec 7) (s : State) : Res :=
  .next (issueChecked (fabChecks 2 true [.sd d.toNat, .ss a.toNat, .ss rb.toNat] (d.toNat * 16384 + a.toNat * 128 + rb.toNat)) s fun s => syncOp s fun s =>
    recvStep d.toNat (getS s.grp a.toNat) (getS s.grp rb.toNat) s)

/-- OPEEK (R233, R353). -/
def peekStep (d : Nat) (ring : DWord) (s : State) : State :=
  let s := deliverLogical s
  match ringFor s ring with
  | none => retireWith (fun g => setCC ⟨false, false, true, true⟩ (setS d 0 g)) s
  | some r =>
    if markWaits s r then (if s.grp.wait.begun then s else stall .det s)
    else match takeable s r with
    | some e => retireWith (fun g => setCC (ccOk true) (setS d e.word g)) s
    | none =>
      if s.grid.det && r.logical then reattempt s
      else if ordStalled s then retireWith (fun g => setCC ⟨false, false, false, true⟩ (setS d 0x60 g)) s
      else retireWith (fun g => setCC (ccOk false) (setS d 0 g)) s

/-- OPEEK (R233, R235). -/
def execOpeek (d a : BitVec 7) (s : State) : Res :=
  .next (issueChecked (fabChecks 3 true [.sd d.toNat, .ss a.toNat] (d.toNat * 16384 + a.toNat * 128)) s fun s => syncOp s (peekStep d.toNat (getS s.grp a.toNat)))

/-- OSTAMP (R234, R352). -/
def execOstamp (d : BitVec 7) (k : BitVec 2) (s : State) : Res :=
  .next (issueChecked (fabChecks 4 (k.toNat ≤ 2) [.sd d.toNat] (d.toNat * 16384 + k.toNat)) s fun s =>
    let v : DWord := if k = 0 then s.grp.lastSend else if k = 1 then s.grp.lastRecv
      else BitVec.ofNat 64 (if s.grid.det then (quantOf s.grp + 1) * 2 ^ 40 else floorOf s)
    retireWith (setS d.toNat v) s)

/-- OWM (R234). -/
def execOwm (d a : BitVec 7) (s : State) : Res :=
  .next (issueChecked (fabChecks 5 true [.sd d.toNat, .ss a.toNat] (d.toNat * 16384 + a.toNat * 128)) s fun s =>
    let n := fieldN (getS s.grp a.toNat) 0 5
    if 16 < n then retireWith (fun g => setCC (ccOk false) (setS d.toNat 0 g)) s
    else
      let v := if n = 16 then deliveryMark s false else (portOf s n).w
      let stalled := if n = 16 then ordStalled s else (portOf s n).st = .stalled
      retireWith (fun g => setCC ⟨true, false, false, stalled⟩ (setS d.toNat (BitVec.ofNat 64 v) g)) s)

end Sys2Proof.Machine
end

