-- ==== Sys2Proof/Machine/Matrix.lean ====
section
/-! DEFINITION. Tiles, matrix multiplies with their gang latch, accumulators and drains (R174-R194): what happens at issue, and what an
operation does once the engine has accepted it. -/

namespace Sys2Proof.Machine

/-- A piece of a row or an element that must be checked: its address, the alignment asked, its length. -/
structure Piece where
  va : DWord
  align : Nat
  len : Nat
deriving DecidableEq, Repr

/-- The checks of a list of pieces, in order (R178). -/
def checkPieces (check : State → Piece → AccRes) (wr : Bool) (ps : List Piece) (s : State) : State × List (Piece × AccRes) :=
  ps.foldl (fun p x =>
    let r := check p.1 x
    (keepAcc wr x.len r p.1, p.2 ++ [(x, r)])) (s, [])

/-- The check of one piece (R178): alignment, home and window, PAGE_UNCORR, translation. -/
def pieceAcc (c : AccClass) (rd wr : Bool) (s : State) (x : Piece) : AccRes :=
  match failFor s.grp 0 with
  | some f => .bad f.1 f.2
  | none => if x.va.toNat % x.align ≠ 0 then .bad 0x03 x.va else access s (envOf s) c x.va x.len rd wr false

/-- The place of a piece's failure in the order of R178 within a row: ALIGN, ADDR and the windows; PAGE_UNCORR; translation. -/
def Piece.stage (x : Piece) : AccRes → Nat
  | .ok _ _ _ => 0
  | .uncorr => 2
  | .park _ => 3
  | .fault c _ _ _ =>
    let home := x.va.toNat / 2 ^ 53
    if x.va.toNat % x.align ≠ 0 || home = 9 || 12 ≤ home || (home = 11 && c = 0x11) then 1 else 3

/-- The fault of a row that is cut into pieces: the first of the earliest stage (R178). -/
def rowFault (l : List (Piece × AccRes)) : Option (Piece × AccRes) :=
  [1, 2, 3].findSome? fun n => l.find? fun p => p.1.stage p.2 = n

/-- Hands results back to the rows they belong to. -/
def byRow {α β : Type} : List (List α) → List β → List (List β)
  | [], _ => []
  | r :: rs, l => l.take r.length :: byRow rs (l.drop r.length)

/-- Goes on where every piece passes; the first fault parks the group with LIVE or traps, and nothing has been accepted (R178). -/
def withPieces (check : State → Piece → AccRes) (wr : Bool) (rows : List (List Piece)) (replay : AccRes → Bool) (s : State)
    (body : List Loc → State → State) : State :=
  let m := wholeOf s.grp
  let r := checkPieces check wr rows.flatten s
  match (byRow rows r.2).findSome? rowFault with
  | some (x, .uncorr) => trapHere 0x30 x.va m true (uncorrStep s)
  | some (_, .fault c v info ecc) => trapHere c v m (replay (.fault c v info ecc)) (reportInfo s.grid.part info ecc s)
  | some (_, .park q) => parkWith m [(0, q)] s
  | _ => body (r.2.filterMap fun p => match p.2 with | .ok l _ _ => some l | _ => none) r.1

/-- A run of `n` bytes cut at multiples of 256, which no window or page edge divides. A fault in the second piece of a row has the address of
that piece's first byte in TVAL: the choice of this model, log 41. -/
def cutRun (va : DWord) (al : Nat) (n : Nat) : List Piece :=
  let k := min n (256 - va.toNat % 256)
  if k = n then [⟨va, al, n⟩] else [⟨va, al, k⟩, ⟨va + BitVec.ofNat 64 k, 1, n - k⟩]

/-- The bytes of a row (R175). -/
def rowBytes (shape : DWord) : Nat := shapeCols shape * ewBytes (shapeEw shape)

/-- The pieces of the rows of a tile load or store, row by row (R180). -/
def tilePieces (shape base stride : DWord) : List (List Piece) :=
  (List.range (shapeRows shape)).map fun i => cutRun (base + BitVec.ofNat 64 i * stride) (ewBytes (shapeEw shape)) (rowBytes shape)

/-- Hands the places found back to the rows they belong to. -/
def regroup : List (List Piece) → List Loc → List (List Span)
  | [], _ => []
  | ps :: rest, ls => ((ps.zip ls).map fun p => ⟨p.1.va, p.2, p.1.len⟩) :: regroup rest (ls.drop ps.length)

/-- An operation of the matrix path is handed on and counts in T; the instruction retires (R176). -/
def tileGo (kind : OpKind) (s : State) : State :=
  withRoom .tile s fun s => if kind.paused s then stall .fabric s else retire (addOp kind false false none false (onGrp (takeCnt .tile) s))

/-- TLD (R178, R180): the shape is the one read at its decode (R28). -/
def execTld (d : BitVec 4) (a rb : BitVec 7) (s : State) : Res :=
  .next (issue (.tld d a rb) s fun s =>
    let sh := decodedShape s d.toNat
    let ps := tilePieces sh (getS s.grp a.toNat) (getS s.grp rb.toNat)
    withPieces (pieceAcc .tile true false) false ps (fun _ => true) s fun ls s => tileGo (.tld d.toNat sh (regroup ps ls)) s)

/-- TST (R178, R180): the shape is the one read at its decode (R28). -/
def execTst (d : BitVec 4) (a rb : BitVec 7) (s : State) : Res :=
  .next (issue (.tst d a rb) s fun s =>
    let sh := decodedShape s d.toNat
    let ps := tilePieces sh (getS s.grp a.toNat) (getS s.grp rb.toNat)
    withPieces (pieceAcc .tile false true) true ps (fun _ => true) s fun ls s => tileGo (.tst d.toNat sh (regroup ps ls)) s)

/-- TZERO (R180). -/
def execTzero (d : BitVec 4) (s : State) : Res := .next (issue (.tzero d) s (tileGo (.tzero d.toNat)))

/-- ACCZ (R190). -/
def execAccz (d : BitVec 3) (s : State) : Res := .next (issue (.accz d) s (tileGo (.accz d.toNat)))

/-- ACCLD: the threads of LIVE and the row are read at issue (R190). -/
def execAccld (d : BitVec 7) (a : BitVec 3) (rb : BitVec 7) (s : State) : Res :=
  .next (issue (.accld d a rb) s fun s =>
    tileGo (.accld a.toNat (getS s.grp rb.toNat).toNat (vreg s.grp d.toNat) s.grp.live) s)

/-- What an arrival at a latch, or a multiply of one group, takes from its group: the shapes and queues of its decode, and FPCTL as it
stands (R68, R184). -/
def mmaShape (s : State) (a rb : Nat) : MmaShape :=
  ⟨shapeRows (decodedShape s a), shapeRows (decodedShape s rb), s.grp.fpctl, decodedQueue s a, decodedQueue s rb⟩

/-- A multiply counts in the current batch of a member, or in its T (R176). -/
def mmaUp (g : Group) : Group :=
  match g.curBatch with
  | some b => { g with batchPend := mset g.batchPend b (mget g.batchPend b + 1) }
  | none => cntUp .tile g

/-- A multiply that a member waits for ends, in the batch or in T. -/
def mmaDown (batch : Option Nat) (g : Group) : Group :=
  match batch with
  | some b => { g with batchPend := mset g.batchPend b (mget g.batchPend b - 1) }
  | none => cntDown .tile g

/-- The allowances that an MMAR returns: one for each distinct tile whose TQUEUE names a queue; the flag says that the tile is the
second (R185). -/
def mmarDue (reads : Bool) (a rb : Nat) (sh : MmaShape) : List (Bool × Nat) :=
  if !reads then []
  else (if sh.tqA = 15 then [] else [(false, sh.tqA)]) ++ (if sh.tqB = 15 || rb = a then [] else [(true, sh.tqB)])

/-- The operation of a multiply (R184). -/
def mmaOp (zero reads : Bool) (d a rb : Nat) (sh : MmaShape) (members : List (Nat × Option Nat)) : OpKind :=
  .mma d a rb zero sh members (mmarDue reads a rb sh) false

/-- Whether two sets of members are the same. -/
def sameSet (x y : List Nat) : Bool := x.all (fun i => y.contains i) && y.all fun i => x.contains i

/-- Whether two sets of members share one. -/
def shareOne (x y : List Nat) : Bool := x.any fun i => y.contains i

/-- A group that waits at a latch raises GANGERR: its pending operation goes (R187). -/
def gangErrFor (k : GKey) (s : State) : State :=
  asGroup k (fun s =>
    if s.grp.wait = .latch && s.team.phase = .running then
      let b := s.grp.curBatch
      trapHere 0x07 s.grp.gang s.grp.live true (onGrp (fun g => { mmaDown b g with wait := .none }) s)
    else s) s

/-- Every group that waits at a latch raises GANGERR, and the latch is cleared (R187). They do so in the order of their arrival, and before the
group whose arrival was wrong, which decides the record of a team that has no handler: the choice of this model, log 41. -/
def latchErr (team : TKey) (l : Latch) (s : State) : State :=
  let s := updTeam team (fun t => { t with latches := t.latches.filter fun x => !sameSet x.members l.members }) s
  l.arrived.foldl (fun s i => gangErrFor ⟨team.launch, team.team, i⟩ s) s

/-- A member that waits at a latch leaves it and goes on (R187). -/
def leaveLatch (k : GKey) (s : State) : State :=
  if k = s.grp.key then retire s
  else asGroup k (fun s => if s.grp.wait = .latch then retire s else s) s

/-- The bits of GANG that name the member set (R31): a field beyond the count names none (R187). -/
def gangFields (x : DWord) : Nat := fieldN x 0 (3 + 5 * fieldN x 0 3)

/-- Whether the engine takes an operation in its order of acceptance (R174). -/
def OpKind.engine : OpKind → Bool
  | .tld _ _ _ => true
  | .tst _ _ _ => true
  | .tzero _ => true
  | .accz _ => true
  | .accld _ _ _ _ => true
  | .mma _ _ _ _ _ _ _ _ => true
  | .drain _ _ _ _ _ _ => true
  | _ => false

/-- The engine accepts an operation (R174). -/
def acceptOp (id : Nat) (s : State) : State :=
  updOp id (fun o => { o with accepted := some s.nextAccept }) { s with nextAccept := s.nextAccept + 1 }

/-- A gang operation is accepted, behind everything that its members issued before they arrived (R174); what they issue afterwards finds their
earlier MTX accesses performed, and those that were performed before these (R246, R247). -/
def acceptGang (team : TKey) (ms : List Nat) (kind : OpKind) (s : State) : State :=
  let mine := s.ops.filter fun e => (match e.owner with | .group k => tkeyOf k = team | .packet _ => false) && shareOne e.parts ms
  let s := (mine.filter fun e => e.kind.engine && e.accepted.isNone).foldl (fun s e => acceptOp e.id s) s
  let id := s.nextOp
  let inherited := ((allGroups s).filter fun g => tkeyOf g.key = team && ms.contains g.key.idx).flatMap fun g => g.mtxAfter
  let before := ((inherited ++ (mine.filter fun e => e.kind.path = 2).map (·.id)).filter fun i => s.ops.any fun e => e.id = i).eraseDups
  updGroups (fun g => tkeyOf g.key = team && ms.contains g.key.idx)
    (fun g => { g with mtxAfter := before })
    (acceptOp id (addOp kind false false none false s))

/-- The arrival at a latch (R187), with the GANG of the instruction's decode (R32): the operation is accepted once, when the last member has
come. -/
def latchArrive (w : Word) (zero reads : Bool) (d a rb : Nat) (s : State) : State :=
  let g := s.grp
  let me := g.key.idx
  let gang := decodedGang s
  let ms := gangMembers gang
  let bad := s.team.latches.filter fun l => if sameSet l.members ms then l.word != w || gangFields l.gang != gangFields gang else shareOne l.members ms
  match bad with
  | _ :: _ =>
    let s := bad.foldl (fun s l => latchErr s.team.key l s) s
    if s.team.phase = .running then trapHere 0x07 g.gang g.live true s else s
  | [] =>
    let l := (s.team.latches.find? fun l => sameSet l.members ms).getD ⟨ms, w, gang, [], none, pointOf g⟩
    let sh := if ms.head? = some me then some (mmaShape s a rb) else l.shape
    let l := { l with arrived := l.arrived ++ [me], shape := sh }
    let rest := s.team.latches.filter fun x => !sameSet x.members ms
    if g.curBatch.isNone && g.cntT = 63 && g.held.isNone then stall .tile s
    else
      let s := onGrp mmaUp s
      if l.arrived.length = ms.length then
        let batchOf := fun i => ((findGroup s { g.key with idx := i }).bind fun x => x.curBatch)
        let s := acceptGang s.team.key ms (mmaOp zero reads d a rb (sh.getD (mmaShape s a rb)) (ms.map fun i => (i, batchOf i)))
          (onTeam (fun t => { t with latches := rest }) s)
        ms.foldl (fun s i => leaveLatch { g.key with idx := i } s) s
      else waitOn .latch (onTeam (fun t => { t with latches := rest ++ [l] }) s)

/-- Whether a member of a latch has retired, as the issuing group sees it, since the first arrival and without having arrived (R187, R205). -/
def memberGone (s : State) (l : Latch) : Bool :=
  l.members.any fun i => !l.arrived.contains i &&
    (findGroup s { s.grp.key with idx := i }).any fun g => seenRetired s g && before l.first g.endsAt

/-- An attempt of a group that waits at a latch of a deterministic launch: GANGERR where a member that has not arrived has retired, and else the attempt
counts (R187, R328). -/
def latchTest (s : State) : State :=
  match s.team.latches.find? fun l => l.arrived.contains s.grp.key.idx && memberGone s l with
  | some l => latchErr s.team.key l s
  | none => waitOn .latch s

/-- A matrix multiply: at the latch for a ganged group, else for the issuing group alone (R187); arrival is a synchronising operation
(R188, R327). A group that waits at a latch stays there whatever its GANG has become (R32). -/
def mmaIssue (w : Word) (zero reads : Bool) (d a rb : Nat) (s : State) : State :=
  if s.grp.wait = .latch then syncOp s latchTest
  else if fieldN (decodedGang s) 0 3 = 0 then
    if s.grp.curBatch.isNone && s.grp.cntT = 63 then stall .tile s
    else retire (addOp (mmaOp zero reads d a rb (mmaShape s a rb) [(s.grp.key.idx, s.grp.curBatch)]) false false none false (onGrp mmaUp s))
  else syncOp s (latchArrive w zero reads d a rb)

/-- MMA (R182-R184, R187). -/
def execMma (d : BitVec 3) (a rb : BitVec 4) (s : State) : Res :=
  .next (issue (.mma d a rb) s fun s => mmaIssue ((encode (.mma d a rb)).getD 0) false false d.toNat a.toNat rb.toNat s)

/-- MMAZ (R182-R184, R187). -/
def execMmaz (d : BitVec 3) (a rb : BitVec 4) (s : State) : Res :=
  .next (issue (.mmaz d a rb) s fun s => mmaIssue ((encode (.mmaz d a rb)).getD 0) true false d.toNat a.toNat rb.toNat s)

/-- MMAR (R182-R185, R187). -/
def execMmar (d : BitVec 3) (a rb : BitVec 4) (s : State) : Res :=
  .next (issue (.mmar d a rb) s fun s => mmaIssue ((encode (.mmar d a rb)).getD 0) false true d.toNat a.toNat rb.toNat s)

/-- The fields of a drain's descriptor (R191). -/
def drainRows (x : DWord) : Nat := fieldN x 32 6
/-- See `drainRows`. -/
def drainCols (x : DWord) : Nat := fieldN x 40 6
/-- See `drainRows`. -/
def drainFmt (x : DWord) : Nat := fieldN x 48 2
/-- See `drainRows`: the bytes of an element. -/
def drainEb (x : DWord) : Nat := if drainFmt x = 0 then 4 else 2

/-- Whether a descriptor is one that the drain takes (R191). -/
def drainOk (add : Bool) (x : DWord) : Bool :=
  fieldN x 50 14 = 0 && fieldN x 46 2 = 0 && fieldN x 38 2 = 0 && (drainFmt x = 0 || (drainFmt x = 1 && !add)) &&
    1 ≤ drainRows x && decide (drainRows x ≤ 32) && 1 ≤ drainCols x && decide (drainCols x ≤ 32) &&
    (sx (x.extractLsb' 0 32)).toInt % (drainEb x : Int) = 0

/-- The elements of a drain in ascending (i, j), each with its place in the accumulator (R192). -/
def drainElems (x base : DWord) : List (Nat × Piece) :=
  (List.range (drainRows x)).flatMap fun i => (List.range (drainCols x)).map fun j =>
    (i * 32 + j, ⟨base + BitVec.ofNat 64 i * sx (x.extractLsb' 0 32) + BitVec.ofNat 64 (j * drainEb x), drainEb x, drainEb x⟩)

/-- The check of a drain's element: home 10 is HOST_AMO_UNSUP for DRAINA, behind its alignment (R178, R194). -/
def drainAcc (add : Bool) (s : State) (x : Piece) : AccRes :=
  if add && x.va.toNat % x.align = 0 && x.va.toNat / 2 ^ 53 = 10 && (failFor s.grp 0).isNone then .bad 0x50 x.va
  else pieceAcc .drain add true s x

/-- HOST_AMO_UNSUP of a DRAINA enters the handler with REPLAY 0 (R194, R291). -/
def drainReplay : AccRes → Bool
  | .fault c _ _ _ => c != 0x50
  | _ => true

/-- A drain at issue (R178, R191-R194). -/
def drainIssue (i : Instr) (add : Bool) (d : Nat) (a rb : BitVec 7) (s : State) : State :=
  let x := getS s.grp rb.toNat
  if !drainOk add x then trapHere 0x01 (wordVal i) (wholeOf s.grp) false s
  else
    let es := drainElems x (getS s.grp a.toNat)
    let det := (checkPieces (drainAcc add) true (es.map (·.2)) s).2.any fun p => match p.2 with | .ok _ dt _ => dt | _ => false
    withPieces (drainAcc add) true (es.map fun e => [e.2]) drainReplay s fun ls s =>
      withRoom .store s fun s =>
        let kind : OpKind := .drain d add (drainFmt x = 1) s.grp.fpctl ((es.zip ls).map fun p => ⟨p.1.1, p.1.2.va, p.2⟩) none
        if kind.paused s then stall .fabric s
        else retire (addOp kind false false none (add || det) (onGrp (takeCnt .store) s))

/-- DRAINA (R189, R191-R194). -/
def execDraina (d : BitVec 3) (a rb : BitVec 7) (s : State) : Res :=
  .next (issue (.draina d a rb) s (drainIssue (.draina d a rb) true d.toNat a rb))

/-- DRAINS (R189, R191-R194). -/
def execDrains (d : BitVec 3) (a rb : BitVec 7) (s : State) : Res :=
  .next (issue (.drains d a rb) s (drainIssue (.drains d a rb) false d.toNat a rb))

/-- The tiles and accumulators that an operation reads and writes; tile n is n, accumulator n is 16 + n (R174). -/
def OpKind.uses : OpKind → List Nat × List Nat
  | .tld t _ _ => ([], [t])
  | .tst t _ _ => ([t], [])
  | .tzero t => ([], [t])
  | .accz a => ([], [16 + a])
  | .accld a _ _ _ => ([16 + a], [])
  | .mma d ta tb _ _ _ _ done => (if done then [16 + d] else [ta, tb, 16 + d], [16 + d])
  | .drain a _ _ _ _ x => (if x.isSome then [] else [16 + a], [])
  | _ => ([], [])

/-- Whether an operation that was accepted earlier must take effect before `o` does (R174). -/
def clashes (e o : Op) : Bool :=
  let p := e.kind.uses
  let q := o.kind.uses
  p.2.any (fun n => q.1.contains n || q.2.contains n) || p.1.any fun n => q.2.contains n

/-- The team of an operation. -/
def Op.team (o : Op) : TKey := match o.owner with | .group k => tkeyOf k | .packet _ => ⟨0, 0⟩

/-- Whether an accepted operation may take effect on the tiles and accumulators now (R174). -/
def engineReady (s : State) (o : Op) : Bool :=
  match o.accepted with
  | none => false
  | some n => s.ops.all fun e => e.id = o.id || e.team != o.team || !clashes e o ||
      (match e.accepted with | some m => decide (n < m) | none => true)

/-- Whether the engine may accept an operation: those that a group issued earlier come first (R174). -/
def mayAccept (s : State) (o : Op) : Bool :=
  o.kind.engine && o.accepted.isNone &&
    (s.ops.takeWhile fun e => e.id != o.id).all fun e => !e.kind.engine || e.accepted.isSome || e.team != o.team || !shareOne e.parts o.parts

/-- The class that counts an operation of the engine (R33). -/
def Op.eccClass (o : Op) : CntClass := if o.kind.path = 3 then .store else .tile

/-- The first uncorrectable byte of a run that an accepted operation reads (R179). -/
def eccIn (s : State) (l : Loc) (n : Nat) : Option Nat :=
  if s.ecc.isEmpty then none else findFrom (fun i => hasEcc s (l.add i) 1) 0 n

/-- The bytes of a run; where an uncorrectable error lies they hold values that nothing fixes (R179, log 3). -/
def readOpen (s : State) (l : Loc) : (n : Nat) → List Byte
  | 0 => []
  | n + 1 => (if hasEcc s l 1 then Config.freeByte (s.fresh - 1 - n) else rdByte s l) :: readOpen s (l.add 1) n

/-- The deferred ECC_UNCORR of an operation's group, with its entry in the hank (R179, R257). Each row piece and each element that meets an error
has a trap of its own, with the first byte that fails (DESIGN CHOICE, log 41). -/
def deferEcc (o : Op) (va : DWord) (l : Loc) (n : Nat) (s : State) : State :=
  match eccIn s l n, o.owner with
  | some i, .group k =>
    let at_ : DWord := va + BitVec.ofNat 64 i
    let part := (findGrid s k.launch).map (·.part)
    hankEcc (part.getD 0) (l.add i) (updGroup k (fun g => { g with eccPend := g.eccPend ++ [⟨at_, o.eccClass, [o.kind.path], none, none, none⟩] }) { s with fresh := s.fresh + n })
  | _, _ => s

/-- Reads a row, with the errors it meets. -/
def readRow (o : Op) (ss : List Span) (s : State) : State × List Byte :=
  ss.foldl (fun p x => let t := deferEcc o x.va x.loc x.len p.1; (t, p.2 ++ readOpen t x.loc x.len)) (s, [])

/-- A run of `n` bytes of row `i` of tile `t` in its team's file. -/
def tileRun (k : TKey) (t i n : Nat) : Loc × Nat := (⟨.tile k, t * 4096 + i * 128, 0⟩, n)

/-- `n` elements of accumulator `a`, from number `e` on, in its team's file. -/
def accRun (k : TKey) (a e n : Nat) : Loc × Nat := (⟨.acc k, (a * 1024 + e) * 4, 0⟩, 4 * n)

/-- Whether a group is stalled at an instruction that names a register of its allocation (R177): none of the FAB major does. -/
def waitsForReg (s : State) (k : GKey) (d : Nat) : Bool :=
  let t := checkout k s
  t.grp.key = k && t.grp.wait.stalled && (match (fetchWord t).bind fun w => decodeMain w.toNat with
    | some i => ((checksOf i).operands.flatMap (Opnd.regs t.grp)).contains (.inr d)
    | none => false)

/-- The deferred ECC_UNCORR of an operation that meets an error in its team's tiles or accumulators, of every group that waits for it, with its batch
(R105, R177, R179, R257). A drain reads its accumulator on the MTX path, and FENCEX waits for that read on MTX and on DRAIN (R116, R174). A file has no
address: TVAL is a free value (DESIGN CHOICE, log 41). -/
def deferFile (o : Op) (ks : List (GKey × Option Nat)) (r : Loc × Nat) (s : State) : State :=
  match eccIn s r.1 r.2 with
  | some i =>
    let reg := fun k => match o.kind with | .accld _ _ d _ => if waitsForReg s k d then some d else none | _ => none
    let paths := if o.kind.path = 3 then [2, 3] else [o.kind.path]
    let part := (findGrid s o.team.launch).map (·.part)
    hankEcc (part.getD 0) (r.1.add i) (ks.foldl (fun t k => updGroup k.1 (fun g => { g with
      eccPend := g.eccPend ++ [⟨Config.freeDWord s.fresh, o.eccClass, paths, k.2, reg k.1, none⟩] }) t) { s with fresh := s.fresh + r.2 })
  | none => s

/-- The group of an operation, as one that waits for it by its counter. -/
def Op.byCounter (o : Op) : List (GKey × Option Nat) := match o.owner with | .group k => [(k, none)] | .packet _ => []

/-- The elements of an accumulator that an operation takes: one with an uncorrectable error is a value that nothing fixes (R179, log 3). -/
def openAcc (s : State) (k : TKey) (a e : Nat) : Word := BitVec.ofNat 32 (ofBytes (readOpen s (accRun k a e 1).1 4))

/-- TLD takes effect: each row of the shape is written (R175, R180). -/
def tldNow (o : Op) (t : Nat) (rows : List (List Span)) (s : State) : State :=
  ((List.range rows.length).zip rows).foldl (fun s r =>
    let p := readRow o r.2 s
    updTeam o.team (fun x => { x with tiles := msets x.tiles (t * 4096 + r.1 * 128) p.2 }) p.1) s

/-- A row's bytes go to the runs of memory it is cut into. -/
def writeRow : List Span → List Byte → State → State
  | [], _, s => s
  | x :: xs, bs, s => writeRow xs (bs.drop x.len) (wrBytes x.loc (bs.take x.len) s)

/-- TST takes effect: the rows in ascending order (R180), with the errors of its tile (R179). -/
def tstNow (o : Op) (t : Nat) (sh : DWord) (rows : List (List Span)) (s : State) : State :=
  ((List.range rows.length).zip rows).foldl (fun s r =>
    let run := tileRun o.team t r.1 (rowBytes sh)
    let s := deferFile o o.byCounter run s
    writeRow r.2 (readOpen s run.1 run.2) s) s

/-- ACCLD takes effect (R190). -/
def accldNow (o : Op) (k : GKey) (a row d : Nat) (live : Word) (s : State) : State :=
  let read := fun t s => if row < 32 then
      let s := deferFile o o.byCounter (accRun o.team a (row * 32 + t) 1) s
      (s, openAcc s o.team a (row * 32 + t))
    else (s, 0)
  (threads live).foldl (fun s t => let r := read t s; updGroup k (setA d t r.2) r.1) s

/-- Row `i` of a BF16 tile (R175, R183). -/
def tileRow (t : Team) (n : Nat) (ftz : Bool) (i : Nat) : List FVal :=
  (List.range 64).map fun k => ofBits bf16 ftz (ofBytes (mgets t.tiles (n * 4096 + i * 128 + 2 * k) 2))

/-- One element of a product (R90, R184). -/
def mmaElem (t : Team) (d ta tb : Nat) (zero : Bool) (sh : MmaShape) (i j : Nat) : Word :=
  let ftz := tbit sh.fpctl 2
  let acc := if zero then FVal.fin false 0 0 else ofBits fp32 ftz (mget t.accs (d * 1024 + i * 32 + j)).toNat
  w32 (fsum fp32 (sh.fpctl.extractLsb' 0 2) ftz (acc :: ((tileRow t ta ftz i).zip (tileRow t tb ftz j)).map fun p => p.1.mul p.2))

/-- The accumulators after a multiply (R184): the elements outside m × n keep their values, or are +0 for MMAZ. -/
def mmaAccs (t : Team) (d ta tb : Nat) (zero : Bool) (sh : MmaShape) : SMap 32 :=
  let base := if zero then mclear t.accs (d * 1024) 1024 else t.accs
  (List.range sh.m).foldl (fun a i =>
    (List.range sh.n).foldl (fun a j => mset a (d * 1024 + i * 32 + j) (mmaElem t d ta tb zero sh i j)) a) base

/-- An allowance returns to a queue of a team, if it is initialised (R167, R185). -/
def returnAllowance (k : TKey) (q : Nat) (s : State) : State :=
  updTeam k (fun t => { t with queues := t.queues.modify q fun x => if x.init then allow 1 x else x }) s

/-- The rows of tiles, and of an accumulator, that a multiply reads (R184). -/
def mmaReads (k : TKey) (d ta tb : Nat) (zero : Bool) (sh : MmaShape) : List (Loc × Nat) :=
  ((List.range sh.m).map fun i => tileRun k ta i 128) ++
    ((List.range sh.n).filter fun j => tb != ta || decide (sh.m ≤ j)).map (fun j => tileRun k tb j 128) ++
    (if zero then [] else (List.range sh.m).map fun i => accRun k d (i * 32) sh.n)

/-- Whether an element of a product depends on an uncorrectable error (R179). -/
def mmaLost (s : State) (k : TKey) (d ta tb : Nat) (zero : Bool) (i j : Nat) : Bool :=
  let bad := fun r : Loc × Nat => hasEcc s r.1 r.2
  bad (tileRun k ta i 128) || bad (tileRun k tb j 128) || (!zero && bad (accRun k d (i * 32 + j) 1))

/-- The elements that depend on an uncorrectable error hold values that nothing fixes (R179, log 3). -/
def openElems (s : State) (k : TKey) (d ta tb : Nat) (zero : Bool) (sh : MmaShape) (accs : SMap 32) : SMap 32 :=
  if s.ecc.isEmpty then accs
  else (List.range sh.m).foldl (fun a i => (List.range sh.n).foldl (fun a j =>
    if mmaLost s k d ta tb zero i j then mset a (d * 1024 + i * 32 + j) (Config.freeWord (s.fresh + i * 32 + j)) else a) a) accs

/-- The multiply reads its tiles and forms its result, once (R184), with the errors that it meets (R179). -/
def mmaCompute (o : Op) (s : State) : State :=
  match o.kind with
  | .mma d ta tb zero sh ms due false =>
    let accs := fun t => openElems s o.team d ta tb zero sh (mmaAccs t d ta tb zero sh)
    let ks := ms.map fun m => ((⟨o.team.launch, o.team.team, m.1⟩ : GKey), m.2)
    let s1 := if s.ecc.isEmpty then s else (mmaReads o.team d ta tb zero sh).foldl (fun s r => deferFile o ks r s) { s with fresh := s.fresh + 1024 }
    updOp o.id (fun o => { o with kind := .mma d ta tb zero sh ms due true }) (updTeam o.team (fun t => { t with accs := accs t }) s1)
  | _ => s

/-- The multiply ends: the allowances still due return, and every member's batch or T falls (R176, R185). -/
def mmaEnds (o : Op) (ms : List (Nat × Option Nat)) (due : List (Bool × Nat)) (s : State) : State :=
  let s := due.foldl (fun s q => returnAllowance o.team q.2 s) s
  let s := ms.foldl (fun s m => updGroup ⟨o.team.launch, o.team.team, m.1⟩ (mmaDown m.2) s) (dropOp o.id s)
  endedRelease o.team s

/-- The values of an accumulator that a drain reads (R192), with the errors that it meets (R179). -/
def drainTake (o : Op) (a : Nat) (elems : List Access) (s : State) : State × List Word :=
  elems.foldl (fun p e =>
    let s := deferFile o o.byCounter (accRun o.team a e.thread 1) p.1
    (s, p.2 ++ [openAcc s o.team a e.thread])) (s, [])

/-- One element of a drain is applied (R192). -/
def drainOne (o : Op) (add bf : Bool) (fpctl : BitVec 3) (e : Access) (x : Word) (s : State) : State :=
  let l := e.loc
  if add then
    let s := deferEcc o e.va l 4 s
    let old : Word := BitVec.ofNat 32 (ofBytes (readOpen s l 4))
    wrBytes l (toBytes (amoVal .fadd old x 0).toNat 4) s
  else if bf then
    wrBytes l (toBytes (toBits bf16 (fpctl.extractLsb' 0 2) (tbit fpctl 2) (ofBits fp32 (tbit fpctl 2) x.toNat)) 2) s
  else wrBytes l (toBytes x.toNat 4) s

/-- A drain's update, whole, in ascending (i, j) (R192, R193). -/
def drainNow (o : Op) (add bf : Bool) (fpctl : BitVec 3) (elems : List Access) (xs : List Word) (s : State) : State :=
  (elems.zip xs).foldl (fun s p => drainOne o add bf fpctl p.1 p.2 s) s

end Sys2Proof.Machine
end

