-- ==== Sys2Proof/Machine/Page.lean ====
section
/-! DEFINITION. Page status and waits on other teams (R198-R205). -/

namespace Sys2Proof.Machine

/-- A page as the issuing group sees it: in a deterministic launch the end of a team shows behind the point at which the team ended in the order of R327
(R205, log 12). A page that never gets a team, a skipped one among them, has no such point and shows its end at once (R332). -/
def seenPage (s : State) (p : Page) : Page :=
  if s.grid.det && p.seen != (0, 0) && !before p.seen (pointOf s.grp) && (p.st = .done || p.st = .failed) then { p with st := .running } else p

/-- The page of the grid that a team index names (R198, R200). -/
def pageAt (s : State) (i : Nat) : Option Page := (s.grid.pages[i]?).map (seenPage s)

/-- A page's phase (R199). -/
def PageSt.phase : PageSt → Nat
  | .waiting => 0
  | .issued _ _ _ => 0
  | .landed _ _ _ => 1
  | .running => 1
  | .done => 2
  | .failed => 3

/-- A team index (R198). -/
def teamIdx (g : Group) (a : BitVec 7) : Nat := fieldN (getS g a.toNat) 0 32

/-- The status word of PSTATR (R199). -/
def pageWord (p : Page) : DWord :=
  BitVec.ofNat 64 (p.pgidx.toNat * 2 ^ 32 + p.st.phase * 2 ^ 18 + (if p.st.phase = 0 then 0 else p.pstat.toNat))

/-- PSTATR (R199, R200, R205), behind the group's earlier acquires (R244). -/
def execPstatr (d a : BitVec 7) (s : State) : Res :=
  .next (issue (.pstatr d a) s fun s => acquired s fun s => syncOp s fun s =>
    match pageAt s (teamIdx s.grp a) with
    | none => retireWith (fun g => setCC ⟨false, false, false, true⟩ (setS d.toNat 0 g)) s
    | some p =>
      let ph := p.st.phase
      retireWith (fun g => setCC ⟨ph = 2, ph = 0, ph = 3, false⟩ (setS d.toNat (pageWord p) g)) s)

/-- The codes of R201 with their flags. -/
inductive BwaitCode where
  | done | failed | timeout | badTeam | pending
deriving DecidableEq, Repr

/-- The value of a code (R201). -/
def BwaitCode.val : BwaitCode → DWord
  | .done => 0
  | .failed => 1
  | .timeout => 2
  | .badTeam => 3
  | .pending => 4

/-- The flags of a code (R201). -/
def BwaitCode.cc : BwaitCode → CC
  | .done => ⟨true, false, false, false⟩
  | .failed => ⟨false, false, true, false⟩
  | .timeout => ⟨false, false, false, true⟩
  | .badTeam => ⟨false, false, true, true⟩
  | .pending => ⟨false, true, false, false⟩

/-- BWAIT and BTRY end with a code (R201); a group that BWAIT suspended is back in its lane's sets (R202, R315). -/
def bwaitEnd (d : Nat) (c : BwaitCode) (s : State) : State :=
  retireWith (fun g => setCC c.cc (setS d c.val g)) (unsuspend s.grp.key s)

/-- What a test of the named team answers, `none` where it is neither DONE nor FAILED (R201). -/
def bwaitTest (s : State) (i : Nat) : Option BwaitCode :=
  if i = s.team.key.team then some .badTeam
  else match pageAt s i with
    | none => some .badTeam
    | some p => if p.st.phase = 2 then some .done else if p.st.phase = 3 then some .failed else none

/-- The groups of the issuing group's launch that wait in BWAIT. -/
def bwaiters (s : State) : List Group :=
  (allGroups s).filter fun g => g.key.launch = s.grid.id && goesOn s g && (match g.wait with | .bwait _ _ _ => true | _ => false)

/-- Whether every unretired group of a deterministic launch stands at a BWAIT whose last attempt ended without effect, with nothing done since the
earliest of those (R205): no synchronising operation since, no group retired behind it, and no operation left to the commit of its quantum or of a later
one. The issuing group's last attempt is `since`. -/
def cycleOut (s : State) (since : Nat) : Bool :=
  let ps := (bwaiters s).map fun g => (g.clk.toNat - 1, gidOf g.key)
  let first := ps.foldl (fun m p => if before p m then p else m) (s.grp.clk.toNat - 1, gidOf s.grp.key)
  decide (since = s.grid.progress) &&
    (s.grid.pages.all fun p => !p.st.unplaced && seenPage s p = p) &&
    (allGroups s).all fun g => g.key.launch != s.grid.id || ((g.commAt.all fun p => p.2 < first.1 / 4096) &&
      (if goesOn s g then (match g.wait with
        | .bwait _ n _ => decide (n = s.grid.progress)
        | _ => false)
      else before (if ((findTeam s (tkeyOf g.key)).bind (·.endRec)).isSome then teamEnd s (tkeyOf g.key) else g.endsAt) first))

/-- Every waiting BWAIT of the launch returns TIMEOUT at its next attempt (R205). -/
def markOut (s : State) : State :=
  updGroups (fun g => g.key.launch = s.grid.id && g.key != s.grp.key) (fun g => match g.wait with
    | .bwait i n _ => { g with wait := .bwait i n true }
    | _ => g) s

/-- BWAIT in a deterministic launch, at its point: an attempt that is not met counts in CLK (R205, R328). -/
def bwaitDet (d i : Nat) (s : State) : State :=
  match s.grp.wait with
  | .bwait _ since out =>
    if out then bwaitEnd d .timeout s
    else match bwaitTest s i with
      | some c => bwaitEnd d c s
      | none => if cycleOut s since then bwaitEnd d .timeout (markOut s) else waitOn (.bwait i s.grid.progress false) s
  | _ =>
    match bwaitTest s i with
    | some c => bwaitEnd d c s
    | none => waitOn (.bwait i s.grid.progress false) s

/-- BWAIT otherwise: a waiter whose target is PENDING leaves its lane's sets (R201, R202). -/
def bwaitFree (d i : Nat) (s : State) : State :=
  match bwaitTest s i with
  | some c => bwaitEnd d c s
  | none =>
    match s.grp.wait with
    | .bwait _ _ _ => s
    | _ =>
      let pending : Bool := match pageAt s i with | some p => p.st.phase = 0 | none => false
      let s := waitOn (.bwait i s.now false) s
      if pending then suspend s.grp.key s else s

/-- BWAIT (R201, R202, R205). -/
def execBwait (d a : BitVec 7) (s : State) : Res :=
  .next (issue (.bwait d a) s fun s => acquired s fun s => syncOp s fun s =>
    let i := teamIdx s.grp a
    if s.grid.det then bwaitDet d.toNat i s else bwaitFree d.toNat i s)

/-- BTRY (R201, R205). In a deterministic launch it tests its target at its point in the order of R327, where R205 also speaks of the quantum boundary at
which it commits: the choice of this model, log 12. -/
def execBtry (d a : BitVec 7) (s : State) : Res :=
  .next (issue (.btry d a) s fun s => acquired s fun s => syncOp s fun s =>
    let c := (bwaitTest s (teamIdx s.grp a)).getD .pending
    retireWith (fun g => setCC c.cc (setS d.toNat c.val g)) s)

/-- PFREE (R203). -/
def execPfree (s : State) : Res :=
  .next (issue .pfree s fun s =>
    awaitS 0 s fun s => match overBound s.grp 0 0 0 0 with
    | some r => stall r s
    | none =>
      if s.team.slotFreed then retireWith (setCC (ccOk false)) s
      else retireWith (setCC (ccOk true))
        (onTeam (fun t => { t with slotFreed := true }) (freeSlot (clusterOf s.team.spindle) s.team.slot s)))

end Sys2Proof.Machine
end

