-- ==== Sys2Proof/Machine/OpEvents.lean ====
section
/-! DEFINITION. What the memory paths, the engines, the reels, the tier engines and the timers do of themselves: operations complete, waits
run out, groups retire (the steps from GROUP_RETIRE to EVICTION_END of the opcode table, QUANTUM_END, SYNC_OP_EFFECT, BREAKPOINT_STOP,
ILLEGAL_WORD, OUT_OF_SECTION_FETCH and UNUSED_SLOT). A step whose condition does not hold does not occur, and leaves the state as it is. -/

namespace Sys2Proof.Machine

/-- Whether a group at EXIT may retire (R44, R117): the count of an instruction that has trapped holds it until the instruction is skipped (R149), but for
an atomic to home 10 (R383). -/
def mayLeave (g : Group) : Bool :=
  let g := leaves g
  g.phase = .exiting && g.cntL = 0 && g.cntS = 0 && g.cntC = 0 && g.cntT = 0 && g.batchPend.all fun p => p.2 = 0

/-- The partners that wait in DONATE for a group that retires (R108). -/
def donateWaiters (s : State) (k : GKey) : List GKey :=
  ((groupsOf s (tkeyOf k)).filter fun g => match g.wait with | .donate _ p _ => p = k.idx | _ => false).map fun g => g.key

/-- The latches that hold arrivals and name a group that has not arrived (R187). -/
def latchesNaming (s : State) (k : GKey) : List Latch :=
  match findTeam s (tkeyOf k) with
  | some t => t.latches.filter fun l => l.members.contains k.idx && !l.arrived.contains k.idx
  | none => []

/-- GROUP_RETIRE (R44, R108, R117, R179, R187); in a deterministic launch those that wait for the group learn of it at their next attempts (R327, R328).
An error that an engine met after EXIT had issued is taken at EXIT. -/
def execGroupRetire (k : GKey) (s : State) : Res :=
  .next (match findGroup s k with
    | some g =>
      if !mayLeave g || !teamRuns s k then s
      else match g.eccPend with
      | e :: _ => asGroup k (fun s => takeEcc e (onGrp (fun g => { g with phase := .running }) s)) s
      | [] =>
        let free := match findGrid s k.launch with | some d => !d.det | none => true
        let s := if free then (donateWaiters s k).foldl (fun s p => donateEnd p false s) s else s
        let s := if free then (latchesNaming s k).foldl (fun s l => latchErr (tkeyOf k) l s) s else s
        if teamRuns s k then retireGroup k s else s
    | none => s)

/-- DONATE_TRANSFER (R45, R108); in a deterministic launch the rendezvous is made at the later group's point (R327). -/
def execDonateTransfer (donor taker : GKey) (s : State) : Res :=
  .next (match findGroup s donor, findGroup s taker with
    | some d, some q =>
      match d.wait, q.wait with
      | .donate true p k, .donate false p' k' =>
        if tkeyOf donor = tkeyOf taker && p = taker.idx && p' = donor.idx && k = k' && teamRuns s donor &&
          !(findGrid s donor.launch).any (·.det) then donateTry donor taker k id s else s
      | _, _ => s
    | _, _ => s)

/-- An operation of the machine that may be performed now: nothing ordered before it is outstanding, and it waits for no commit (R241-R244,
R253). -/
def readyOp (s : State) (id : Nat) : Option Op :=
  match findOp s id with
  | some o => if o.quantum.isNone && (blockers s o).isEmpty then some o else none
  | none => none

/-- LOAD_COMPLETION (R148, R149). -/
def execLoadCompletion (op : Nat) (s : State) : Res :=
  .next (match readyOp s op with
    | some o =>
      match o.kind, o.owner with
      | .load d n signed accs, .group k => endOp o .load (loadAll k d n signed accs s)
      | .sload d n a, .group k => endOp o .load (sloadNow k d n a s)
      | _, _ => s
    | none => s)

/-- STORE_PERFORMED (R148, R149). -/
def execStorePerformed (op : Nat) (s : State) : Res :=
  .next (match readyOp s op with
    | some o =>
      match o.kind with
      | .store n accs _ => endOp o .store (storeAll n accs s)
      | _ => s
    | none => s)

/-- The effect of a word atomic whose accesses are all on the device's own paths. -/
def amoPerform (o : Op) (s : State) : State :=
  match o.kind, o.owner with
  | .amo op r accs, .group k => amoAll (o.into.getD k) op r accs s
  | .samo op d a y cmp, .group k => samoNow k op d a y cmp s
  | _, _ => s

/-- ATOMIC_COMPLETION (R152-R155). -/
def execAtomicCompletion (op : Nat) (s : State) : Res :=
  .next (match readyOp s op with
    | some o => if o.kind.atomic && o.host.isNone then endOp o .store (amoPerform o s) else s
    | none => s)

/-- Whether an access goes to host memory. -/
def Access.toHost (a : Access) : Bool := a.va.toNat / 2 ^ 53 = 10

/-- The faults of a host atomic by thread, the lowest first (R149). -/
def byThread (l : List (Nat × BitVec 8 × DWord)) : List (Nat × BitVec 8 × DWord) :=
  (List.range 32).filterMap fun t => l.find? fun f => f.1 = t

/-- A host atomic has had all its completions: the instruction retires, traps or parks (R149, R156). `whole` marks a scalar one. -/
def hostEnd (o : Op) (h : HostFails) (whole : Bool) (s : State) : State :=
  if h.faults.isEmpty && h.parks.isEmpty then resumeOp o (counted retire) s
  else resumeOp o (fun s => heldFree s <|
    let m := if whole then wholeOf s.grp else threadMask fun t => (h.faults.any fun f => f.1 = t) || h.parks.any fun p => p.1 = t
    endFaults m (byThread h.faults) h.parks s) s

/-- A performed access of a host atomic shows to the watchpoints of its group (R293, R397). -/
def hostHits (k : GKey) (n : Nat) (a : Access) (s : State) : State := asGroup k (noteHits true true n [(a.thread, a.va)]) s

/-- One access of a vector atomic, with what the link answered for it (R357). -/
def hostOne (k : GKey) (op : AmoOp) (r : Nat) (x : Access × Word × Word) (st : LinkStatus) (h : HostFails) (s : State) : State × HostFails :=
  let fault := fun (c : BitVec 8) s => (s, { h with faults := h.faults ++ [(x.1.thread, c, x.1.va)] })
  match st with
  | .ok => (hostHits k 4 x.1 (amoOne k op r x s), h)
  | .ur => fault 0x50 s
  | .ca => fault 0x51 s
  | .poison updated =>
    let old : Word := BitVec.ofNat 32 (rdNat s x.1.loc 4)
    fault 0x52 (if updated then wrBytes x.1.loc (toBytes (amoVal op old x.2.1 x.2.2).toNat 4) s else s)

/-- The accesses of a vector atomic that come before its next one to the host, and the rest. -/
def splitHost : List (Access × Word × Word) → List (Access × Word × Word) × List (Access × Word × Word)
  | [] => ([], [])
  | x :: xs => if x.1.toHost then ([], x :: xs) else let r := splitHost xs; (x :: r.1, r.2)

/-- The accesses that are the device's own are performed on the way (R152). -/
def ownOnes (k : GKey) (op : AmoOp) (r : Nat) (xs : List (Access × Word × Word)) (s : State) : State :=
  xs.foldl (fun s x => hostHits k 4 x.1 (amoOne k op r x s)) s

/-- What an answer of the link does to a host atomic: each is judged alone (R357). -/
def hostAnswer (o : Op) (h : HostFails) (st : LinkStatus) (s : State) : State :=
  match o.kind, o.owner with
  | .amo op r accs, .group k =>
    let p := splitHost accs
    let s := ownOnes k op r p.1 s
    (match p.2 with
    | [] => hostEnd o h false s
    | x :: xs =>
      let q := hostOne k op r x st h s
      let rest := splitHost xs
      if rest.2.isEmpty then hostEnd o q.2 false (ownOnes k op r rest.1 q.1)
      else updOp o.id (fun o => { o with kind := .amo op r xs, host := some q.2, sent := s.now }) q.1)
  | .samo op d a y cmp, .group k =>
    let fault := fun c => hostEnd o { h with faults := [(0, c, a.va)] } true
    (match st with
    | .ok => hostEnd o h true (hostHits k 8 a (samoNow k op d a y cmp s))
    | .ur => fault 0x50 s
    | .ca => fault 0x51 s
    | .poison updated =>
      let old : DWord := BitVec.ofNat 64 (rdNat s a.loc 8)
      fault 0x52 (if updated then wrBytes a.loc (toBytes (amoInt op old y cmp).toNat 8) s else s))
  | _, _ => s

/-- Whether the hub of an operation's group has a CXL link (R356, R357). -/
def onCxl (s : State) (o : Op) : Bool :=
  match o.owner with
  | .group k => (match findGrid s k.launch with | some d => s.cxl.contains d.hub | none => false)
  | .packet _ => false

/-- HOST_ATOMIC_COMPLETION (R156, R357): the answer to the operation's next access to the host; UR does not arise on a CXL link. -/
def execHostAtomicCompletion (op : Nat) (st : LinkStatus) (s : State) : Res :=
  .next (match readyOp s op with
    | some o =>
      match o.host with
      | some h => if st = .ur && onCxl s o then s else hostAnswer o h st s
      | none => s
    | none => s)

/-- Microseconds in units of pod time. -/
def usTime (n : Nat) : Nat := n * 2000

/-- The completion timeout of a hub's link in microseconds, none where the host has disabled it (R354): 50 ms by default. The ranges that Device Control 2
names are those of PCI Express, of which this is the least time (PRESUMED, log 6). -/
def ctoUs (s : State) (hub : Nat) : Option Nat :=
  let v := mget s.cto hub
  if tbit v 4 then none
  else some (match v.toNat with
    | 1 => 50
    | 2 => 1000
    | 5 => 16000
    | 6 => 65000
    | 9 => 260000
    | 10 => 1000000
    | 13 => 4000000
    | 14 => 17000000
    | _ => 50000)

/-- Whether the present request of an operation has been without an answer for the completion timeout of its link (R354). -/
def ctoOver (s : State) (o : Op) : Bool :=
  match o.owner with
  | .group k => (match findGrid s k.launch with
    | some d => (match ctoUs s d.hub with | some us => decide (o.sent + usTime us ≤ s.now) | none => false)
    | none => false)
  | .packet _ => false

/-- HOST_COMPLETION_TIMEOUT (R354, R357). -/
def execHostCompletionTimeout (op : Nat) (s : State) : Res :=
  .next (match readyOp s op with
    | some o => (match o.host with | some h => if ctoOver s o then hostAnswer o h .ca s else s | none => s)
    | none => s)

/-- Whether an engine's operation waits for an answer to a fault record (R289). -/
def awaitsRecord (s : State) (o : Op) : Bool := o.records.any fun i => s.records.any fun r => r.id = i

/-- Whether one of these records stands in a peer's queue. -/
def awaitsPeer (s : State) (ids : List Nat) : Bool := ids.any fun i => s.records.any fun r => r.id = i && r.queuePart = peerQueue

/-- The peers answer these records: each is gone, the outcome that the peer gave for its page is spent, and the groups that wait on it may
replay (R289, R340). No step of the table brings the answer, so it comes with the step that needs it (log 34). -/
def peerAnswers (ids : List Nat) (s : State) : State :=
  ids.foldl (fun s i => match s.records.find? fun r => r.id = i ∧ r.queuePart = peerQueue with
    | some r => updGroups (fun g => match g.park with | some p => p.recs.any fun x => x.2.1 = i | none => false)
        (fun g => { g with park := g.park.map fun p => { p with eligible := true } })
        { s with records := s.records.filter (fun x => x.id ≠ i), peerFaults := s.peerFaults.eraseP fun p => p.1 = r.page }
    | none => s) s

/-- COPY_COMPLETION (R158). -/
def execCopyCompletion (op : Nat) (s : State) : Res :=
  .next (match readyOp s op with
    | some o => (match o.kind with
      | .copy j => if !awaitsRecord s o then copyNow o j s else if awaitsPeer s o.records then copyNow o j (peerAnswers o.records s) else s
      | _ => s)
    | none => s)

/-- ENGINE_ACCEPT (R174). -/
def execEngineAccept (op : Nat) (s : State) : Res :=
  .next (match findOp s op with
    | some o => if mayAccept s o then acceptOp op s else s
    | none => s)

/-- An accepted operation whose turn has come (R174, R241). -/
def readyEngine (s : State) (id : Nat) : Option Op :=
  match findOp s id with
  | some o => if engineReady s o && (blockers s o).isEmpty then some o else none
  | none => none

/-- TILE_COMPLETION (R176, R180, R190). -/
def execTileCompletion (op : Nat) (s : State) : Res :=
  .next (match readyEngine s op with
    | some o =>
      match o.kind, o.owner with
      | .tld t _ rows, _ => endOp o .tile (tldNow o t rows s)
      | .tst t sh rows, _ => endOp o .tile (tstNow o t sh rows s)
      | .tzero t, _ => endOp o .tile (updTeam o.team (fun x => { x with tiles := mclear x.tiles (t * 4096) 4096 }) s)
      | .accz a, _ => endOp o .tile (updTeam o.team (fun x => { x with accs := mclear x.accs (a * 1024) 1024 }) s)
      | .accld a row d live, .group k => endOp o .tile (accldNow o (o.into.getD k) a row d live s)
      | _, _ => s
    | none => s)

/-- MMA_COMPLETION (R176, R184, R185). -/
def execMmaCompletion (op : Nat) (s : State) : Res :=
  .next (match readyEngine s op with
    | some o => (match o.kind with | .mma _ _ _ _ _ ms due _ => mmaEnds o ms due (mmaCompute o s) | _ => s)
    | none => s)

/-- The operation with one allowance no longer due. -/
def dropDue (q : Bool × Nat) (o : Op) : Op :=
  match o.kind with
  | .mma d ta tb zero sh ms due done => { o with kind := .mma d ta tb zero sh ms (due.filter fun x => x ≠ q) done }
  | _ => o

/-- MMAR_ALLOWANCE (R185): the engine has read the tile for the last time; `second` names the second tile. -/
def execMmarAllowance (op : Nat) (second : Bool) (s : State) : Res :=
  .next (match readyEngine s op with
    | some o =>
      match o.kind with
      | .mma _ _ _ _ _ _ due _ =>
        (match due.find? fun q => q.1 = second with
        | some q => returnAllowance o.team q.2 (updOp op (dropDue q) (mmaCompute o s))
        | none => s)
      | _ => s
    | none => s)

/-- DRAIN_COMPLETION (R189, R192, R193): a communication operation of a deterministic launch takes its values now, and its update is made at
its commit (R253). -/
def execDrainCompletion (op : Nat) (s : State) : Res :=
  .next (match readyEngine s op with
    | some o =>
      match o.kind with
      | .drain a add bf fpctl elems none =>
        let r := drainTake o a elems s
        if o.quantum.isSome then updOp op (fun o => { o with kind := .drain a add bf fpctl elems (some r.2) }) r.1
        else endOp o .store (drainNow o add bf fpctl elems r.2 r.1)
      | _ => s
    | none => s)

/-- REEL_STEP (R220), behind the acquires before the instruction (R244). -/
def execReelStep (op : Nat) (s : State) : Res :=
  .next (match findOp s op with
    | some o => (match o.kind with
      | .reel die d j => if awaitsRecord s o || !(blockers s o).isEmpty then s else reelStep o die d j s
      | _ => s)
    | none => s)

/-- PARKED_REPLAY (R149, R290): the group is back in its lane, and its instruction acts for the park mask at its next issue. -/
def execParkedReplay (k : GKey) (s : State) : Res :=
  .next (match findGroup s k with
    | some g =>
      match g.park with
      | some p =>
        let ids := p.recs.map (·.2.1)
        let back := updGroup k (fun g => { g with replayMask := some p.mask, wait := .none })
        if !(g.phase = .running && teamRuns s k) then s
        else if p.eligible then unsuspend k (back s)
        else if awaitsPeer s ids then unsuspend k (back (peerAnswers ids s))
        else s
      | none => s
    | none => s)

/-- FAULT_QUEUE_ROOM (R289): the oldest record that is held for a queue is written, unless the hub is off (R379). -/
def execFaultQueueRoom (part : Nat) (s : State) : Res :=
  .next (if dark s then s else match s.records.find? fun r => r.queuePart = part && !r.written with
    | some r => flushRecord r.id s
    | none => s)

/-- Whether BWTO has run out (R41): µs against pod time of 0.5 ns. -/
def timedOut (s : State) (g : Group) (since : Nat) : Bool := decide (g.bwto.toNat * 2000 ≤ s.now - since)

/-- WAITA_TIMEOUT (R111). -/
def execWaitaTimeout (k : GKey) (s : State) : Res :=
  .next (match findGroup s k with
    | some g =>
      match g.wait with
      | .monitor _ since false => if timedOut s g since && teamRuns s k then asGroup k (waitaEnd true) s else s
      | _ => s
    | none => s)

/-- The destination field of the instruction at a group's PC (R52). -/
def destAt (s : State) : Nat := match fetchWord s with | some w => w.toNat / 2 ^ 14 % 2 ^ 7 | none => 127

/-- BWAIT_TIMEOUT (R201, R202). -/
def execBwaitTimeout (k : GKey) (s : State) : Res :=
  .next (match findGroup s k, findGrid s k.launch with
    | some g, some d =>
      match g.wait with
      | .bwait i since _ =>
        if timedOut s g since && teamRuns s k && !d.det then
          asGroup k (fun s => bwaitEnd (destAt s) ((bwaitTest s i).getD .timeout) s) s
        else s
      | _ => s
    | _, _ => s)

/-- The ring that a group waits on. -/
def ringOf (s : State) (k : GKey) : Option Ring := s.rings.find? fun r => r.waiters.contains k

/-- ORECV_TIMEOUT (R233); on a logical ring a deterministic launch has no timeout (R353), and on a physical one it ends the wait at the group's point
(R327). -/
def execOrecvTimeout (k : GKey) (s : State) : Res :=
  .next (match findGroup s k, findGrid s k.launch, ringOf s k with
    | some g, some d, some r =>
      match g.wait with
      | .orecv since =>
        if timedOut s g since && teamRuns s k && !(d.det && r.logical) && r.entries.isEmpty then
          asGroup k (fun s => syncOp s (noEntry (destAt s) 0 true false)) s
        else s
      | _ => s
    | _, _, _ => s)

/-- Whether a record stands for a full cell store. -/
def cellRecord (s : State) (part id : Nat) : Bool := s.records.any fun r => r.id = id && r.cause = 0x14 && r.part = part

/-- Room for cells has come: the parked groups and the engines of a partition that wait for some try again (R276). -/
def retryCells (part : Nat) (s : State) : State :=
  let s1 := updGroups (fun g => match g.park with | some p => p.recs.any fun x => cellRecord s part x.2.1 | none => false)
    (fun g => { g with park := g.park.map fun p => { p with eligible := true } }) s
  { s1 with ops := s1.ops.map fun o => { o with records := o.records.filter fun i => !cellRecord s part i } }

/-- RECLAIM_COMPLETE (R209, R213, R277, R379): what was issued in the tag before it was retired is performed first, so that the tag leaves no cell
(log 43). -/
def execReclaimComplete (tag : BitVec 16) (s : State) : Res :=
  .next (if dark s then s else match findTag s tag with
    | some t =>
      if t.retiring && !s.ops.any fun o => o.ctx = tag || o.kind.spans.any fun p => match p.1.space with | .ctx _ n => n = tag | _ => false then
        retryCells t.part { s with tags := s.tags.filter (fun x => x.tag ≠ tag), cells := s.cells.filter fun c => c.tag ≠ tag }
      else s
    | none => s)

/-- How the engine's copy of a tensor ends: the places of its bytes, a record to wait for, a failure, with what it reports: the record of a
stage-2 failure, the uncorrectable error that it met. -/
inductive TierRes where
  | ok (ls : List Loc)
  | wait (r : FaultRec)
  | fails (info : Option FaultRec) (ecc : Option EccAt)
deriving DecidableEq, Repr

/-- The die whose engine makes a tensor's move (R269). -/
def Tensor.engineDie (t : Tensor) : Nat := if t.target ≤ 7 then t.target else if t.source ≤ 7 then t.source else t.die

/-- The record of a stage-2 failure of a tier engine's access (R284, R285, R288). No program has formed its address: the 0 of va and asid,
and that its level is the level of the stage-2 walk, where R286 has 0 in the record of a program's access, are the choice of this model, log 41. -/
def tierRec (t : Tensor) (home gpa lv : Nat) (wr permv : Bool) : FaultRec :=
  recProto 0 t.part 0 0x13 0 gpa (homeKey home gpa / 4096) lv false wr false true permv (BitVec.ofNat 11 (t.engineDie * 256))

/-- The places of a range of a tensor (R280): GPAs that stage 2 translates. -/
def tierRange (s : State) (t : Tensor) (home at_ : Nat) (rd : Bool) : (n : Nat) → TierRes
  | 0 => .ok []
  | n + 1 =>
    match tierRange s t home at_ rd n with
    | .ok ls =>
      match stage2 s t.part home (at_ + n) rd (!rd) with
      | .ok pa gen =>
        let l : Loc := ⟨.phys, homeKey home pa, gen⟩
        if rd && hasEcc s l 1 then .fails none (some (.data l)) else .ok (ls ++ [l])
      | .miss lv => .wait (tierRec t home (at_ + n) lv (!rd) false)
      | .perm lv => .fails (some (tierRec t home (at_ + n) lv (!rd) true)) none
      | .bad lv => .fails (some (tierRec t home (at_ + n) lv (!rd) true)) none
      | .ecc a => .fails none (some (.table a))
    | r => r

/-- The teams that have waited for a move or an eviction alone are released with its end (R204, R248, log 42). -/
def finishMovers (ks : List GKey) (s : State) : State := ((ks.map tkeyOf).eraseDups).foldl (fun s k => finishTeam k s) s

/-- A move has ended (R272): the requests that joined it have, and the packets that wait for it complete with its status. -/
def moveEnds (t : Tensor) (ok : Bool) (s : State) : State :=
  let set := fun u : Tensor =>
    let u := if t.target ≤ 7 then { u with hbm := ok } else if t.target = 8 then { u with board := ok } else { u with flash := ok }
    let u := { u with
      st := if u.hbm then .resident else .absent
      last := if ok then 0 else 5
      target := 15
      defer := if ok || u.hbm then u.defer else false
      movers := []
      packets := []
      records := []
      broken := false }
    startDeferred u
  finishMovers t.movers (t.packets.foldl (fun s p => finishPacket p (if ok then 0 else 5) s)
    (wakeTensor t.part t.handle (updTensor t.part t.handle set s)))

/-- The engine's move of a whole tensor (R270), with its stage-2 faults: a parked access waits for its record's answer, any other failure
fails the move (R257, R284, R289). Flash is read and written in whole pages (R267): what the tensor does not fill of its last one has values
that nothing fixes (log 3). -/
def moveStep (t : Tensor) (s : State) : State :=
  let fails := fun i e => moveEnds t false (reportInfo t.part i e s)
  let waits := fun r => let q := report r s; updTensor t.part t.handle (fun t => { t with records := [q.2] }) q.1
  if t.broken then fails none none
  else match t.rangeIn t.source, t.rangeIn t.target with
  | some a, some b =>
    match tierRange s t a.1 a.2 true (t.lenIn t.source) with
    | .wait r => waits r
    | .fails i e => fails i e
    | .ok src =>
      let pad := t.lenIn t.target - t.size
      match tierRange s t b.1 b.2 false (t.lenIn t.target) with
      | .wait r => waits r
      | .fails i e => fails i e
      | .ok dst =>
        let bs := (src.take t.size).map (rdByte s) ++ (List.range pad).map fun i => Config.freeByte (s.fresh + i)
        moveEnds t true ((dst.zip bs).foldl (fun s p => wrBytes p.1 [p.2] s) { s with fresh := s.fresh + pad })
  | _, _ => fails none none

/-- MOVE_COMPLETES (R270, R272); nothing moves while the hub is off (R379). -/
def execMoveCompletes (part : Nat) (handle : Word) (s : State) : Res :=
  .next (if dark s then s else match findTensor s part handle with
    | some t => if t.st = .moving && !(t.records.any fun i => s.records.any fun r => r.id = i) then moveStep t s else s
    | none => s)

/-- MOVE_FAILS (R270, R272, R379). -/
def execMoveFails (part : Nat) (handle : Word) (s : State) : Res :=
  .next (if dark s then s else match findTensor s part handle with
    | some t => if t.st = .moving then moveEnds t false s else s
    | none => s)

/-- EVICTION_END (R272, R379). -/
def execEvictionEnd (part : Nat) (handle : Word) (s : State) : Res :=
  .next (if dark s then s else match findTensor s part handle with
    | some t =>
      if t.st = .evicting then
        finishMovers t.movers (wakeTensor part handle (updTensor part handle (fun t => { t with hbm := false, st := .absent, movers := [] }) s))
      else s
    | none => s)

/-- Whether an operation of group `k` in quantum `q` has its point in the order D (R326). -/
def quantReached (s : State) (k : GKey) (q : Nat) : Bool :=
  quantPast (otherClocks (checkout k s)) k q

/-- Whether an operation that waits for its commit may be performed. -/
def mayCommit (s : State) (launch : Nat) (o : Op) : Bool :=
  match o.owner, o.quantum with
  | .group k, some q =>
    k.launch = launch && quantReached s k q && (blockers s o).isEmpty && (match o.kind with | .drain _ _ _ _ _ none => false | _ => true)
  | _, _ => false

/-- Whether an operation comes before another in the order D (R253): by quantum, GID and the order of the program. -/
def commitBefore (x y : Op) : Bool :=
  match x.owner, y.owner with
  | .group k, .group l =>
    let a := (x.quantum.getD 0, gidOf k, x.id)
    let b := (y.quantum.getD 0, gidOf l, y.id)
    decide (a.1 < b.1) || (a.1 = b.1 && (decide (a.2.1 < b.2.1) || (a.2.1 = b.2.1 && decide (a.2.2 < b.2.2))))
  | _, _ => false

/-- The first operation of a launch in the order D that may be performed; none while an earlier one may not. -/
def firstCommit (s : State) (launch : Nat) : Option Op :=
  let os := s.ops.filter fun o => o.quantum.isSome && (match o.owner with | .group k => k.launch = launch | .packet _ => false)
  match os.foldl (fun m o => match m with | none => some o | some x => if commitBefore o x then some o else some x) none with
  | some o => if mayCommit s launch o then some o else none
  | none => none

/-- A communication operation takes effect at its place in the order D (R253, R326). -/
def commitOp (o : Op) (s : State) : State :=
  match o.kind with
  | .store n accs _ => endOp o .store (storeAll n accs s)
  | .amo _ _ _ => endOp o .store (amoPerform o s)
  | .samo _ _ _ _ _ => endOp o .store (amoPerform o s)
  | .drain _ add bf fpctl elems (some xs) => endOp o .store (drainNow o add bf fpctl elems xs s)
  | _ => s

/-- QUANTUM_END (R253, R326): the operations whose point has come are performed, in their order. -/
def execQuantumEnd (launch : Nat) (s : State) : Res :=
  .next ((List.range s.ops.length).foldl (fun s _ => match firstCommit s launch with
    | some o => commitOp o s
    | none => s) s)

/-- SYNC_OP_EFFECT (R327): a group whose synchronising operation has its point waits for it no longer. -/
def execSyncOpEffect (k : GKey) (s : State) : Res :=
  .next (match findGroup s k with
    | some g => if g.wait = .stall .det && syncPoint (checkout k s) && teamRuns s k then updGroup k (fun g => { g with wait := .none }) s else s
    | none => s)

/-- Whether a group's next instruction is still to be decoded: it stands between two instructions, or ERET has brought it to one that is
executed again (R119, R398). -/
def atBoundary (g : Group) : Bool := !g.wait.begun && g.park.isNone && g.decoded.isNone

/-- Whether a PC breakpoint matches the issuing group's next instruction: not where the group resumed at it (R398). -/
def bpStops (s : State) : Bool := atBoundary s.grp && s.grp.bpSkip != some s.grp.pc && bpMatches s

/-- BREAKPOINT_STOP (R396, R398, R401). -/
def execBreakpointStop (k : GKey) (s : State) : Res :=
  .next (match findGroup s k with
    | some g =>
      if g.phase = .running && bpStops (checkout k s) then stopGroup k 0 s else s
    | none => s)

/-- The act of a word that is no instruction: the majors from 0x10 to 0x26 have a guard field (R51, R55, R56). -/
def wordAct (w : Word) (g : Group) : Word :=
  if 0x10 ≤ w.toNat / 2 ^ 26 && w.toNat / 2 ^ 26 ≤ 0x26 then actOf g (w.extractLsb' 24 2) else g.live

/-- ILLEGAL_WORD (R56, R63): a word with no instruction raises ILL. -/
def execIllegalWord (w : Word) (s : State) : Res :=
  .next (if s.grp.phase = .running && teamRuns s s.grp.key && !s.grp.wait.begun && fetchWord s = some w && !knownWord w.toNat then
    decodeTrap 0x01 (w.setWidth 64) s.grp.pc (wordAct w s.grp) false s
    else s)

/-- OUT_OF_SECTION_FETCH (R50): an ADDR fault. -/
def execOutOfSectionFetch (addr : DWord) (s : State) : Res :=
  .next (if s.grp.phase = .running && teamRuns s s.grp.key && !s.grp.wait.begun && addr = s.grp.pc && fetchWord s = none then
    decodeTrap 0x11 addr addr 0 false s
    else s)

/-- Adds to a profile counter of a quad, unless the spindle's counters hold their values (R389). -/
def count (spindle quad n : Nat) (s : State) : State :=
  if (dbgOf s spindle).freeze then s
  else updDbg spindle (fun d => { d with counters := mset d.counters (quad * 32 + n) (mget d.counters (quad * 32 + n) + 1) }) s

/-- The groups resident in a quad of a spindle. -/
def inQuad (s : State) (spindle quad : Nat) : List Group := (residentOn s spindle).filter fun g => g.quad = quad

/-- UNUSED_SLOT (R387-R389): a slot in which no group of the quad can issue is charged to what the oldest resident group waits for. -/
def execUnusedSlot (spindle quad : Nat) (s : State) : Res :=
  .next (let gs := inQuad s spindle quad
    if gs.any fun g => g.set = .active && eligible s g then s
    else
      let r := match gs.foldl (fun m g => match m with | none => some g | some x => if g.age < x.age then some g else some x) none with
        | some g => reasonOf s g
        | none => .idle
      count spindle quad (12 + r.code) (count spindle quad 3 (count spindle quad 0 s)))

end Sys2Proof.Machine
end

