-- ==== Sys2Proof/Machine/Place.lean ====
section
/-! DEFINITION. Pages and teams: reads and landings (R264, R307, R308, R313, R372), placement (R306, R311, R312), the active places of the
lanes (R318, R319), swap-out (R202), pre-emption (R321-R324). -/

namespace Sys2Proof.Machine

/-- The bytes of a landing slot. -/
def slotBytes : Nat := 0x4000

/-- The shared region of a cluster's creel, in bytes (R261). -/
def sharedBytes : Nat := 12 * 2 ^ 20

/-- The bytes of a list as a store from cell 0 on. -/
def cellsOf (bs : List Byte) : SMap 8 := ((List.range bs.length).zip bs).filter fun p => p.2 ≠ 0

/-- The bytes of a run of a store, renumbered from 0. -/
def cutMap (m : SMap 8) (at_ n : Nat) : SMap 8 :=
  (m.filter fun p => decide (at_ ≤ p.1) && decide (p.1 < at_ + n)).map fun p => (p.1 - at_, p.2)

/-- Whether a cluster has a grid's creel allocation, or room for it within the shared region and the partition's quota (R262, R369). -/
def creelFits (s : State) (d : Grid) (c : Nat) : Bool :=
  d.creelBytes = 0 || (s.creels.any fun x => x.launch = d.id && x.cluster = c) ||
    (let here := s.creels.filter fun x => x.cluster = c && !x.released
     let size := fun (l : List Creel) => l.foldl (fun n x => n + (match findGrid s x.launch with | some g => g.creelBytes | none => 0)) 0
     let own := here.filter fun x => match findGrid s x.launch with | some g => g.part = d.part | none => false
     decide (size here + d.creelBytes ≤ sharedBytes) && (d.part = 0 || decide (size own + d.creelBytes ≤ (partOf s d.part).creelQuota)))

/-- Whether a page of the grid may land in a cluster (R306). -/
def clusterOpen (s : State) (d : Grid) (c : Nat) : Bool := tbit d.clusters c && creelFits s d c

/-- The lowest free landing slot of a cluster (R307). -/
def freeSlotIn (s : State) (c : Nat) : Option Nat :=
  findFrom (fun n => match findSlot s c n with | none => true | some x => x.st = .free) 0 256

/-- A landing slot takes a state and bytes (R264). -/
def setSlot (c n : Nat) (st : SlotSt) (data : SMap 8) (s : State) : State :=
  { s with slots := (s.slots.filter fun x => ¬ (x.cluster = c ∧ x.num = n)) ++ [⟨c, n, st, data⟩] }

/-- The page of a launch. -/
def pageOf (s : State) (launch page : Nat) : Option (Grid × Page) :=
  match findGrid s launch with
  | some d => (d.pages[page]?).map fun p => (d, p)
  | none => none

/-- The pages that a BWAIT of the grid names, oldest wait first (R307); a team that is swapped out or saved waits on (R197, R202). -/
def namedPages (s : State) (launch : Nat) : List Nat :=
  let ws := (allGroups s).filterMap fun g => match g.wait with
    | .bwait i since _ => if g.key.launch = launch && g.phase = .running && teamLives s g.key then some (since, i) else none
    | _ => none
  (sortBy (·.1) ws).map (·.2)

/-- Whether no read of a page has been issued. -/
def unissued (d : Grid) (i : Nat) : Bool := match d.pages[i]? with | some p => p.st = .waiting | none => false

/-- The first page of the list that waits for its read. -/
def firstWaiting (d : Grid) : Option Nat := findFrom (unissued d) 0 d.pages.length

/-- The page whose read is issued next (R307); a deterministic launch has no promotion (R325). -/
def nextPage (s : State) (d : Grid) : Option Nat :=
  match (if d.det then none else (namedPages s d.id).find? (unissued d)) with
  | some i => some i
  | none => firstWaiting d

/-- The cluster and the slot that the next page takes, in the round of the grid's open clusters (R307). -/
def nextSlot (s : State) (d : Grid) : Option (Nat × Nat) :=
  (List.range 24).findSome? fun i =>
    let c := (d.nextCluster + i) % 24
    if clusterOpen s d c then (freeSlotIn s c).map fun n => (c, n) else none

/-- The drive, the namespace and the first block of a page-list entry (R363). -/
def driveOf (p : Page) : Nat := fieldN p.src 59 5

/-- See `driveOf`. -/
def namespaceOf (p : Page) : Nat := fieldN p.src 48 11

/-- See `driveOf`. -/
def lbaOf (p : Page) : Nat := fieldN p.src 0 48

/-- Whether an NVMe page can be read: its drive is bound to the partition, its namespace is one and is formatted without metadata (R363, R371).
That no Read is issued for a namespace of 0, outside R363's 1 to 2047, and that its page lands with state 3 is the choice of this model, log 41. -/
def nvmeReadable (s : State) (d : Grid) (p : Page) : Bool :=
  (d.part = 0 || tbit (partOf s d.part).drives (driveOf p)) && namespaceOf p != 0 && !s.metaNs.contains (driveOf p, namespaceOf p)

/-- The Read of an NVMe page is submitted to its drive (R372). -/
def submitRead (d : Grid) (page c n : Nat) (s : State) : State :=
  match d.source, d.pages[page]? with
  | .nvme, some p =>
    if nvmeReadable s d p then { s with nvmeReads := s.nvmeReads ++ [⟨d.id, page, driveOf p, namespaceOf p, lbaOf p, c, n⟩] } else s
  | _, _ => s

/-- PAGE_READ_ISSUE (R264, R307, R372). -/
def execPageReadIssue (launch : Nat) (s : State) : Res :=
  .next (match findGrid s launch with
    | some d =>
      if d.ended || d.source = .memory then s
      else match nextPage s d, nextSlot s d with
      | some i, some (c, n) =>
        let s := setSlot c n (.assigned launch i) [] s
        let s := updGrid launch (fun d => { d with nextCluster := (c + 1) % 24 }) s
        submitRead d i c n (updPage launch i (fun p => { p with st := .issued c n s.now }) s)
      | _, _ => s
    | none => s)

/-- A page lands with its status, and the grid's policy is applied (R264, R310): under SKIP the slot of an uncorrectable page is freed and
the page fails. An uncorrectable page's slot reads zero to everyone who may read it (R145, R310, R331). -/
def landPage (launch page c n : Nat) (pstat : BitVec 18) (data : SMap 8) (s : State) : State :=
  match findGrid s launch with
  | some d =>
    let bad := pstat.toNat % 4 = 3
    let s := wake ⟨.slot c n, 0, 0⟩ slotBytes s
    if bad && d.policy = .skip then
      pageEnds launch page true (updPage launch page (fun p => { p with pstat }) (freeSlot c n s))
    else
      let s := setSlot c n (.landed launch page) (if bad then [] else data) s
      updGrid launch (fun d => { d with arrivals := d.arrivals + 1 })
        (updPage launch page (fun p => { p with pstat, st := .landed c n d.arrivals }) s)
  | none => s

/-- PSTAT of a flash page (R38). -/
def flashStat (corrected retries : Nat) (bad : Bool) : BitVec 18 :=
  let st := if bad then 3 else if 1 ≤ retries then 2 else if 1 ≤ corrected then 1 else 0
  BitVec.ofNat 18 (st + retries % 8 * 4 + (if bad then 0 else min corrected 1023) * 32)

/-- The bound on a flash page's read with its retries: 1.2 ms (R308). -/
def flashBound : Nat := usTime 1200

/-- Whether a flash address lies in a flash range that the partition has registered (R363). -/
def flashKnown (s : State) (part : Nat) (va : DWord) : Bool :=
  va.toNat / 2 ^ 53 = 9 && s.tensors.any fun t => t.part = part && (match t.flashAt with
    | some a => decide (a ≤ va.toNat % 2 ^ 53) && decide (va.toNat % 2 ^ 53 + slotBytes ≤ a + (t.size + slotBytes - 1) / slotBytes * slotBytes)
    | none => false)

/-- PAGE_LANDING (R38, R264, R308): within the bound; a page that is not corrected has had its seven retries. Where an
entry's VA is not a multiple of 16 KiB, R363 names no outcome: the 16 KiB from it land, the choice of this model, log 41. -/
def execPageLanding (launch page : Nat) (r : FlashRead) (s : State) : Res :=
  .next (match pageOf s launch page with
    | some (d, p) =>
      match p.st with
      | .issued c n since =>
        let known := flashKnown s d.part p.src
        if d.source != .flash || flashBound < s.now - since || 7 < r.retries || (known && r.uncorr && r.retries != 7) then s
        else landPage launch page c n (flashStat r.corrected r.retries (r.uncorr || !known)) (cutMap s.mem p.src.toNat slotBytes) s
      | _ => s
    | none => s)

/-- DISTAFF_BOUND_EXPIRY (R38, R308). -/
def execDistaffBoundExpiry (launch page retries : Nat) (s : State) : Res :=
  .next (match pageOf s launch page with
    | some (d, p) =>
      match p.st with
      | .issued c n since =>
        if d.source = .flash && flashBound ≤ s.now - since && retries ≤ 7 then landPage launch page c n (flashStat 0 retries true) [] s else s
      | _ => s
    | none => s)

/-- PSTAT of an NVMe page (R38, R372). -/
def nvmeStat (bad : Bool) : BitVec 18 := BitVec.ofNat 18 (0x8000 + (if bad then 3 else 0))

/-- A drive's command timeout, 10 ms where none is set (R308). -/
def driveTimeout (s : State) (drive : Nat) : Nat :=
  let ms := (mget s.nvmeMs drive).toNat
  usTime ((if ms = 0 then 10 else ms) * 1000)

/-- A page's Read has ended: it has completed, or it is aborted (R372). -/
def dropRead (launch page : Nat) (s : State) : State :=
  { s with nvmeReads := s.nvmeReads.filter fun r => ¬ (r.launch = launch ∧ r.page = page) }

/-- The bytes that a drive has written, by offset. -/
def driveData (data : List (Nat × Byte)) : SMap 8 :=
  data.foldl (fun m x => if x.1 < slotBytes then mset m x.1 x.2 else m) []

/-- Whether the Read of a page is in flight (R372). -/
def readOut (s : State) (launch page : Nat) : Bool := s.nvmeReads.any fun r => r.launch = launch && r.page = page

/-- NVME_READ_COMPLETION (R363, R371, R372), within the drive's timeout: a later one is that of an aborted command. An entry whose page could not be
read when its Read was to be issued has none, and lands with state 3 and without data; a quota that falls later takes nothing away (R369). -/
def execNvmeReadCompletion (launch page : Nat) (st : DriveStatus) (data : List (Nat × Byte)) (s : State) : Res :=
  .next (match pageOf s launch page with
    | some (d, p) =>
      match p.st with
      | .issued c n since =>
        if d.source != .nvme || driveTimeout s (driveOf p) < s.now - since then s
        else
          let out := readOut s launch page
          landPage launch page c n (nvmeStat (st != .success || !out)) (if out then driveData data else []) (dropRead launch page s)
      | _ => s
    | none => s)

/-- NVME_TIMEOUT (R308, R372). -/
def execNvmeTimeout (launch page : Nat) (s : State) : Res :=
  .next (match pageOf s launch page with
    | some (d, p) =>
      match p.st with
      | .issued c n since =>
        if d.source = .nvme && driveTimeout s (driveOf p) ≤ s.now - since then landPage launch page c n (nvmeStat true) [] (dropRead launch page s) else s
      | _ => s
    | none => s)

/-- The groups of a launch description in index order: the place in its role, the role, the description of the role. -/
def roleGroups : (n : Nat) → List Role → List (Nat × Nat × Role)
  | _, [] => []
  | n, r :: rs => ((List.range r.groups).map fun j => (j, n, r)) ++ roleGroups (n + 1) rs

/-- The groups that take room in a lane of a spindle. -/
def laneGroups (s : State) (spindle lane : Nat) : List Group :=
  (allGroups s).filter fun g =>
    (g.phase = .running || g.phase = .exiting) && g.laneInQuad * 4 + g.quad = lane &&
      (match findTeam s (tkeyOf g.key) with
      | some t => t.spindle = spindle && (t.phase = .running || t.phase = .ended)
      | none => false)

/-- Whether the groups of a team, as team lanes and allocations, fit the lanes of a spindle from a base lane on (R312). -/
def lanesFit (s : State) (spindle base : Nat) (ms : List (Nat × Nat)) : Bool :=
  (List.range 32).all fun lane =>
    let mine := ms.filter fun m => (base + m.1) % 32 = lane
    let here := laneGroups s spindle lane
    mine.isEmpty || (decide (here.length + mine.length ≤ 4) &&
      decide (here.foldl (fun n g => n + g.alloc) 0 + mine.foldl (fun n m => n + m.2) 0 ≤ 8))

/-- The teams that take tiles, accumulators and lanes of a spindle. -/
def placedOn (s : State) (spindle : Nat) : List Team :=
  (allTeams s).filter fun t => t.spindle = spindle && (t.phase = .running || t.phase = .ended)

/-- The base lane for a team on a spindle (R312): its tiles, accumulators and lanes fit there, and its scratchpad part, where it has none
yet (R258). -/
def baseFor (s : State) (spindle tiles accs scratch : Nat) (ms : List (Nat × Nat)) : Option Nat :=
  let ts := placedOn s spindle
  let parts := (allTeams s).filter fun t => t.spindle = spindle && t.phase != .gone
  if parts.foldl (fun n t => n + t.scratchBytes) 0 + scratch ≤ 0x40000 ∧ ts.foldl (fun n t => n + t.tileWin) 0 + tiles ≤ 32 ∧
      ts.foldl (fun n t => n + t.accCount) 0 + accs ≤ 16 then
    findFrom (fun base => lanesFit s spindle base ms) 0 32
  else none

/-- Team lanes and allocations of a launch description. -/
def descLanes (x : LaunchDesc) : List (Nat × Nat) := (roleGroups 0 x.roles).map fun g => (g.1, g.2.2.alloc)

/-- The base lane for a new team of a grid. -/
def gridBase (s : State) (d : Grid) (spindle : Nat) : Option Nat :=
  baseFor s spindle d.desc.tiles d.desc.accs d.desc.scratch (descLanes d.desc)

/-- The lowest lane slot of a lane that no group holds (R312). -/
def freeLaneSlot (s : State) (spindle lane : Nat) : Nat :=
  (findFrom (fun n => (laneGroups s spindle lane).all fun g => g.laneSlot != n) 0 4).getD 0

/-- The arrivals of a grid in a cluster, as arrival number, page and slot (R307). -/
def arrivals (d : Grid) (c : Nat) : List (Nat × Nat × Nat) :=
  (List.range d.pages.length).filterMap fun i => match d.pages[i]? with
    | some p => (match p.st with | .landed k n a => if k = c then some (a, i, n) else none | _ => none)
    | none => none

/-- The page that the agent of a spindle places next, with its slot (R311, R313): in a deterministic launch the lowest, once every page before it
has its team (R325). -/
def nextArrival (d : Grid) (spindle : Nat) : Option (Nat × Nat) :=
  let as := (arrivals d (clusterOf spindle)).filter fun x =>
    d.source != .memory || (match d.pages[x.2.1]? with | some p => p.agent = some spindle | none => false)
  let before := fun x y : Nat × Nat × Nat => if d.det then decide (x.2.1 < y.2.1) else decide (x.1 < y.1)
  match as.foldl (fun m x => match m with | none => some x | some y => if before x y then some x else some y) none with
  | some x =>
    if d.det && (List.range x.2.1).any fun i => match d.pages[i]? with | some p => p.st.unplaced | none => false then none
    else some x.2
  | none => none

/-- The page that an agent is copying, with its slot. -/
def agentCopy (d : Grid) (spindle : Nat) : Option (Nat × Nat × Nat) :=
  (List.range d.pages.length).findSome? fun i => match d.pages[i]? with
    | some p => (match p.st with | .issued c n _ => if p.agent = some spindle then some (i, c, n) else none | _ => none)
    | none => none

/-- Whether an agent has work of a grid, in room that its spindle has (R311, R313). While its copy of a page of the grid goes on, or waits for an
answer, the agent takes no further page of it, and the wait holds no other grid up (R368). -/
def agentWork (s : State) (d : Grid) (spindle : Nat) : Bool :=
  !d.ended && (gridBase s d spindle).isSome && clusterOpen s d (clusterOf spindle) &&
    ((nextArrival d spindle).isSome ||
      (d.source = .memory && (firstWaiting d).isSome && (freeSlotIn s (clusterOf spindle)).isSome && (agentCopy d spindle).isNone))

/-- Whether an agent serves a grid before every other one that it has work of: by priority, then by the start of the launch (R311). -/
def serves (s : State) (d : Grid) (spindle : Nat) : Bool :=
  agentWork s d spindle && (allGrids s).all fun e =>
    e.id = d.id || !agentWork s e spindle || decide (e.prio < d.prio) || (e.prio = d.prio && decide (d.id < e.id))

/-- The copy of a memory page fails: no team runs for it (R38, R308). Its slot, for which R264 has no such transition, is FREE at once: the choice of this
model, log 41. -/
def memoryFails (launch page c n : Nat) (s : State) : State :=
  pageEnds launch page true (updPage launch page (fun p => { p with pstat := 0x10003, record := none }) (freeSlot c n s))

/-- How the accesses of a page copy end: the bytes, a record to wait for, or a failure with what it reports. -/
inductive PageRes where
  | ok (bs : List Byte)
  | wait (r : FaultRec)
  | fails (info : Option FaultRec) (ecc : Option EccAt)
deriving DecidableEq, Repr

/-- Reads runs of bytes for an agent. -/
def agentRead (s : State) (e : Env) : List (DWord × Nat) → PageRes
  | [] => .ok []
  | x :: xs =>
    match access s e .copy x.1 x.2 true false true with
    | .ok l _ _ => (match agentRead s e xs with
      | .ok bs => .ok (rdBytes s l x.2 ++ bs)
      | r => r)
    | .park r => .wait r
    | .fault _ _ info ecc => .fails info ecc
    | .uncorr => .fails none none

/-- The agent of a spindle copies a page into its slot (R308, R313). -/
def copyPage (d : Grid) (page c n spindle : Nat) (s : State) : State :=
  match d.pages[page]? with
  | none => s
  | some p =>
    let home := p.src.toNat / 2 ^ 53
    let e : Env := ⟨⟨d.id, page, 0⟩, { Team.initial with key := ⟨d.id, page⟩, spindle }, d, d.ctx, []⟩
    if !(home ≤ 8 || home = 10) || p.src.toNat % slotBytes != 0 then memoryFails d.id page c n s
    else match agentRead s e (pieceRuns p.src slotBytes) with
    | .ok bs => landPage d.id page c n 0x10000 (cellsOf bs) (updPage d.id page (fun p => { p with record := none }) s)
    | .wait r => let q := report r s; updPage d.id page (fun p => { p with record := some q.2 }) q.1
    | .fails info ecc => memoryFails d.id page c n (reportInfo d.part info ecc s)

/-- Whether a page's copy waits for an answer. -/
def copyWaits (s : State) (d : Grid) (page : Nat) : Bool :=
  match d.pages[page]? with
  | some p => (match p.record with | some i => s.records.any fun r => r.id = i | none => false)
  | none => false

/-- MEMORY_PAGE_COPY (R308, R313). -/
def execMemoryPageCopy (launch spindle : Nat) (s : State) : Res :=
  .next (match findGrid s launch with
    | some d =>
      if d.ended || d.source != .memory || 576 ≤ spindle then s
      else match agentCopy d spindle with
      | some (i, c, n) => if copyWaits s d i then s else copyPage d i c n spindle s
      | none =>
        let c := clusterOf spindle
        match (if serves s d spindle && (nextArrival d spindle).isNone then firstWaiting d else none), freeSlotIn s c with
        | some i, some n =>
          copyPage d i c n spindle (updPage launch i (fun p => { p with st := .issued c n s.now, agent := some spindle })
            (setSlot c n (.assigned launch i) [] s))
        | _, _ => s
    | none => s)

/-- GANG of the groups of the gang role (R31, R43). -/
def gangWord (gs : List (Nat × Nat × Nat × Role)) : DWord :=
  let ms := (gs.filter fun g => g.2.2.2.gang).map (·.1)
  BitVec.ofNat 64 (ms.length + ((List.range ms.length).zip ms).foldl (fun n p => n + p.2 * 2 ^ (3 + 5 * p.1)) 0)

/-- A group at launch (R43). -/
def newGroup (d : Grid) (page slot base idx age : Nat) (pgidx : Word) (gang : DWord) (place role : Nat) (r : Role) (laneSlot order : Nat) :
    Group :=
  let lane := (base + place) % 32
  let regs : SMap 64 := msets [] 0 [BitVec.ofNat 64 (15 * 2 ^ 53 + 0x40 * 2 ^ 40 + slot * slotBytes), pgidx.setWidth 64, d.args,
    BitVec.ofNat 64 page, BitVec.ofNat 64 idx, BitVec.ofNat 64 role]
  { Group.initial with
    key := ⟨d.id, page, idx⟩
    phase := .running
    role := BitVec.ofNat 2 role
    quad := lane % 4
    laneInQuad := lane / 4
    laneSlot
    pc := d.codeBase + BitVec.ofNat 64 r.entry
    sregs := regs
    alloc := r.alloc
    gang := if r.gang then gang else 0
    ctx := d.ctx
    tvec := match d.desc.tvec with | some o => d.codeBase + BitVec.ofNat 64 o | none => 0
    set := .pending
    order
    age }

/-- A team at launch (R43). -/
def newTeam (s : State) (d : Grid) (page slot spindle base : Nat) (p : Page) : Team :=
  let x := d.desc
  { Team.initial with
    key := ⟨d.id, page⟩
    phase := .running
    spindle
    base
    pgidx := p.pgidx
    pstat := p.pstat
    slot
    ngroups := x.groups
    scratchBytes := x.scratch
    tagSlots := x.tagSlots
    tileWin := x.tiles
    tshape := x.shapes
    tqueue := x.tqueues
    accCount := x.accs
    queues := x.queues.map fun n => if n = 0 then .initial else { Queue.initial with init := true, allowance := n }
    placed := s.now }

/-- Puts one group of a new team into its lane, at the back of its pending order (R312, R315). -/
def addGroup (d : Grid) (page slot spindle base : Nat) (pgidx : Word) (gang : DWord) (x : Nat × Nat × Nat × Role) (s : State) : State :=
  let lane := (base + x.2.1) % 32
  let g := newGroup d page slot base x.1 s.nextAge pgidx gang x.2.1 x.2.2.1 x.2.2.2 (freeLaneSlot s spindle lane) (lastOrder s + 1)
  tracePlaced g.key (joinTag d.ctx { s with groups := s.groups ++ [g], nextAge := s.nextAge + 1 })

/-- Gives a grid its allocation in a cluster at its first placement there (R262). -/
def addCreel (d : Grid) (c : Nat) (s : State) : State :=
  if d.creelBytes = 0 || s.creels.any fun x => x.launch = d.id && x.cluster = c then s
  else { s with creels := s.creels ++ [⟨d.id, c, false, []⟩] }

/-- A team is placed over a landed page (R43, R264, R311, R312). -/
def placeTeam (d : Grid) (page slot spindle base : Nat) (s : State) : State :=
  match d.pages[page]? with
  | some p =>
    let c := clusterOf spindle
    let gs := (List.range d.desc.groups).zip (roleGroups 0 d.desc.roles)
    let data := match findSlot s c slot with | some x => x.data | none => []
    let s := addCreel d c (setSlot c slot (.held d.id page) data s)
    let s := updPage d.id page (fun p => { p with st := .running }) { s with teams := s.teams ++ [newTeam s d page slot spindle base p] }
    gs.foldl (fun s x => addGroup d page slot spindle base p.pgidx (gangWord gs) x s) s
  | none => s

/-- PLACEMENT (R311, R312, R314). -/
def execPlacement (launch spindle : Nat) (s : State) : Res :=
  .next (match findGrid s launch with
    | some d =>
      if d.ended || 576 ≤ spindle || !serves s d spindle then s
      else match nextArrival d spindle, gridBase s d spindle with
      | some (page, slot), some base => placeTeam d page slot spindle base s
      | _, _ => s
    | none => s)

/-- The groups with a place in a lane of a spindle, of teams that run. -/
def inLane (s : State) (spindle lane : Nat) : List Group :=
  (residentOn s spindle).filter fun g => g.laneInQuad * 4 + g.quad = lane

/-- The first eligible pending group of a lane (R315). -/
def firstPending (s : State) (spindle lane : Nat) : Option Group :=
  ((inLane s spindle lane).filter fun g => g.set = .pending && eligible s g).foldl
    (fun m x => match m with | none => some x | some y => if x.order < y.order then some x else some y) none

/-- Whether an active group's stall lets another group of its lane take the place: one of R318's reasons at once, the others once the stall
has lasted 16 cycles. -/
def swapsOut (s : State) (g : Group) : Bool :=
  match reasonOf s g with
  | .lane => false
  | .load => decide (g.stallAt + 160 ≤ s.cycles)
  | .store => decide (g.stallAt + 160 ≤ s.cycles)
  | .tile => decide (g.stallAt + 160 ≤ s.cycles)
  | .trace => decide (g.stallAt + 160 ≤ s.cycles)
  | _ => true

/-- ACTIVE_SWAP (R318): the first eligible pending group takes the place of an active group that can not issue, or an empty place. -/
def execActiveSwap (spindle lane : Nat) (s : State) : Res :=
  .next (match firstPending s spindle lane with
    | none => s
    | some x =>
      match (inLane s spindle lane).find? fun g => g.set = .active with
      | some a => if eligible s a || !swapsOut s a then s else toActive x.key (toBack a.key s)
      | none => toActive x.key s)

/-- A promoted group takes its lane's active place, the active group going to the back; one that is promoted itself issues first (R319). -/
def takePlace (g : Group) (s : State) : State :=
  match (allGroups s).find? fun x => x.set = .active && x.key != g.key && sameLane s g x with
  | some a => if a.promoted.isSome && eligible s a then s else toActive g.key (toBack a.key s)
  | none => toActive g.key s

/-- A group becomes the last of those that are promoted (R316, R319). -/
def stampPromo (k : GKey) (s : State) : State :=
  updGroup k (fun g => { g with promoted := some s.nextPromo }) { s with nextPromo := s.nextPromo + 1 }

/-- A group is promoted, behind those that are (R316), once it has been eligible for 4096 cycles without issuing, and takes its lane's active place
(R319). -/
def promote (k : GKey) (s : State) : State :=
  match findGroup s k with
  | some g =>
    if g.phase = .running && (g.promoted.isSome || 40960 ≤ g.eligCycles) && teamRuns s k && g.set != .suspended then
      let s1 := if g.promoted.isSome then s else stampPromo k s
      if g.set = .active || !eligible s g then s1 else takePlace g s1
    else s
  | none => s

/-- PROMOTION (R319). -/
def execPromotion (k : GKey) (s : State) : Res := .next (promote k s)

/-- A team leaves its spindle's lanes; it keeps its scratchpad part and its landing slot (R202, R258, R263). -/
def leaveSpindle (k : TKey) (ph : TPhase) (s : State) : State :=
  match findTeam s k with
  | some t => traceLeft t.spindle k.launch (updTeam k (fun t => { t with phase := ph }) s)
  | none => s

/-- The groups of a team that have not retired. -/
def liveGroups (s : State) (k : TKey) : List Group := (groupsOf s k).filter fun g => g.phase = .running || g.phase = .exiting

/-- Whether a team stands so that it may be swapped out: every unretired group suspended in BWAIT (R202); in a deterministic launch, every
one waiting with reason DET (R325, R328). -/
def maySwap (s : State) (k : TKey) : Bool :=
  let det := match findGrid s k.launch with | some d => d.det | none => false
  let gs := liveGroups s k
  !gs.isEmpty && gs.all fun g => g.phase = .running && (if det then reasonOf s g = .det else match g.wait with
    | .bwait _ _ _ => g.set = .suspended
    | _ => false)

/-- TEAM_SWAP_OUT (R202, R263, R325). -/
def execTeamSwapOut (t : TKey) (s : State) : Res :=
  .next (match findTeam s t with
    | some x => if x.phase = .running && maySwap s t then leaveSpindle t .swapped s else s
    | none => s)

/-- A group gets its lane again (R312, R315). -/
def reseat (spindle base : Nat) (k : GKey) (place : Nat) (s : State) : State :=
  let lane := (base + place) % 32
  let n := freeLaneSlot s spindle lane
  let o := lastOrder s + 1
  let s := updGroup k (fun g => { g with
    quad := lane % 4
    laneInQuad := lane / 4
    laneSlot := n
    order := o
    set := if g.set = .suspended then .suspended else .pending
    wait := match g.wait with
      | .monitor l since _ => .monitor l since true
      | w => w }) s
  match findGroup s k with
  | some _ => tracePlaced k s
  | none => s

/-- The place in its role of each unretired group of a team, with its allocation. -/
def seats (s : State) (d : Grid) (k : TKey) : List (GKey × Nat × Nat) :=
  (liveGroups s k).filterMap fun g => ((roleGroups 0 d.desc.roles)[g.key.idx]?).map fun x => (g.key, x.1, g.alloc)

/-- The seats of groups by age (R315, R316). -/
def byAge (s : State) (ms : List (GKey × Nat × Nat)) : List (GKey × Nat × Nat) :=
  let age := fun m : GKey × Nat × Nat => ((findGroup s m.1).map (·.age)).getD 0
  ms.foldl (fun l m => l.takeWhile (fun x => age x ≤ age m) ++ m :: l.dropWhile fun x => age x ≤ age m) []

/-- A team returns to its spindle once that has room (R202, R324). -/
def returnTeam (k : TKey) (s : State) : State :=
  match findTeam s k, findGrid s k.launch with
  | some t, some d =>
    let ms := seats s d k
    match baseFor s t.spindle t.tileWin t.accCount 0 (ms.map (·.2)) with
    | some base =>
      -- the groups are marked as without a lane until each is seated
      let s := updGroups (fun g => tkeyOf g.key = k) (fun g => { g with quad := 0, laneInQuad := 8 }) s
      let s := updTeam k (fun t => { t with phase := .running, base, preempt := none, saving := false, forced := false }) s
      (byAge s ms).foldl (fun s m => reseat t.spindle base m.1 m.2.1 s) s
    | none => s
  | _, _ => s

/-- TEAM_SWAP_IN (R202). -/
def execTeamSwapIn (t : TKey) (s : State) : Res :=
  .next (match findTeam s t with
    | some x => if x.phase = .swapped then returnTeam t s else s
    | none => s)

/-- Whether a partition has work that waits: a packet that has not started, a page without a team, a team that is saved (R321). -/
def workWaits (s : State) (p : Nat → Bool) : Bool :=
  (s.queues.any fun q => p q.part && !q.halted && q.rd != q.wr) ||
    ((allGrids s).any fun d => p d.part && !d.ended && d.pages.any fun x => x.st.unplaced) ||
    ((allTeams s).any fun t => t.phase = .saved && (match findGrid s t.key.launch with | some d => p d.part | none => false))

/-- The queue of a launch. -/
def queueOfGrid (s : State) (d : Grid) : Option CmdQueue := s.queues.find? fun q => q.part = d.part ∧ q.q = d.queue

/-- Whether a barrier or a latch of a team is partly arrived (R322). -/
def partlyArrived (t : Team) : Bool := (t.barriers.any fun b => b.arrivals != 0) || t.latches.any fun l => !l.arrived.isEmpty

/-- The saves that begin now: a team whose pre-emption has been requested stops issuing at the first moment none of its barriers and latches is
partly arrived (R322, R323). -/
def beginSaves (s : State) : State :=
  ((allTeams s).filter fun t => t.phase = .running && t.preempt.isSome && !t.saving && !partlyArrived t).foldl
    (fun s t => updTeam t.key (fun t => { t with saving := true }) s) s

/-- Pre-emption of the running teams of launches is requested (R321). -/
def requestPreempt (p : Grid → Bool) (s : State) : State :=
  beginSaves <| ((allTeams s).filter fun t => t.phase = .running && t.preempt.isNone && (match findGrid s t.key.launch with | some d => p d | none => false)).foldl
    (fun s t => updTeam t.key (fun t => { t with preempt := some s.now }) s) s

/-- TIME_SLICE_EXPIRY (R321, R369): the partition's slice is over, and the next one begins (log 39). -/
def execTimeSliceExpiry (part : Nat) (s : State) : Res :=
  .next (let p := partOf s part
    if p.slice = 0 || s.now < p.sliceFrom + usTime p.slice || !workWaits s (fun p => p != part) then s
    else updPart part (fun p => { p with sliceFrom := s.now }) <| requestPreempt (fun d => d.part = part && (match queueOfGrid s d with | some q => q.preemptible | none => false)) s)

/-- The queue's deferral limit, in pod time (R300, R322). -/
def deferLimit (s : State) (k : TKey) : Nat :=
  match findGrid s k.launch with
  | some d => usTime (match queueOfGrid s d with | some q => q.deferUs | none => 100)
  | none => usTime 100

/-- DEFERRAL_LIMIT_EXPIRY (R322, R323): a forced save begins. -/
def execDeferralLimitExpiry (t : TKey) (s : State) : Res :=
  .next (match findTeam s t with
    | some x =>
      match x.preempt with
      | some since =>
        if x.phase = .running && !x.saving && partlyArrived x && deferLimit s t ≤ s.now - since then
          updTeam t (fun x => { x with saving := true, forced := true }) s
        else s
      | none => s
    | none => s)

/-- TEAM_SAVE (R322, R323): issue has stopped, and everything that the team has issued has completed. -/
def execTeamSave (t : TKey) (s : State) : Res :=
  .next (match findTeam s t with
    | some x =>
      if x.phase = .running && x.preempt.isSome && (x.saving || !partlyArrived x) && !teamBusy s t && !tierBusy s t then
        leaveSpindle t .saved (updTeam t (fun x => { x with saving := true }) s)
      else s
    | none => s)

/-- TEAM_RESTORE (R324). The front end never pre-empts other work to make room for it, as R324 allows: the choice of this model, log 29. -/
def execTeamRestore (t : TKey) (s : State) : Res :=
  .next (match findTeam s t with
    | some x => if x.phase = .saved then returnTeam t s else s
    | none => s)

end Sys2Proof.Machine
end

