-- ==== Sys2Proof/Machine/Packets.lean ====
section
/-! DEFINITION. Command queues (R300-R305, R361-R366): reading, validating and starting packets, launches, moves and copies, tokens, the halt of
a process, completion records, and event records (R367). -/

namespace Sys2Proof.Machine

/-- The little-endian field of `n` bytes at an offset. -/
def fld (bs : List Byte) (off n : Nat) : Nat := ofBytes ((bs.drop off).take n)

/-- Whether bytes are 0. -/
def zeros (bs : List Byte) (off n : Nat) : Bool := ((bs.drop off).take n).all fun b => b = 0

/-- The place of an address that system software gives the device for a ring: home 8 through the partition's stage 2, within the board's memory
(R1), or home 10 (R361, R367). -/
def ringLoc (s : State) (part : Nat) (a : DWord) (wr : Bool) : Option Loc :=
  let home := a.toNat / 2 ^ 53
  match stage2 s part home (a.toNat % 2 ^ 53) (!wr) wr with
  | .ok pa gen => if (home = 8 || home = 10) && decide (pa < homeSize home) then some ⟨.phys, homeKey home pa, gen⟩ else none
  | _ => none

/-- The hank learns of the uncorrectable table entries that the way to addresses of a ring has met (R257, R284, R409). -/
def noteTables (part : Nat) (as : List DWord) (wr : Bool) (s : State) : State :=
  ((as.filterMap fun a => match stage2 s part (a.toNat / 2 ^ 53) (a.toNat % 2 ^ 53) (!wr) wr with
    | .ecc e => some e
    | _ => none).eraseDups).foldl (fun s e => reportInfo part none (some (.table e)) s) s

/-- Writes bytes where an address of a ring leads. -/
def ringWrite (part : Nat) (a : DWord) (bs : List Byte) (s : State) : State :=
  match ringLoc s part a true with
  | some l => wrBytes l bs s
  | none => noteTables part [a] true s

/-- Writes bytes of any alignment there: each byte where its own address leads, those that lead nowhere not at all. -/
def busWrite (part : Nat) (a : DWord) (bs : List Byte) (s : State) : State :=
  ((List.range bs.length).zip bs).foldl (fun s b => match ringLoc s part (a + BitVec.ofNat 64 b.1) true with
    | some l => wrBytes l [b.2] s
    | none => s) (noteTables part ((List.range bs.length).map fun i => a + BitVec.ofNat 64 i) true s)

/-- Whether each of `n` bytes that the device is to write there leads to memory. -/
def busOk (s : State) (part : Nat) (a : DWord) (n : Nat) : Bool := (List.range n).all fun i => (ringLoc s part (a + BitVec.ofNat 64 i) true).isSome

/-- What the hank learns where they do not all lead to memory (R257). -/
def noteWay (part : Nat) (a : DWord) (n : Nat) (s : State) : State := noteTables part ((List.range n).map fun i => a + BitVec.ofNat 64 i) true s

/-- A 32-byte event record (R367). -/
def eventBytes (s : State) (kind which part : Nat) (info0 info1 : DWord) : List Byte :=
  toBytes (kind + which % 2 ^ 16 * 2 ^ 16 + part * 2 ^ 32) 8 ++ toBytes info0.toNat 8 ++ toBytes info1.toNat 8 ++ toBytes s.now 8

/-- Posts a record to a function's event ring and raises vector 2; a full ring drops it, and the next record written says so in info1 (R367). -/
def postEvent (fn : Fn) (kind which part : Nat) (info0 info1 : DWord) (s : State) : State :=
  let r := fnOf s fn
  match r.evLog2 with
  | none => s
  | some k =>
    if Config.eventFull s.fresh then updFn fn (fun r => { r with evLost := true }) (nextFree s)
    else
      let info1 : DWord := if r.evLost then info1 ||| 0x8000000000000000 else info1
      let s := ringWrite fn.part (r.evAddr + BitVec.ofNat 64 (r.evWr % 2 ^ k * 32)) (eventBytes s kind which part info0 info1) (nextFree s)
      raiseVector fn 2 (updFn fn (fun r => { r with evWr := r.evWr + 1, evLost := false }) s)

/-- A device event goes to the rings of the PF's functions (R367). -/
def postDevice (kind which : Nat) (info0 info1 : DWord) (s : State) : State :=
  postEvent ⟨1, 0⟩ kind which 0 info0 info1 (postEvent ⟨0, 0⟩ kind which 0 info0 info1 s)

/-- A command queue. -/
def findQueue (s : State) (part q : Nat) : Option CmdQueue := s.queues.find? fun c => c.part = part ∧ c.q = q

/-- Changes a command queue. -/
def updQ (part q : Nat) (f : CmdQueue → CmdQueue) (s : State) : State :=
  { s with queues := updFirst (fun c => c.part = part ∧ c.q = q) f s.queues }

/-- The address of the slot `i` past a queue's read pointer (R361). -/
def slotAddr (c : CmdQueue) (i : Nat) : DWord := c.ring + BitVec.ofNat 64 ((c.rd.toNat + i) % 2 ^ c.log2 * 64)

/-- The 64 bytes of that slot; none where the ring can not be read there. -/
def slotData (s : State) (c : CmdQueue) (i : Nat) : Option (List Byte) :=
  match ringLoc s c.part (slotAddr c i) false with
  | some l => if hasEcc s l 64 then none else some (rdBytes s l 64)
  | none => none

/-- Uncorrectable errors that a read of bytes by the device's own engines has met, as the hank keeps them (R257). -/
def noteEcc (part : Nat) (l : Loc) (n : Nat) (s : State) : State := if hasEcc s l n then hankEcc part l s else s

/-- Whether every byte of a run lies in some permitted range of a queue (R300, R304). -/
def permitted (rs : List (Nat × Nat)) (a n : Nat) : (fuel : Nat) → Bool
  | 0 => n = 0
  | f + 1 =>
    if n = 0 then true
    else
      let top := (rs.filter fun r => r.1 ≤ a && a ≤ r.2).foldl (fun m r => max m (r.2 + 1)) a
      if top = a then false else if a + n ≤ top then true else permitted rs top (a + n - top) f

/-- The same for an object that a packet names. -/
def allowed (c : CmdQueue) (a n : Nat) : Bool := permitted c.ranges a n (c.ranges.length + 1)

/-- The environment of the front end's and a hub copy engine's accesses for a queue (R302, R364). -/
def queueEnv (c : CmdQueue) : Env := ⟨⟨0, 0, 0⟩, .initial, { Grid.initial with part := c.part, asid := c.asid, hub := c.hub }, 0, []⟩

/-- How a read of the front end ends (R364), a fault with what it reports (R257, R284). -/
inductive FeRes where
  | ok (bs : List Byte)
  | fault (cause : BitVec 8) (va : DWord) (info : Option FaultRec) (ecc : Option EccAt)
deriving DecidableEq, Repr

/-- Reads runs of bytes through a queue's address space; home 15 belongs to a spindle and is not there (R302). A miss ends the launch (R364) and leaves no
fault record, where a stage-2 permission failure leaves its own (R285): the choice of this model, log 41. -/
def feRead (s : State) (e : Env) : List (DWord × Nat) → FeRes
  | [] => .ok []
  | x :: xs =>
    if x.1.toNat / 2 ^ 53 = 15 then .fault 0x11 x.1 none none
    else match access s e .copy x.1 x.2 true false true with
    | .ok l _ _ => (match feRead s e xs with
      | .ok bs => .ok (rdBytes s l x.2 ++ bs)
      | r => r)
    | .park r => .fault r.cause x.1 none none
    | .fault c _ info ecc => .fault c x.1 info ecc
    | .uncorr => .fault 0x30 x.1 none none

/-- Reads `n` bytes at an address. -/
def feBytes (s : State) (c : CmdQueue) (a : DWord) (n : Nat) : FeRes := feRead s (queueEnv c) (pieceRuns a n)

/-- What validation makes of a LAUNCH: a failed check of R304, a fault of the front end's reads, a grid (R304, R364). -/
inductive Plan where
  | bad (check : Nat)
  | fault (cause : BitVec 8) (va : DWord) (info : Option FaultRec) (ecc : Option EccAt)
  | go (d : Grid)
deriving DecidableEq, Repr

/-- The 64-byte header of an image (R364). -/
structure ImageHead where
  dalign : Nat
  codeOff : Nat
  codeLen : Nat
  dataOff : Nat
  dataLen : Nat
  descOff : Nat
  descLen : Nat
deriving DecidableEq, Repr

/-- An image's header, where its values are within their limits (R364). -/
def imageHead (va : DWord) (bs : List Byte) : Option ImageHead :=
  let h : ImageHead := ⟨fld bs 12 1, fld bs 16 8, fld bs 24 8, fld bs 32 8, fld bs 40 8, fld bs 48 8, fld bs 56 8⟩
  if fld bs 0 8 = 0x3130204A424F4B53 ∧ fld bs 8 2 = 1 ∧ fld bs 10 2 = 0 ∧ fld bs 13 3 = 0 ∧ 6 ≤ h.dalign ∧ h.dalign ≤ 30 ∧
      va.toNat % 2 ^ h.dalign = 0 ∧ h.codeOff % 64 = 0 ∧ h.codeLen % 4 = 0 ∧ 4 ≤ h.codeLen ∧ h.codeLen ≤ 2 ^ 32 ∧
      h.dataOff % 2 ^ h.dalign = 0 ∧ h.descOff % 8 = 0 ∧ 0x100 ≤ h.descLen ∧ h.descLen % 8 = 0 then some h
  else none

/-- One role of the role table (R365). -/
def roleAt (bs : List Byte) (n : Nat) : Role :=
  let o := 0x18 + 16 * n
  ⟨fld bs o 1, fld bs (o + 1) 1, fld bs (o + 2) 1 = 1, fld bs (o + 8) 8⟩

/-- The launch description (R365). -/
def readDesc (bs : List Byte) : LaunchDesc :=
  { groups := fld bs 3 1
    scratch := fld bs 4 4
    tagSlots := fld bs 8 1
    accs := fld bs 10 1
    tiles := fld bs 11 1
    tvec := if 128 ≤ fld bs 23 1 then some (fld bs 16 4) else none
    roles := (List.range (fld bs 9 1)).map (roleAt bs)
    shapes := (List.range 16).map fun i => BitVec.ofNat 64 (fld bs (0x58 + 8 * i) 8) &&& 0x3FF3F
    queues := (List.range 16).map fun i => fld bs (0xD8 + i) 1
    tqueues := (List.range 16).map fun i => BitVec.ofNat 64 (fld bs (0xE8 + i) 1) }

/-- Whether the role table is within its limits: used roles whole, unused ones 0, at most one gang role of 2-6 groups (R14, R365). -/
def rolesOk (bs : List Byte) (codeLen : Nat) (x : LaunchDesc) : Bool :=
  decide (1 ≤ x.roles.length) && decide (x.roles.length ≤ 4) &&
    ((List.range 4).all fun n =>
      let o := 0x18 + 16 * n
      if n < x.roles.length then
        decide (1 ≤ fld bs o 1) && decide (1 ≤ fld bs (o + 1) 1) && decide (fld bs (o + 1) 1 ≤ 8) && decide (fld bs (o + 2) 1 ≤ 1) &&
          zeros bs (o + 3) 5 && fld bs (o + 8) 8 % 4 = 0 && decide (fld bs (o + 8) 8 < codeLen)
      else zeros bs o 16) &&
    (let gs := x.roles.filter fun r => r.gang
     decide (gs.length ≤ 1) && gs.all fun r => decide (2 ≤ r.groups) && decide (r.groups ≤ 6)) &&
    x.roles.foldl (fun n r => n + r.groups) 0 = x.groups && decide (1 ≤ x.groups) && decide (x.groups ≤ 32)

/-- Whether a team fits an empty spindle (R312): its lanes hold at most four groups and eight blocks. -/
def fitsEmpty (x : LaunchDesc) : Bool :=
  let ms := descLanes x
  decide (x.scratch ≤ 0x40000) && decide (x.tiles ≤ 32) && decide (x.accs ≤ 16) &&
    (List.range 32).all fun j => decide ((ms.filter fun m => m.1 = j).length ≤ 4) &&
      decide ((ms.filter fun m => m.1 = j).foldl (fun n m => n + m.2) 0 ≤ 8)

/-- Whether a launch description is within the limits of R14, R17 and R365, but for what the fields check of R304 asks (`planBody`). -/
def descOk (bs : List Byte) (h : ImageHead) (x : LaunchDesc) : Bool :=
  let labels := fld bs 12 4
  decide (fld bs 0 1 ≤ 2) && decide (fld bs 1 1 ≤ 2) && decide (fld bs 2 1 ≤ 1) && x.scratch % 256 = 0 && decide (x.scratch ≤ 0x40000) &&
    decide (x.tagSlots ≤ 63) && decide (x.tagSlots * 4096 ≤ x.scratch) && decide (x.accs ≤ 8) && decide (x.tiles ≤ 16) &&
    (match x.tvec with
      | some o => o % 4 = 0 && decide (o < h.codeLen) && fld bs 20 4 = 0x80000000
      | none => fld bs 16 8 = 0) &&
    rolesOk bs h.codeLen x && (x.shapes.all fun y => y = 0 || shapeOk y) && (x.queues.all fun n => decide (n ≤ 63)) &&
    (x.tqueues.all fun n => decide (n.toNat ≤ 15)) && zeros bs 0xF8 8 && fitsEmpty x &&
    (List.range labels).all fun i =>
      let o := fld bs (0x100 + 8 * i) 8
      o % slotBytes = 0 && decide (o + slotBytes ≤ h.dataLen)

/-- The pages of a list of 16-byte entries (R363). -/
def listPages (n : Nat) (bs : List Byte) : List Page :=
  (List.range n).map fun i => ⟨BitVec.ofNat 32 (fld bs (16 * i) 4), BitVec.ofNat 64 (fld bs (16 * i + 8) 8), .waiting, 0, none, none, (0, 0)⟩

/-- The pages that labels name: the PGIDX of a labelled page is its place (R35, R365). -/
def labelPages (base : DWord) (n : Nat) (bs : List Byte) : List Page :=
  (List.range n).map fun i => ⟨BitVec.ofNat 32 i, base + BitVec.ofNat 64 (fld bs (0x100 + 8 * i) 8), .waiting, 0, none, none, (0, 0)⟩

/-- The words of a code section, by number (R50). -/
def codeWords (bs : List Byte) : SMap 32 :=
  ((List.range (bs.length / 4)).map fun i => (i, BitVec.ofNat 32 (fld bs (4 * i) 4))).filter fun p => p.2 ≠ 0

/-- The clusters open to a partition's launches (R306, R369); the PF's are all. -/
def partClusters (s : State) (part : Nat) : BitVec 24 := if part = 0 then 0xFFFFFF else (partOf s part).clusters

/-- Whether the fields of a LAUNCH slot that need no image are within their limits (R304, R362). -/
def launchFields (member : Bool) (bs : List Byte) : Bool :=
  zeros bs 4 4 && fld bs 1 1 = 0 && fld bs 0x18 8 / 2 ^ 34 = 0 && decide (fld bs 0x18 8 % 2 ^ 33 ≤ 2 ^ 32) && fld bs 0x2B 1 = 0 &&
    fld bs 0x34 4 % 2 ^ 31 = 0 && (!member || (fld bs 0x37 1 < 128 && zeros bs 0x38 8)) && fld bs 8 8 % 64 = 0

/-- The bytes of a completion record (R366). -/
def recordLen (cap : Nat) : Nat := 32 + 32 * cap

/-- The grid of a validated LAUNCH; `id`, `packet` are set when it starts. -/
def launchGrid (s : State) (c : CmdQueue) (bs : List Byte) (h : ImageHead) (db : List Byte) (x : LaunchDesc) (code : List Byte)
    (pages : List Page) : Grid :=
  let image : DWord := BitVec.ofNat 64 (fld bs 8 8)
  let dataBase := image + BitVec.ofNat 64 h.dataOff
  { Grid.initial with
    part := c.part
    asid := c.asid
    queue := c.q
    hub := c.hub
    tag := BitVec.ofNat 16 (fld bs 2 2)
    prio := c.prio
    source := if fld db 0 1 = 0 then .flash else if fld db 0 1 = 1 then .nvme else .memory
    policy := if fld db 1 1 = 0 then .skip else if fld db 1 1 = 1 then .launch else .fault
    hold := fld db 2 1 = 1
    det := fld bs 0x18 8 / 2 ^ 33 % 2 = 1
    codeBase := image + BitVec.ofNat 64 h.codeOff
    codeLen := h.codeLen
    code := codeWords code
    dataBase
    args := if fld bs 0x20 8 = 0 then dataBase else BitVec.ofNat 64 (fld bs 0x20 8)
    ctx := BitVec.ofNat 16 (fld bs 0x30 2)
    creelBytes := fld bs 0x2C 4
    clusters := BitVec.ofNat 24 (fld bs 0x28 3) &&& partClusters s c.part
    desc := x
    pages
    ended := false }

/-- The checks of a launch behind its image's header: counts against labels and the data alignment that labels ask (R362, R364), the ranges, the
description, the clusters and the creel (R304, R365). Which check of R304 a description breaks that is outside any other limit of R14, R17 or R365, or whose
flash or NVMe source has labels, the spec does not say, though QHALT shows the number: that it is the launch check is the choice of this model, log 41. -/
def planBody (s : State) (c : CmdQueue) (bs : List Byte) (h : ImageHead) (db : List Byte) : Plan :=
  let image := fld bs 8 8
  let labels := fld db 12 4
  let list := fld bs 0x10 8
  let count := fld bs 0x18 8 % 2 ^ 33
  let x := readDesc db
  let dataBase := BitVec.ofNat 64 (image + h.dataOff)
  if h.descLen ≠ 0x100 + 8 * labels || (count = 0 && list != 0) || (labels != 0 && (count != 0 || list != 0)) || (count != 0 && list = 0) ||
      (count = 0 && labels = 0) || (labels != 0 && h.dalign < 14) then .bad 2
  else if !allowed c (image + h.codeOff) h.codeLen || !allowed c (image + h.dataOff) h.dataLen || (list != 0 && !allowed c list (16 * count)) ||
      (fld bs 0x20 8 != 0 && !allowed c (fld bs 0x20 8) 1) then .bad 3
  else if !descOk db h x || (fld db 0 1 != 2 && labels != 0) || fld bs 0x2C 4 % 0x10000 != 0 ||
      sharedBytes < fld bs 0x2C 4 || (BitVec.ofNat 24 (fld bs 0x28 3) &&& partClusters s c.part) = 0 then .bad 4
  else match feBytes s c (BitVec.ofNat 64 (image + h.codeOff)) h.codeLen with
  | .fault e a i x => .fault e a i x
  | .ok code =>
    if list = 0 then .go (launchGrid s c bs h db x code (labelPages dataBase labels db))
    else match feBytes s c (BitVec.ofNat 64 list) (16 * count) with
    | .fault e a i x => .fault e a i x
    | .ok ps => .go (launchGrid s c bs h db x code (listPages count ps))

/-- The validation of a LAUNCH slot, and the front end's reads of its image (R304, R364). -/
def planLaunch (s : State) (c : CmdQueue) (member : Bool) (bs : List Byte) : Plan :=
  let image := fld bs 8 8
  if !launchFields member bs then .bad 2
  else if !allowed c image 64 || (!member && !allowed c (fld bs 0x38 8) (recordLen (fld bs 0x32 2))) then .bad 3
  else match feBytes s c (BitVec.ofNat 64 image) 64 with
  | .fault e a i x => .fault e a i x
  | .ok hd =>
    match imageHead (BitVec.ofNat 64 image) hd with
    | none => .bad 2
    | some h =>
      if !allowed c (image + h.descOff) h.descLen then .bad 3
      else match feBytes s c (BitVec.ofNat 64 (image + h.descOff)) h.descLen with
      | .fault e a i x => .fault e a i x
      | .ok db => planBody s c bs h db

/-- The check of R304 that a MOVE slot fails. -/
def badMove (s : State) (c : CmdQueue) (member : Bool) (bs : List Byte) : Option Nat :=
  if !(zeros bs 4 4 && fld bs 1 1 = 0 && fld bs 8 8 / 2 ^ 36 = 0 && zeros bs 0x10 32 && fld bs 0x30 8 % 2 ^ 63 = 0 &&
      (!member || (zeros bs 0x30 16))) then some 2
  else
    let ok := match findTensor s c.part (BitVec.ofNat 32 (fld bs 8 4)) with
      | some t => (match t.hbmAt with | some p => allowed c (p.1 * 2 ^ 53 + p.2) t.size | none => true) &&
          (match t.boardAt with | some a => allowed c (8 * 2 ^ 53 + a) t.size | none => true) &&
          (match t.flashAt with | some a => allowed c (9 * 2 ^ 53 + a) t.size | none => true)
      | none => true
    if !ok || (!member && !allowed c (fld bs 0x38 8) 32) then some 3 else none

/-- The copy of a COPY slot (R302, R362); the address of a CPYS block is of no use here. -/
def copyJob (bs : List Byte) : CopyJob :=
  let d : DWord := BitVec.ofNat 64 (fld bs 8 8)
  let a : DWord := BitVec.ofNat 64 (fld bs 16 8)
  if fld bs 0x28 1 = 1 then .cpys d a 0 (BitVec.ofNat 128 (fld bs 0x18 16)) else .cpy d a (fld bs 0x18 4)

/-- The runs of bytes that a copy names at an operand. -/
def copyRuns (bs : List Byte) (at_ : Nat) (dest : Bool) : List (Nat × Nat) :=
  if fld bs 0x28 1 = 1 then
    let p : BitVec 128 := BitVec.ofNat 128 (fld bs 0x18 16)
    let st : DWord := sx (if dest then p.extractLsb' 96 32 else p.extractLsb' 64 32)
    if cpysOk p then
      (List.range (fieldN (p.extractLsb' 0 64) 32 32)).map fun j => ((BitVec.ofNat 64 at_ + BitVec.ofNat 64 j * st).toNat, fieldN (p.extractLsb' 0 64) 0 32)
    else []
  else [(at_, fld bs 0x18 4)]

/-- Whether a hub copy may name an address (R302, R304). -/
def copyHome (a : Nat) : Bool :=
  let home := a / 2 ^ 53
  decide (home ≤ 8) || home = 10 || home = 11

/-- The check of R304 that a COPY slot fails; the counts of a CPYS have the limits of R163. -/
def badCopy (c : CmdQueue) (member : Bool) (bs : List Byte) : Option Nat :=
  let cpys := fld bs 0x28 1 = 1
  if cpys && !cpysOk (BitVec.ofNat 128 (fld bs 0x18 16)) then some 2
  else if !(zeros bs 4 4 && fld bs 1 1 = 0 && decide (fld bs 0x28 8 ≤ 1) && (cpys || (zeros bs 0x1C 4 && zeros bs 0x20 8)) &&
      fld bs 0x30 8 % 2 ^ 63 = 0 && (!member || zeros bs 0x30 16)) then some 2
  else
    let d := fld bs 8 8
    let a := fld bs 16 8
    if !copyHome d || !copyHome a || !((copyRuns bs d true).all fun r => allowed c r.1 r.2) ||
        !((copyRuns bs a false).all fun r => allowed c r.1 r.2) || (!member && !allowed c (fld bs 0x38 8) 32) then some 3
    else none

/-- The kind of a slot (R361). -/
def slotKind (bs : List Byte) : Nat := fld bs 0 1

/-- What validation makes of a queue's next packet: a failed check, or what may start (R304); a member is its slot and its plan. -/
inductive Verdict where
  | bad (check : Nat)
  | one (bs : List Byte) (p : Option Plan)
  | bundle (bs : List Byte) (ms : List (List Byte × Option Plan))
deriving DecidableEq, Repr

/-- The check that a MOVE or COPY fails, and the plan of a LAUNCH. -/
def checkWork (s : State) (c : CmdQueue) (member : Bool) (bs : List Byte) : Nat ⊕ Option Plan :=
  match slotKind bs with
  | 1 => (match planLaunch s c member bs with | .bad n => .inl n | p => .inr (some p))
  | 2 => (match badMove s c member bs with | some n => .inl n | none => .inr none)
  | _ => (match badCopy c member bs with | some n => .inl n | none => .inr none)

/-- The members of a bundle, checked in their order (R303, R304). -/
def checkMembers (s : State) (c : CmdQueue) : List Nat → Nat ⊕ List (List Byte × Option Plan)
  | [] => .inr []
  | i :: is =>
    match slotData s c i with
    | none => .inl 7
    | some bs =>
      let k := slotKind bs
      if !(k = 1 || k = 2 || k = 3) then .inl 5
      else if !c.kinds.contains k then .inl 1
      else match checkWork s c true bs with
      | .inl n => .inl n
      | .inr p => match checkMembers s c is with
        | .inl n => .inl n
        | .inr ms => .inr ((bs, p) :: ms)

/-- The validation of a queue's next packet, the rows of R304 in their order. Of a SIGNAL and a WAIT the whole of 0x08 is the token, so that nonzero bits
[63:12] are check 6: the choice of this model, log 41. -/
def verdict (s : State) (c : CmdQueue) : Verdict :=
  if 2 ^ c.log2 < (c.wr - c.rd).toNat then .bad 7
  else match slotData s c 0 with
  | none => .bad 7
  | some bs =>
    let k := slotKind bs
    if k = 0 || 6 < k || !c.kinds.contains k then .bad 1
    else if k = 6 then
      let n := fld bs 1 1
      if !(zeros bs 4 4 && zeros bs 8 40 && zeros bs 0x30 2 && fld bs 0x34 4 % 2 ^ 31 = 0) then .bad 2
      else if !allowed c (fld bs 0x38 8) (recordLen (fld bs 0x32 2)) then .bad 3
      else if n < 2 || 16 < n then .bad 5
      else if (c.wr - c.rd).toNat < n + 1 then .bad 7
      else match checkMembers s c ((List.range n).map fun i => i + 1) with
      | .inl m => .bad m
      | .inr ms => .bundle bs ms
    else if k = 4 || k = 5 then
      if !(zeros bs 4 4 && fld bs 1 1 = 0 && zeros bs (if k = 4 then 16 else 24) 48) then .bad 2
      else if 4095 < fld bs 8 8 then .bad 6
      else .one bs none
    else match checkWork s c false bs with
    | .inl n => .bad n
    | .inr p => .one bs p

/-- The value of a process's token (R302). -/
def tokenVal (s : State) (part : Nat) (asid : BitVec 16) (n : Nat) : DWord :=
  match s.tokens.find? fun t => t.part = part ∧ t.asid = asid with
  | some t => mget t.vals n
  | none => 0

/-- Adds 1 to a process's token. -/
def tokenUp (part : Nat) (asid : BitVec 16) (n : Nat) (s : State) : State :=
  if s.tokens.any fun t => t.part = part ∧ t.asid = asid then
    { s with tokens := updFirst (fun t => t.part = part ∧ t.asid = asid) (fun t => { t with vals := mset t.vals n (mget t.vals n + 1) }) s.tokens }
  else { s with tokens := s.tokens ++ [⟨part, asid, mset [] n 1⟩] }

/-- Whether a queue has a packet ready to start (R301, R302); in P3 and P4 packets wait (R380). -/
def packetReady (s : State) (c : CmdQueue) : Bool :=
  decide (s.pstate ≤ 2) && !c.halted && c.rd != c.wr && (match verdict s c with
    | .bad _ => true
    | .one bs _ =>
      if slotKind bs = 5 then decide (fld bs 16 8 ≤ (tokenVal s c.part c.asid (fld bs 8 2)).toNat) else true
    | .bundle _ _ => true)

/-- Whether a hub's front end may serve a queue now: no queue of higher priority has a packet ready, and none of its own whose turn comes earlier
(R301). -/
def mayServe (s : State) (c : CmdQueue) : Bool :=
  packetReady s c && s.queues.all fun e =>
    e.hub != c.hub || decide (e.prio < c.prio) || (e.prio = c.prio && decide (c.turn ≤ e.turn)) || !packetReady s e

/-- The read pointer moves past slots of a packet that has started, and is written back as 8 bytes of any alignment (R361, log 17); the queue's next turn comes behind the others' (R301). -/
def passSlots (c : CmdQueue) (n : Nat) (s : State) : State :=
  let rd := c.rd + BitVec.ofNat 32 n
  busWrite c.part c.writeBack (toBytes rd.toNat 8)
    (updQ c.part c.q (fun c => { c with rd, turn := s.nextTurn }) { s with nextTurn := s.nextTurn + 1 })

/-- A packet of a queue; `bs` is its slot. -/
def newPacket (s : State) (c : CmdQueue) (bs : List Byte) (bundle : Option (Nat × Nat)) : Packet :=
  { id := s.nextPacket
    part := c.part
    q := c.q
    kind := slotKind bs
    tag := BitVec.ofNat 16 (fld bs 2 2)
    recVa := BitVec.ofNat 64 (fld bs 0x38 8)
    irq := decide (128 ≤ fld bs 0x37 1)
    errCap := if slotKind bs = 1 || slotKind bs = 6 then fld bs 0x32 2 else 0
    bundle
    open_ := []
    finished := false
    failed := 0
    done := 0
    errors := []
    detail := 0
    discarded := false
    move := none }

/-- Enters a packet that starts; one outside a bundle counts among its queue's running packets. -/
def addPacket (c : CmdQueue) (p : Packet) (s : State) : State :=
  let s := { s with packets := s.packets ++ [p], nextPacket := s.nextPacket + 1 }
  if p.bundle.isSome then s else updQ c.part c.q (fun c => { c with running := c.running ++ [p.id] }) s

/-- A partition's time slice begins where none of its launches runs yet (R321, log 39). -/
def beginSlice (part : Nat) (s : State) : State :=
  if (allGrids s).any fun d => d.part = part && !d.ended then s else updPart part (fun p => { p with sliceFrom := s.now }) s

/-- Starts a grid, or ends its launch with the fault of the front end's reads (R302, R364). -/
def startGrid (part id : Nat) (p : Plan) (s : State) : State :=
  match p with
  | .go d =>
    let s := beginSlice part s
    { s with grids := s.grids ++ [{ d with id := s.nextLaunch, packet := id }], nextLaunch := s.nextLaunch + 1 }
  | .fault cause va info ecc =>
    reportInfo part info ecc <| finishPacket id 0 (updPacket id (fun p => { p with errors := p.errors ++ [⟨va, 0, 0, (p.bundle.map (·.2)).getD 0, 0, cause⟩] }) s)
  | .bad _ => s

/-- A packet's request on a tensor, as TNMOV (R272, R302): one that stalls joins the tensor's line (R273), one that is refused has failed (log
17). -/
def moveRequest (part : Nat) (h : Word) (home id : Nat) (s : State) : State :=
  let s := updPacket id (fun p => { p with move := none }) s
  match findTensor s part h with
  | none => finishPacket id 5 s
  | some t =>
    match (if answered s (.packet id) (tnmovRes s home) t then tnmovRes s home t else .waits) with
    | .waits => updPacket id (fun p => { p with move := some (h, home) }) (updTensor part h (joinTensor (.packet id)) s)
    | .done 0 u => finishPacket id 0 (applyTo part h (.packet id) 0 u s)
    | .done 1 u => applyTo part h (.packet id) 1 { u with packets := u.packets ++ [id], movers := [] } s
    | .done 2 u => applyTo part h (.packet id) 2 { u with packets := u.packets ++ [id] } s
    | .done _ u => finishPacket id 5 (applyTo part h (.packet id) 0 u s)

/-- Starts a tier move for a packet (R272, R302). -/
def startMove (c : CmdQueue) (id : Nat) (bs : List Byte) (s : State) : State :=
  moveRequest c.part (BitVec.ofNat 32 (fld bs 8 4)) (fld bs 12 1 % 16) id s

/-- The requests of packets that stand first in the lines of tensors whose move or eviction has ended are applied (R272, R273). -/
def serveMoves (s : State) : State :=
  (s.packets.filter fun p => !p.finished).foldl (fun s p => match p.move with
    | some m => moveRequest p.part m.1 m.2 p.id s
    | none => s) s

/-- Hands a copy to the hub's copy engine (R302). -/
def startCopy (id : Nat) (bs : List Byte) (s : State) : State :=
  let j := copyJob bs
  match j with
  | .cpy _ _ 0 => finishPacket id 0 s
  | _ =>
    let o : Op := ⟨s.nextOp, .packet id, 0, .copy j, false, false, none, none, none, [], none, 0, [], [], none, s.now⟩
    { s with ops := s.ops ++ [o], nextOp := s.nextOp + 1 }

/-- Starts the work of a LAUNCH, MOVE or COPY (R302). -/
def startWork (c : CmdQueue) (id : Nat) (bs : List Byte) (p : Option Plan) (s : State) : State :=
  match p with
  | some p => startGrid c.part id p s
  | none => if slotKind bs = 2 then startMove c id bs s else startCopy id bs s

/-- Starts a LAUNCH, MOVE or COPY of a queue. -/
def startOne (c : CmdQueue) (bs : List Byte) (p : Option Plan) (s : State) : State :=
  startWork c s.nextPacket bs p (passSlots c 1 (addPacket c (newPacket s c bs none) s))

/-- Starts the members of a bundle together (R303). -/
def startBundle (c : CmdQueue) (bs : List Byte) (ms : List (List Byte × Option Plan)) (s : State) : State :=
  let b := s.nextPacket
  let n := ms.length
  let ids := (List.range n).map fun i => b + 1 + i
  let s := passSlots c (n + 1) (addPacket c { newPacket s c bs none with open_ := ids } s)
  let s := ((List.range n).zip ms).foldl (fun s m => addPacket c (newPacket s c m.2.1 (some (b, m.1))) s) s
  (ids.zip ms).foldl (fun s m => startWork c m.1 m.2.1 m.2.2 s) s

/-- The signals of a queue whose packets have completed (R302). -/
def settleSignals (part q : Nat) (s : State) : State :=
  match findQueue s part q with
  | none => s
  | some c =>
    let s := updQ part q (fun c => { c with signals := c.signals.filter fun x => !x.awaits.isEmpty }) s
    (c.signals.filter fun x => x.awaits.isEmpty).foldl (fun s x => tokenUp part c.asid x.token s) s

/-- A SIGNAL starts: it takes effect once the packets before it have completed (R302). -/
def startSignal (c : CmdQueue) (bs : List Byte) (s : State) : State :=
  settleSignals c.part c.q (passSlots c 1 (updQ c.part c.q (fun c => { c with signals := c.signals ++ [⟨c.running, fld bs 8 2⟩] }) s))

/-- The landing slots of launches become free, and their creel allocations; accepted operations go on with the bytes (R203, R264, R298, R305). -/
def freeLandings (ls : List Nat) (s : State) : State :=
  let mine := s.slots.filter fun x => match x.st.launch with | some l => ls.contains l | none => false
  let s := mine.foldl (fun s x => freeSlot x.cluster x.num s) s
  { s with creels := s.creels.map fun x => if ls.contains x.launch then { x with released := true } else x }

/-- A reel instruction that makes a tree: of a process that ends, the tree would be freed at once (R305). -/
def OpKind.makesTree : OpKind → Bool
  | .reel _ _ (.new _) => true
  | _ => false

/-- A team end with no dump while the partition's dump is not armed (R402, R403). -/
def noteMissed (part : Nat) (s : State) : State :=
  updPart part (fun p => { p with dmpMissed := if p.dmpEn || p.dmpMissed = 255 then p.dmpMissed else p.dmpMissed + 1 }) s

/-- Whether a grid belongs to a process. -/
def ofProcess (part : Nat) (asid : Option (BitVec 16)) (d : Grid) : Bool :=
  d.part = part && (match asid with | some a => d.asid = a | none => true)

/-- The launches of a process end without a dump: their groups and teams are gone, their trees freed; the operations that their engines have accepted
run to completion, but for its copies (R298, R305). -/
def endLaunches (ls : List Nat) (s : State) : State :=
  let gs := (allGroups s).filter fun g => ls.contains g.key.launch && (g.phase = .running || g.phase = .exiting)
  let s := gs.foldl (fun s g => leaveTag g.ctx s) s
  let s := updGroups (fun g => ls.contains g.key.launch)
    (fun g => { g with phase := .retired, alloc := 0, wait := .none, park := none, posted := none, haltedBy := [], stopped := false }) s
  let ts := (allTeams s).filter fun t => ls.contains t.key.launch && t.phase != .gone
  let s := ts.foldl (fun s t => traceLeft t.spindle t.key.launch (updTeam t.key (fun t => { t with
    phase := .gone, tags := [], latches := [], dumping := false }) s)) s
  let s := ls.foldl (fun s l => endTrees l (updGrid l (fun d => { d with
    ended := true
    pages := d.pages.map fun p => if p.st = .done then p else { p with st := .failed, record := none } }) s)) s
  let mine := fun (o : Op) => match o.owner with | .group k => ls.contains k.launch | .packet _ => false
  let s := (ts.filter fun t => t.phase != .ended).foldl (fun s t => noteMissed (((findGrid s t.key.launch).map (·.part)).getD 0) s) s
  (fun s => ls.foldl (fun s l => dropCreels l s) s) <| ts.foldl (fun s t => endedRelease t.key s) <| freeLandings ls { s with
    ops := s.ops.filter fun o => !(mine o && (o.kind.path = 1 || o.kind.makesTree))
    ctxWaiters := s.ctxWaiters.filter fun k => !ls.contains k.launch
    rings := s.rings.map fun r => { r with waiters := r.waiters.filter fun k => !ls.contains k.launch } }

/-- The moves that only a process has asked for are abandoned (R305, log 17). -/
def abandonMoves (ls ps : List Nat) (s : State) : State :=
  let mine := fun (t : Tensor) => t.st = .moving && (t.movers.all fun k => ls.contains k.launch) && t.packets.all fun p => ps.contains p
  (s.tensors.filter mine).foldl (fun s t => moveEnds t false s) s

/-- The halt of a process (R305), or of all of a partition's (R370): its queues halt and its running work is discarded. -/
def haltWork (part : Nat) (asid : Option (BitVec 16)) (s : State) : State :=
  let mineQ := fun (c : CmdQueue) => c.part = part && (match asid with | some a => c.asid = a | none => true)
  let qs := (s.queues.filter mineQ).map fun c => c.q
  let ps := (s.packets.filter fun p => p.part = part && qs.contains p.q).map fun p => p.id
  let ls := ((allGrids s).filter fun d => ofProcess part asid d && !d.ended).map fun d => d.id
  let s := abandonMoves ls ps (endLaunches ls s)
  { s with
    queues := s.queues.map fun c => if mineQ c then { c with halted := true, signals := [] } else c
    ops := s.ops.filter fun o => match o.owner with | .packet i => !ps.contains i | .group _ => true
    packets := (s.packets.filter fun p => !(ps.contains p.id && p.bundle.isSome)).map fun p =>
      if ps.contains p.id && !p.finished then { p with finished := true, discarded := true, open_ := [] } else p
    tensors := s.tensors.map fun t => { t with waiters := t.waiters.filter fun o => match o with | .packet i => !ps.contains i | .group _ => true }
    tags := s.tags.map fun t =>
      if t.part = part && (match asid with | some a => t.asid = a | none => true) then { t with retiring := true, holders := 0 } else t }

/-- The slots that the validation of a queue's next packet reads (R304): its own and, where the ring holds them, a bundle's members. -/
def slotsRead (s : State) (c : CmdQueue) : List Nat :=
  match slotData s c 0 with
  | none => [0]
  | some bs => if slotKind bs = 6 && decide (fld bs 1 1 + 1 ≤ (c.wr - c.rd).toNat) then List.range (fld bs 1 1 + 1) else [0]

/-- The hank learns of the uncorrectable error that has ended the validation of a packet (R257, R304, R409). -/
def noteSlot (c : CmdQueue) (check : Nat) (s : State) : State :=
  if check != 7 || decide (2 ^ c.log2 < (c.wr - c.rd).toNat) then s
  else match (slotsRead s c).find? fun i => (slotData s c i).isNone with
  | some i => (match ringLoc s c.part (slotAddr c i) false with | some l => noteEcc c.part l 64 s | none => noteTables c.part [slotAddr c i] false s)
  | none => s

/-- A malformed packet halts its process (R305), with its entry in the hank (R409); the error record follows when the halt is complete (`postHalts`). -/
def haltProcess (c : CmdQueue) (check : Nat) (s : State) : State :=
  let ls := ((allGrids s).filter fun d => ofProcess c.part (some c.asid) d && !d.ended).map fun d => d.id
  let s := haltWork c.part (some c.asid) (noteSlot c check s)
  hankAdd 0x40 2 (BitVec.ofNat 8 c.part) (BitVec.ofNat 4 (8 + c.hub)) (BitVec.ofNat 64 c.q) (BitVec.ofNat 64 check)
    { s with halts := s.halts ++ [⟨c.part, c.q, c.hub, slotAddr c 0, check, ls⟩] }

/-- Whether the operations and tier moves that a halt has let run to completion have ended (R298, R305). -/
def haltDone (s : State) (h : Halt) : Bool :=
  h.launches.all fun l => !(s.ops.any fun o => match o.owner with | .group k => k.launch = l | .packet _ => false) &&
    !s.tensors.any fun t => (t.st = .moving || t.st = .evicting) && t.movers.any fun k => k.launch = l

/-- The error record of each halt that is complete, with its interrupt (R305, R367). -/
def postHalts (s : State) : State :=
  (s.halts.filter (haltDone s)).foldl (fun s h => postEvent ⟨h.hub, h.part⟩ 0x01 h.q h.part h.slot (BitVec.ofNat 64 h.check) s)
    { s with halts := s.halts.filter fun h => !haltDone s h }

/-- The next packet of a queue starts, if it is of the kind and its queue's turn has come; a malformed one halts its process instead, and so
does one whose kind is none (R301-R305). -/
def startPacket (kind part q : Nat) (s : State) : State :=
  match findQueue s part q with
  | none => s
  | some c =>
    if !mayServe s c then s
    else
      let k := match slotData s c 0 with | some bs => slotKind bs | none => 0
      let turn := k = kind || k = 0 || 6 < k
      match verdict s c with
      | .bad n => if turn then haltProcess c n s else s
      | .one bs p =>
        if k ≠ kind then s
        else if kind = 4 then startSignal c bs s
        else if kind = 5 then passSlots c 1 s
        else startOne c bs p s
      | .bundle bs ms => if kind = 6 then startBundle c bs ms s else s

/-- LAUNCH (R302, R362, R364, R365). -/
def execLaunch (part q : Nat) (s : State) : Res := .next (startPacket 1 part q s)

/-- MOVE (R302, R362). -/
def execMove (part q : Nat) (s : State) : Res := .next (startPacket 2 part q s)

/-- COPY (R302, R362). -/
def execCopyPacket (part q : Nat) (s : State) : Res := .next (startPacket 3 part q s)

/-- SIGNAL (R302, R362). -/
def execSignal (part q : Nat) (s : State) : Res := .next (startPacket 4 part q s)

/-- WAIT (R302, R362). -/
def execWaitPacket (part q : Nat) (s : State) : Res := .next (startPacket 5 part q s)

/-- BUNDLE (R303, R362). -/
def execBundle (part q : Nat) (s : State) : Res := .next (startPacket 6 part q s)

/-- An error entry as bytes (R366). -/
def errBytes (e : ErrEntry) : List Byte :=
  toBytes (e.cause.toNat + e.group % 256 * 2 ^ 8) 8 ++ toBytes (e.member % 256 + e.team.toNat * 2 ^ 32) 8 ++ toBytes e.epc.toNat 8 ++ toBytes e.tval.toNat 8

/-- The status of a packet that has done its work (R366). -/
def packetStatus (p : Packet) : Nat :=
  if p.discarded then 2 else if p.failed = 0 && p.errors.isEmpty && p.detail = 0 then 0 else 1

/-- The header of a completion record (R366). -/
def headBytes (s : State) (p : Packet) : List Byte :=
  toBytes (packetStatus p + p.detail.toNat * 2 ^ 16 + p.tag.toNat * 2 ^ 32) 8 ++ toBytes (p.errors.length % 2 ^ 32 * 2 ^ 32) 8 ++
    toBytes (p.done % 2 ^ 32 + p.failed % 2 ^ 32 * 2 ^ 32) 8 ++ toBytes s.now 8

/-- Writes the bytes of a record through a queue's address space; one in a peer's memory goes there by the live route, if there is one (R340). Bytes whose
address does not translate are not written, where R366 names no outcome: the choice of this model, log 15. -/
def putVa (c : CmdQueue) (va : DWord) (bs : List Byte) (s : State) : State :=
  if va.toNat / 2 ^ 53 = 11 then
    match access s (queueEnv c) .copy va bs.length false true true with
    | .ok l _ _ => wrBytes l bs s
    | _ => s
  else wrVa c.part c.asid va bs s

/-- The completion record: the error entries up to the capacity, then the header (R366). -/
def writeRecord (c : CmdQueue) (p : Packet) (s : State) : State :=
  let es := (p.errors.take p.errCap).flatMap errBytes
  putVa c p.recVa (headBytes s p) (putVa c (p.recVa + 32) es s)

/-- COMPLETION_RECORD (R302, R303, R366, R367): the record, the interrupt it asks for, and the signals that waited for the packet. -/
def execCompletionRecord (packet : Nat) (s : State) : Res :=
  .next (match s.packets.find? fun p => p.id = packet with
    | none => s
    | some p =>
      if !p.finished || p.bundle.isSome then s
      else match findQueue s p.part p.q with
      | none => { s with packets := s.packets.filter fun x => x.id ≠ packet }
      | some c =>
        let s := writeRecord c p { s with packets := s.packets.filter fun x => x.id ≠ packet }
        let s := if p.irq then raiseVector ⟨c.hub, p.part⟩ 0 s else s
        settleSignals p.part p.q (updQ p.part p.q (fun c => { c with
          running := c.running.filter fun i => i ≠ packet
          signals := c.signals.map fun x => { x with awaits := x.awaits.filter fun i => i ≠ packet } }) s))

end Sys2Proof.Machine
end

