-- ==== Sys2Proof/Machine/Manage.lean ====
section
/-! DEFINITION. Management commands (R360): the ring, the allowances, and each command (R269, R274, R287-R289, R300, R305, R308, R321, R340,
R358, R369, R372, R374-R380). The specification lays out a command's opcode and tag alone, so a step carries the arguments (log 17). -/

namespace Sys2Proof.Machine

/-- Reads bytes there; nothing where one of them does not lie in home 8 or 10, or can not be read (R257). -/
def busRead (s : State) (part : Nat) (a : DWord) : (n : Nat) → Option (List Byte)
  | 0 => some []
  | n + 1 =>
    match ringLoc s part a false, busRead s part (a + 1) n with
    | some l, some bs => if hasEcc s l 1 then none else some (rdByte s l :: bs)
    | _, _ => none

/-- The uncorrectable errors among those bytes, and on the way to them, go into the hank (R257). -/
def busNote (part : Nat) (a : DWord) (n : Nat) (s : State) : State :=
  (List.range n).foldl (fun s i => match ringLoc s part (a + BitVec.ofNat 64 i) false with | some l => noteEcc part l 1 s | none => s)
    (noteTables part ((List.range n).map fun i => a + BitVec.ofNat 64 i) false s)

/-- How a management command ends (R360); `unread` is BADARG where a buffer that it names does not lead to memory, or can
not be read. -/
inductive Answer where
  | ok (s : State)
  | badCmd
  | denied
  | badArg
  | busy
  | noResource
  | unread (s : State)

/-- The status code (R360). -/
def Answer.code : Answer → Nat
  | .ok _ => 0
  | .badCmd => 1
  | .denied => 2
  | .badArg => 3
  | .busy => 4
  | .noResource => 5
  | .unread _ => 3

/-- The address of a function's next command, where its ring is enabled and holds one (R359, R360). A size of 1-3 or 13-15, to which R359 gives no meaning,
disables the ring as 0 does: the choice of this model, log 41. -/
def nextCmd (s : State) (fn : Fn) : Option DWord :=
  let r := fnOf s fn
  if 4 ≤ r.mgSize ∧ r.mgSize ≤ 12 ∧ r.mgRd ≠ r.mgDb then some (r.mgBase + BitVec.ofNat 64 (r.mgRd.toNat % 2 ^ r.mgSize * 64)) else none

/-- The end of a command: the status word, whose result nothing fixes (log 3), MGRD, and vector 3 (R360). -/
def mgmtDone (fn : Fn) (a : DWord) (code : Nat) (s : State) : State :=
  let w := code + (Config.freeDWord s.fresh).toNat / 256 * 256
  let s := busWrite fn.part (a + 56) (toBytes w 8) (nextFree s)
  raiseVector fn 3 (updFn fn (fun r => { r with mgRd := r.mgRd + 1 }) s)

/-- Whether the byte there, or a table entry on the way to it, has an uncorrectable error. -/
def busEcc (s : State) (part : Nat) (a : DWord) : Bool :=
  match ringLoc s part a false with
  | some l => hasEcc s l 1
  | none => (match stage2 s part (a.toNat / 2 ^ 53) (a.toNat % 2 ^ 53) true false with | .ecc _ => true | _ => false)

/-- Executes the next command of a function's ring, if its opcode is `op`; an unknown opcode is answered BADCMD by any of these steps, and in
the recovery loader all but FWLOAD, ATTEST and POWER are DENIED (R360, R376). `pf` marks the commands that the PF alone may give. In P4 POWER alone is executed (R379, log 40). -/
def mgmt (op : Nat) (pf : Bool) (fn : Fn) (s : State) (body : State → Answer) : State :=
  match nextCmd s fn with
  | none => s
  | some a =>
    if s.pstate = 4 && op != 0x11 then s
    else match busRead s fn.part a 1 with
    | some [b] =>
      let given := b.toNat
      if given = 0 || 0x18 < given then mgmtDone fn a 1 s
      else if given ≠ op then s
      else if (pf && fn.part != 0) || (s.firmware.recovery.isSome && !(op = 0x11 || op = 0x12 || op = 0x13)) then mgmtDone fn a 2 s
      else match body s with
      | .ok s => mgmtDone fn a 0 s
      | .unread s => mgmtDone fn a 3 s
      | r => mgmtDone fn a r.code s
    | _ => if (busEcc s fn.part a) then mgmtDone fn a 3 (busNote fn.part a 1 s) else s

/-- Whether an address may hold a ring (R359-R361): home 8 or 10, on a multiple of `al`. -/
def ringAddr (a : DWord) (al : Nat) : Bool := (a.toNat / 2 ^ 53 = 8 || a.toNat / 2 ^ 53 = 10) && a.toNat % al = 0

/-- Whether an address space of a partition has been set (R280). -/
def hasAsid (s : State) (part : Nat) (asid : BitVec 16) : Bool := s.aspaces.any fun a => a.part = part && a.asid = asid

/-- The queue that CREATEQ makes; a deferral limit of 0 stands for the default of 100 µs (R300, log 17). -/
def queueFrom (fn : Fn) (a : QueueArgs) : CmdQueue :=
  { part := fn.part
    q := a.q
    hub := fn.hub
    ring := a.ring
    log2 := a.log2
    writeBack := a.writeBack
    asid := a.asid
    prio := a.prio
    kinds := a.kinds
    ranges := a.ranges
    preemptible := a.preemptible
    deferUs := if a.deferUs = 0 then 100 else a.deferUs
    rd := 0
    wr := 0
    halted := false
    running := []
    signals := []
    turn := 0 }

/-- CREATEQ (R300, R302, R360, R361, R369). The write-back address may have any alignment; one that does not lead to memory is BADARG: the choice of
this model, log 17. -/
def execCreateq (fn : Fn) (a : QueueArgs) (s : State) : Res :=
  .next (mgmt 0x01 false fn s fun s =>
    let own := s.queues.filter fun c => c.part = fn.part
    if 64 ≤ a.q || a.log2 < 4 || 16 < a.log2 || 3 < a.prio || 8 < a.ranges.length || 1000 < a.deferUs ||
        !ringAddr a.ring 64 || !(a.kinds.all fun k => 1 ≤ k && k ≤ 6) || !hasAsid s fn.part a.asid || (findQueue s fn.part a.q).isSome then .badArg
    else if !busOk s fn.part a.writeBack 8 then .unread (noteWay fn.part a.writeBack 8 s)
    else if (fn.part != 0 && decide ((partOf s fn.part).queueQuota ≤ own.length)) || 1024 ≤ s.queues.length then .noResource
    else
      let first := !own.any fun c => c.asid = a.asid
      .ok { s with
        queues := s.queues ++ [{ queueFrom fn a with turn := s.nextTurn }]
        nextTurn := s.nextTurn + 1
        tokens := if first then s.tokens.filter fun t => ¬ (t.part = fn.part ∧ t.asid = a.asid) else s.tokens })

/-- RESETQ (R305, R360). -/
def execResetq (fn : Fn) (q : Nat) (s : State) : Res :=
  .next (mgmt 0x02 false fn s fun s =>
    if (findQueue s fn.part q).isNone then .badArg
    else .ok (updQ fn.part q (fun c => { c with rd := 0, wr := 0, halted := false }) s))

/-- DESTROYQ (R360). -/
def execDestroyq (fn : Fn) (q : Nat) (s : State) : Res :=
  .next (mgmt 0x03 false fn s fun s =>
    match findQueue s fn.part q with
    | none => .badArg
    | some c => if !c.running.isEmpty then .busy else .ok { s with queues := s.queues.filter fun x => ¬ (x.part = fn.part ∧ x.q = q) })

/-- SETASID (R280, R358). R284 speaks of addresses in entries alone; that a root of partition 0 past its home's memory is BADARG, as SETS2's is, is
the choice of this model, log 17. -/
def execSetasid (fn : Fn) (asid : BitVec 16) (home : Nat) (gpa : DWord) (bar2 : Option DWord) (s : State) : Res :=
  .next (mgmt 0x04 false fn s fun s =>
    if 8 < home || gpa.toNat % 4096 != 0 || 2 ^ 52 ≤ gpa.toNat || (fn.part = 0 && decide (homeSize home ≤ gpa.toNat)) || (match bar2 with | some b => b.toNat % 2 ^ 36 != 0 || 2 ^ 57 ≤ b.toNat | none => false) then
      .badArg
    else
      let s := { s with aspaces := s.aspaces.filter (fun a => ¬ (a.part = fn.part ∧ a.asid = asid)) ++ [⟨fn.part, asid, home, gpa.toNat⟩] }
      .ok (match bar2 with
        | some b => updFn fn (fun r => { r with bar2 := some (asid, b) }) s
        | none => s))

/-- SETS2 (R280): the level-4 table of stage 2 is aligned to 128 bytes (R281). -/
def execSets2 (fn : Fn) (part home rootHome : Nat) (rootPa : DWord) (s : State) : Res :=
  .next (mgmt 0x05 true fn s fun s =>
    if part = 0 || 64 < part || 8 < home || 8 < rootHome || rootPa.toNat % 128 != 0 || homeSize rootHome ≤ rootPa.toNat then .badArg
    else .ok { s with s2roots := s.s2roots.filter (fun r => ¬ (r.part = part ∧ r.home = home)) ++ [⟨part, home, rootHome, rootPa.toNat⟩] })

/-- Whether an invalidation names a cached entry of the caller (R287, R360). Entries are kept by page of 4 KiB: that a range drops of a larger leaf the
pieces in the range alone, where R287 does not say what it does to the rest, is the choice of this model, log 41. -/
def names (part : Nat) : TlbScope → TlbEntry → Bool
  | .vaRange asid lo hi, e => !e.stage2 && e.part = part && e.asid = asid && decide (lo / 4096 ≤ e.page) && decide (e.page ≤ hi / 4096)
  | .asid asid, e => !e.stage2 && e.part = part && e.asid = asid
  | .gpaRange p home lo hi, e => e.stage2 && e.part = p && e.home = home && decide (lo / 4096 ≤ e.page) && decide (e.page ≤ hi / 4096)
  | .partition p, e => e.part = p

/-- The partition whose translations an invalidation concerns. -/
def scopePart (part : Nat) : TlbScope → Nat
  | .vaRange _ _ _ => part
  | .asid _ => part
  | .gpaRange p _ _ _ => p
  | .partition p => p

/-- Whether an operation holds translated addresses of a partition. -/
def usesXlate (s : State) (part : Nat) (o : Op) : Bool :=
  (!o.kind.spans.isEmpty || (match o.kind with | .reel _ _ (.leaf _ _ out) => !out.isEmpty | _ => false)) && (match o.owner with
    | .group k => (match findGrid s k.launch with | some d => d.part = part | none => false)
    | .packet _ => false)

/-- The caches after an invalidation: entries that it names are gone, and any other may be (R287, log 3). -/
def invalidate (part : Nat) (w : TlbScope) (s : State) : State :=
  let n := s.tlb.length
  { s with
    tlb := (((List.range n).zip s.tlb).filter fun x => !names part w x.2 && !Config.tlbDrop (s.fresh + x.1)).map (·.2)
    fresh := s.fresh + n }

/-- TLBINV (R287, R360): it completes when every access translated with a dropped copy has been performed. A VF can
name its own ASIDs alone. -/
def execTlbinv (fn : Fn) (what : TlbScope) (s : State) : Res :=
  .next (if s.ops.any (usesXlate s (scopePart fn.part what)) then s
    else mgmt 0x06 false fn s fun s =>
      match what with
      | .gpaRange p home _ _ => if fn.part != 0 then .denied else if 64 < p || 8 < home then .badArg else .ok (invalidate fn.part what s)
      | .partition p => if fn.part != 0 then .denied else if 64 < p then .badArg else .ok (invalidate fn.part what s)
      | .vaRange asid _ _ => if fn.part != 0 && !hasAsid s fn.part asid then .badArg else .ok (invalidate fn.part what s)
      | .asid asid => if fn.part != 0 && !hasAsid s fn.part asid then .badArg else .ok (invalidate fn.part what s))

/-- FAULTQ (R288, R360). R288 has the queue in host-visible memory, which the model takes to be home 10 alone: log 17. -/
def execFaultq (fn : Fn) (addr : DWord) (log2 : Nat) (s : State) : Res :=
  .next (mgmt 0x07 false fn s fun s =>
    if log2 < 4 || 16 < log2 || addr.toNat / 2 ^ 53 != 10 || addr.toNat % 32 != 0 then .badArg
    else .ok (updPart fn.part (fun p => { p with fqAddr := addr, fqLog2 := some log2, fqWr := 0, fqHub := fn.hub }) s))

/-- The record that a response names: one of the function's own that takes an answer (R289). -/
def answerable (s : State) (fn : Fn) (id : Nat) : Option FaultRec :=
  s.records.find? fun r => r.id = id && r.queuePart = fn.part && r.written && !r.permv

/-- Whether a parked group waits on a record. -/
def waitsOn (id : Nat) (g : Group) : Bool := match g.park with | some p => p.recs.any fun x => x.2.1 = id | none => false

/-- Whether a peer's answer can leave: it has one, and the replies to its device are not paused (R338). -/
def PeerWait.goes (s : State) (w : PeerWait) : Bool := w.answer.isSome && !repliesPaused s w.dev

/-- The answers that can leave for the peers leave (R338, R340). -/
def releasePeers (s : State) : State :=
  { s with
    peerWaits := s.peerWaits.filter fun w => !w.goes s
    replies := s.replies ++ (s.peerWaits.filter fun w => w.goes s).map fun w => .released w.dev w.va (w.answer.getD false) }

/-- A record has been answered: the peers whose requests wait on it learn it (R340). -/
def dropRecord (id : Nat) (failed : Bool) (s : State) : State :=
  releasePeers { s with
    records := s.records.filter fun r => r.id ≠ id
    peerWaits := s.peerWaits.map fun w => if w.record = id then { w with answer := some failed } else w }

/-- FAULTRESP REPLAY (R289). -/
def execFaultrespReplay (fn : Fn) (id : Nat) (s : State) : Res :=
  .next (mgmt 0x08 false fn s fun s =>
    match answerable s fn id with
    | none => .badArg
    | some _ => .ok (dropRecord id false (updGroups (waitsOn id) (fun g => { g with park := g.park.map fun p => { p with eligible := true } }) s)))

/-- The cause of the trap that a FAIL gives a thread (R289). -/
def failCause (r : FaultRec) : BitVec 8 := if r.cause = 0x10 then 0x11 else r.cause

/-- A FAIL reaches the parked threads, the engines' operations, the tier moves and the page copies that wait on a record (R289, R308). -/
def failWaiters (r : FaultRec) (s : State) : State :=
  let s := updGroups (waitsOn r.id) (fun g => { g with park := g.park.map fun p => { p with
    eligible := true
    fails := p.fails ++ (p.recs.filter fun x => x.2.1 = r.id).map fun x => (x.1, failCause r, x.2.2) } }) s
  let s := { s with
    ops := s.ops.map fun o => if o.records.contains r.id then { o with records := o.records.filter (fun i => i ≠ r.id), failed := some (failCause r) } else o
    tensors := s.tensors.map fun t => if t.records.contains r.id then { t with broken := true } else t }
  let hits := (allGrids s).flatMap fun d => (List.range d.pages.length).filterMap fun i => match d.pages[i]? with
    | some p => (match p.st with | .issued c n _ => if p.record = some r.id then some (d.id, i, c, n) else none | _ => none)
    | none => none
  hits.foldl (fun s h => memoryFails h.1 h.2.1 h.2.2.1 h.2.2.2 s) s

/-- FAULTRESP FAIL (R289). -/
def execFaultrespFail (fn : Fn) (id : Nat) (s : State) : Res :=
  .next (mgmt 0x08 false fn s fun s =>
    match answerable s fn id with
    | none => .badArg
    | some r => .ok (failWaiters r (dropRecord id true s)))

/-- EVENTQ (R360, R367). -/
def execEventq (fn : Fn) (addr : DWord) (log2 : Nat) (s : State) : Res :=
  .next (mgmt 0x09 false fn s fun s =>
    if log2 < 4 || 12 < log2 || !ringAddr addr 32 then .badArg
    else .ok (updFn fn (fun r => { r with evAddr := addr, evLog2 := some log2, evWr := 0, evLost := false }) s))

/-- A partition's share of a resource is set (R369). -/
def setQuota (part res idx value : Nat) (s : State) : Option State :=
  let f := fun (ok : Bool) g => if ok then some (updPart part g s) else none
  match res with
  | 0 => f (value < 2 ^ 24) fun p => { p with clusters := BitVec.ofNat 24 value }
  | 1 => f (idx ≤ 7) fun p => { p with hbmQuota := mset p.hbmQuota idx (BitVec.ofNat 64 value) }
  | 2 => (f (idx ≤ 8) fun p => { p with cellQuota := mset p.cellQuota idx (BitVec.ofNat 64 value) }).map (retryCells part)
  | 3 => f true fun p => { p with tagQuota := value }
  | 4 => f (value ≤ 64) fun p => { p with queueQuota := value }
  | 5 => f true fun p => { p with creelQuota := value }
  | 6 => f true fun p => { p with slice := value, sliceFrom := s.now }
  | 7 => f (value ≤ 64) fun p => { p with treeQuota := value }
  | 8 => f (value < 2 ^ 32) fun p => { p with drives := BitVec.ofNat 32 value }
  | _ => none

/-- QUOTA (R276, R369). -/
def execQuota (fn : Fn) (part res idx value : Nat) (s : State) : Res :=
  .next (mgmt 0x0A true fn s fun s =>
    if part = 0 || 64 < part || 2 ^ 64 ≤ value then .badArg
    else match setQuota part res idx value s with
    | some s => .ok s
    | none => .badArg)

/-- CELLSTORE (R274, R276). -/
def execCellstore (fn : Fn) (home cells : Nat) (s : State) : Res :=
  .next (mgmt 0x0B true fn s fun s =>
    if 8 < home || 2 ^ 64 ≤ cells then .badArg
    else
      let s := { s with cellStore := mset s.cellStore home (BitVec.ofNat 64 cells) }
      .ok ((List.range 65).foldl (fun s p => retryCells p s) s))

/-- Whether the registration of a tensor is within its limits (R267, R269). -/
def tensorOk (a : TensorArgs) : Bool :=
  decide (1 ≤ a.size) && decide (a.die ≤ 7) && (a.board.isSome || a.flash.isSome) &&
    (match a.hbm with | some p => decide (p.1 ≤ 7) && decide (p.2 + a.size ≤ homeSize p.1) | none => !a.hbmValid) &&
    (match a.board with | some p => decide (p + a.size ≤ homeSize 8) | none => !a.boardValid) &&
    (match a.flash with | some p => p % 0x4000 = 0 && decide (p + a.size ≤ 2 ^ 45) | none => !a.flashValid)

/-- REGTENSOR (R269, R272): a tensor whose HBM range holds a valid copy is RESIDENT. -/
def execRegtensor (fn : Fn) (a : TensorArgs) (s : State) : Res :=
  .next (mgmt 0x0C false fn s fun s =>
    if !tensorOk a || (findTensor s fn.part a.handle).isSome then .badArg
    else .ok { s with tensors := s.tensors ++ [{
      part := fn.part
      handle := a.handle
      size := a.size
      die := a.die
      hbmAt := a.hbm
      boardAt := a.board
      flashAt := a.flash
      hbm := a.hbmValid
      board := a.boardValid
      flash := a.flashValid
      st := if a.hbmValid then .resident else .absent
      target := 15
      source := 15
      pins := 0
      last := 0
      defer := false
      movers := []
      watchers := []
      waiters := []
      packets := []
      records := []
      broken := false }] })

/-- UNREGTENSOR (R360). -/
def execUnregtensor (fn : Fn) (handle : Word) (s : State) : Res :=
  .next (mgmt 0x0D false fn s fun s =>
    match findTensor s fn.part handle with
    | none => .badArg
    | some t =>
      if t.st = .absent || (t.st = .resident && t.pins = 0) then
        .ok { s with tensors := s.tensors.filter fun t => ¬ (t.part = fn.part ∧ t.handle = handle) }
      else .busy)

/-- PREEMPT (R321, R360). -/
def execPreempt (fn : Fn) (q : Nat) (s : State) : Res :=
  .next (mgmt 0x0E false fn s fun s =>
    if (findQueue s fn.part q).isNone then .badArg else .ok (requestPreempt (fun d => d.part = fn.part && d.queue = q) s))

/-- The bytes that were written under a key that is destroyed hold values that nothing fixes (R374, log 3). -/
def loseLines (gen : Nat) (s : State) : State :=
  ((s.byteGen.filter fun p => p.2.toNat = gen).map (·.1)).foldl (fun s o =>
    { s with mem := mset s.mem o (Config.freeByte s.fresh), fresh := s.fresh + 1 }) s

/-- The key of a slot is destroyed, and the leaves that the caches hold of it are dropped: a walk finds the slot's later key, or the leaf malformed
(R284, R287, R374). -/
def clearKey (key : Nat) (s : State) : State :=
  match s.keys.find? fun k => k.num = key with
  | some k => loseLines k.gen { s with keys := s.keys.filter fun x => x.num ≠ key, tlb := s.tlb.filter fun e => e.gen ≠ k.gen }
  | none => s

/-- KEYSET (R374). -/
def execKeyset (fn : Fn) (key : Nat) (s : State) : Res :=
  .next (mgmt 0x0F true fn s fun s =>
    if key = 0 || 511 < key then .badArg
    else let s := clearKey key s; .ok { s with keys := s.keys ++ [⟨key, s.nextKey⟩], nextKey := s.nextKey + 1 })

/-- KEYCLR (R374). -/
def execKeyclr (fn : Fn) (key : Nat) (s : State) : Res :=
  .next (mgmt 0x10 true fn s fun s => if key = 0 || 511 < key then .badArg else .ok (clearKey key s))

/-- Whether a launch runs. -/
def anyLaunch (s : State) : Bool := (allGrids s).any fun d => !d.ended

/-- The TIME record that a change of power state leaves on every traced spindle (R393). -/
def stampTraces (s : State) : State :=
  (s.dbg.filter fun d => d.tren).foldl (fun s d => stage d.spindle 62 (fun _ => timeRec s d.spindle) s) s

/-- POWER (R379, R380). -/
def execPower (fn : Fn) (state warn : Nat) (s : State) : Res :=
  .next (mgmt 0x11 true fn s fun s =>
    if 4 < state || 2 ^ 16 ≤ warn then .badArg
    else if 3 ≤ state && (anyLaunch s || !s.packets.isEmpty) then .busy
    else
      let s := if state = s.pstate then s else stampTraces s
      .ok (hankAdd 0x60 0 0xFF 0xF (BitVec.ofNat 64 state) 0 { s with pstate := state, warnTemp := warn }))

/-- The reason for which an image is refused (R376), with its version, svn and body hash where it is not. -/
def checkImage (fuse : Nat) (bs : List Byte) : Nat ⊕ (Word × Word × List Byte) :=
  let body := (bs.drop 184).take (fld bs 16 8)
  if fld bs 0 8 ≠ 0x395857464C45504F then .inl 1
  else if !Config.keyHashes.contains (sha512 ((bs.drop 88).take 32)) then .inl 2
  else if !edVerifies ((bs.drop 88).take 32) ((bs.drop 120).take 64) (bs.take 120) then .inl 3
  else if body.length ≠ fld bs 16 8 || sha512 body ≠ BitVec.ofNat 512 (fld bs 24 64) then .inl 4
  else if fld bs 12 4 < fuse then .inl 5
  else .inr (BitVec.ofNat 32 (fld bs 8 4), BitVec.ofNat 32 (fld bs 12 4), toBytes (fld bs 24 64) 64)

/-- The write of the boot region has completed (R377). -/
def bootWritten (x : Word × Word × List Byte) (commit : Bool) (s : State) : State :=
  let fw := s.firmware
  let fuse := if commit && fw.fuse.ult x.2.1 then x.2.1 else fw.fuse
  hankAdd 0x32 0 0xFF 0xF (x.1.setWidth 64) (BitVec.ofNat 64 (bitOf commit))
    { s with firmware := { fw with next := some x, fuse, writing := none, broken := false } }

/-- Whether a function's next command is FWLOAD and its image is good, with what it is: the write of the boot region begins (R376, R377). -/
def fwStarts (fn : Fn) (addr : DWord) (len : Nat) (s : State) : Option (Word × Word × List Byte) :=
  match nextCmd s fn, busRead s fn.part addr len with
  | some a, some bs =>
    if busRead s fn.part a 1 = some [0x12] && fn.part = 0 && !anyLaunch s && s.firmware.writing.isNone && s.pstate != 4 then
      (match checkImage s.firmware.fuse.toNat bs with
      | .inr x => some x
      | .inl _ => none)
    else none
  | _, _ => none

/-- FWLOAD (R375-R377): once the image has been checked, the write of the boot region begins; the command ends with the step that completes it. A
reset between the two interrupts the write (log 36). While a launch runs it is BUSY, whatever the image. One that comes while a write is under way ends as BUSY, its image unchecked: the choice of this
model, log 41. -/
def execFwload (fn : Fn) (addr : DWord) (len : Nat) (commit : Bool) (s : State) : Res :=
  .next (match fwStarts fn addr len s with
    | some x => { s with firmware := { s.firmware with writing := some (fn, x, commit) } }
    | none => mgmt 0x12 true fn s fun s =>
      match s.firmware.writing with
      | some (by_, x, commit) => if by_ = fn then .ok (bootWritten x commit s) else .busy
      | none =>
        if anyLaunch s then .busy else match busRead s fn.part addr len with
        | none => .unread (busNote fn.part addr len s)
        | some bs => (match checkImage s.firmware.fuse.toNat bs with
          | .inl _ => .badArg
          | .inr _ => .busy))

/-- The keys that the leaves of a stage-2 table of level `lv` name, among the entries that memory lists (R283, R378). -/
def leafKeys (s : State) : (lv th tp : Nat) → List Nat
  | lv, th, tp =>
    let base := homeKey th tp
    let es := ((s.mem.filter fun c => decide (base ≤ c.1) && decide (c.1 < base + (if lv = 4 then 128 else 4096))).map fun c => (c.1 - base) / 8).eraseDups
    es.flatMap fun i =>
      let e : DWord := BitVec.ofNat 64 (rdNat s (physLoc th (tp + i * 8)) 8)
      if !tbit e 0 then []
      else if tbit e 3 then [fieldN e 52 9]
      else match lv with
        | 0 => []
        | lv + 1 => leafKeys s lv (fieldN e 52 4) (fieldN e 12 40 * 4096)

/-- The key indices of a partition: those that its stage-2 leaves name; key 0 is the PF's (R280, R378). -/
def partKeys (s : State) (part : Nat) : List Nat :=
  if part = 0 then [0] else ((s.s2roots.filter fun r => r.part = part).flatMap fun r => leafKeys s 4 r.rootHome r.rootPa).eraseDups

/-- The numbers of a partition's configuration (R378): its quotas, its stage-2 roots, its cluster mask, its key indices. -/
def configNums (s : State) (part : Nat) : List Nat :=
  let p := partOf s part
  (p.hbmQuota.map fun x => x.1 * 2 ^ 64 + x.2.toNat) ++ (p.cellQuota.map fun x => x.1 * 2 ^ 64 + x.2.toNat) ++
    [p.tagQuota, p.queueQuota, p.creelQuota, p.slice, p.treeQuota, p.drives.toNat] ++
    ((s.s2roots.filter fun r => r.part = part).flatMap fun r => [r.home, r.rootHome, r.rootPa]) ++ [p.clusters.toNat] ++ partKeys s part

/-- The report without its signature (R378). -/
def reportBody (s : State) (part : Nat) (nonce : List Byte) : List Byte :=
  nonce ++ toBytes (sha512 Config.hubRom).toNat 64 ++ s.firmware.bodyHash ++ toBytes (sha512 (Config.configBytes (configNums s part))).toNat 64 ++
    toBytes s.firmware.version.toNat 4 ++ toBytes s.firmware.fuse.toNat 4 ++ toBytes part 2 ++ toBytes 0 6 ++ toBytes s.now 8 ++ toBytes 0 8

/-- The signature by the device's identity key (R378). -/
def attestSig (b : List Byte) : List Byte := edSign (toBytes Config.identityKey.toNat 32) b

/-- ATTEST (R378): the certificate chain follows the report (log 17). -/
def execAttest (fn : Fn) (nonce report : DWord) (cert : Bool) (s : State) : Res :=
  .next (mgmt 0x13 false fn s fun s =>
    match busRead s fn.part nonce 32 with
    | none => .unread (busNote fn.part nonce 32 s)
    | some n =>
      let b := reportBody s fn.part n
      let out := b ++ attestSig b ++ if cert then Config.certificate else []
      if !busOk s fn.part report out.length then .unread (noteWay fn.part report out.length s) else .ok (busWrite fn.part report out s))

/-- Whether a drive command is one of those that passthrough refuses (R372): of the admin commands, Delete and Create I/O Submission Queue, Delete and
Create I/O Completion Queue, Format NVM; the same opcodes of an I/O command are others (log 17). -/
def deniedPass (admin : Bool) (op : Nat) : Bool := admin && (op = 0x00 || op = 0x01 || op = 0x04 || op = 0x05 || op = 0x80)

/-- NVMEPASS (R371, R372), of an admin or an I/O command; a completion address that does not lead to memory is BADARG, behind DENIED (log 17). -/
def execNvmepass (fn : Fn) (drive : PassQueue) (cmd cpl : DWord) (s : State) : Res :=
  .next (mgmt 0x14 true fn s fun s =>
    match busRead s fn.part cmd 64 with
    | none => .unread (busNote fn.part cmd 64 s)
    | some bs =>
      if deniedPass drive.admin (fld bs 0 1) then .denied
      else if 31 < drive.drive then .badArg
      else if !busOk s fn.part cpl 16 then .unread (noteWay fn.part cpl 16 s)
      else .ok { s with passing := s.passing ++ [⟨drive.drive, cpl, bs⟩] })

/-- NVMEPASS_COMPLETION (R372, R379): the 16 bytes of the completion entry. -/
def execNvmepassCompletion (drive : Nat) (entry : List Byte) (s : State) : Res :=
  .next (if dark s then s else match s.passing.find? fun p => p.drive = drive with
    | some p => if entry.length = 16 then busWrite 0 p.cpl entry { s with passing := s.passing.erase p } else s
    | none => s)

/-- RINGBIND (R230, R352, R360). -/
def execRingbind (fn : Fn) (ring part : Nat) (asid : BitVec 16) (va : DWord) (log2 : Nat) (logical : Bool) (s : State) : Res :=
  .next (mgmt 0x15 true fn s fun s =>
    if 255 < ring || 64 < part || log2 < 4 || 12 < log2 || va.toNat % 64 != 0 || 8 < va.toNat / 2 ^ 53 || !hasAsid s part asid then .badArg
    else if (findRing s ring).isSome then .busy
    else .ok { s with rings := s.rings ++ [⟨ring, part, asid, va, log2, logical, 0, [], []⟩] })

/-- RINGFREE (R350, R360). -/
def execRingfree (fn : Fn) (ring : Nat) (s : State) : Res :=
  .next (mgmt 0x16 true fn s fun s =>
    match findRing s ring with
    | none => .badArg
    | some r =>
      if r.waiters.any (inOrecv s) then .busy
      else .ok (r.entries.foldl (fun s _ => dropUnboundMsg s) { s with rings := s.rings.filter fun x => x.num ≠ ring }))

/-- IMPORT (R340). -/
def execImportBind (fn : Fn) (srcDev srcPart part : Nat) (asid : BitVec 16) (s : State) : Res :=
  .next (mgmt 0x17 true fn s fun s =>
    if 255 < srcDev || 64 < srcPart || 64 < part || !hasAsid s part asid then .badArg
    else .ok { s with imports := s.imports.filter (fun i => ¬ (i.srcDev = srcDev ∧ i.srcPart = srcPart)) ++ [⟨srcDev, srcPart, part, asid⟩] })

/-- IMPORT with the remove flag (R360). -/
def execImportRemove (fn : Fn) (srcDev srcPart : Nat) (s : State) : Res :=
  .next (mgmt 0x17 true fn s fun s =>
    if 255 < srcDev || 64 < srcPart then .badArg
    else .ok { s with imports := s.imports.filter fun i => ¬ (i.srcDev = srcDev ∧ i.srcPart = srcPart) })

/-- NVMETO (R308, R360). -/
def execNvmeto (fn : Fn) (drive ms : Nat) (s : State) : Res :=
  .next (mgmt 0x18 true fn s fun s =>
    if 31 < drive || ms < 1 || 60000 < ms then .badArg else .ok { s with nvmeMs := mset s.nvmeMs drive (BitVec.ofNat 64 ms) })

end Sys2Proof.Machine
end

