-- ==== Sys2Proof/Machine/FabEvents.lean ====
section
/-! DEFINITION. What the fabric, the peers and the host do (R337-R353, R340, R356, R358): arrivals, deliveries, beacons, port states, pauses,
links, accesses from outside. -/

namespace Sys2Proof.Machine

/-- A message counts as late on its port (R347, R350). -/
def lateMsg (port : Nat) (s : State) : State := updPort port (fun p => { p with late := min (p.late + 1) (2 ^ 32 - 1) }) s

/-- The port takes a watermark of a class. -/
def takeMark (port : Nat) (logical : Bool) (v : Nat) (s : State) : State :=
  updPort port (fun p => if logical then { p with lw := v } else { p with w := v }) s

/-- Whether some port is LIVE. -/
def anyLive (s : State) : Bool := s.ports.any fun p => p.st = .live

/-- A message of the ordered or the logical class that has been accepted: held for delivery here, or in the merge of the output that its
destination's route names. One whose stamp lies below the watermark that the output has carried can not be sent (R344) and is discarded
(R339, R345, R346, log 15). -/
def acceptMsg (port : Nat) (m : Msg) (s : State) : State :=
  if m.dst = s.devId then { s with holdBuf := s.holdBuf ++ [⟨port, m, none⟩] }
  else match nextHop s m.dst port with
  | some out =>
    let p := portOf s out
    if m.stamp < (if msgLogical m then p.outLW else p.outW) then lateMsg port s
    else pump { s with outBuf := s.outBuf ++ [⟨port, out, m, none⟩] }
  | none => s

/-- FABRIC_MESSAGE_ARRIVAL (R347); none arrives while the hold buffer is full, which pauses the two classes on every port (R338). -/
def execFabricMessageArrival (port : Nat) (m : Msg) (s : State) : Res :=
  .next (
    let p := portOf s port
    let lg := msgLogical m
    let v := m.stamp
    if dark s || 16 ≤ port || m.cls = .unordered || !p.link || pausesIn s then s
    else match p.st with
    | .fenced => lateMsg port s
    | .joining =>
      let w := if lg then p.w else v
      if deliveryMark s false ≤ w || !anyLive s then acceptMsg port m (updPort port (fun p => { p with st := .live }) (takeMark port lg v s))
      else if v < deliveryMark s lg then lateMsg port s
      else acceptMsg port m (takeMark port lg v s)
    | .live => if p.mark lg ≤ v then acceptMsg port m (takeMark port lg v s) else lateMsg port s
    | .stalled => if p.mark lg ≤ v then acceptMsg port m (takeMark port lg v s) else s)

/-- BEACON_ARRIVAL (R344, R347): the watermarks of both classes. -/
def execBeaconArrival (port w lw : Nat) (s : State) : Res :=
  .next (
    let p := portOf s port
    let taken := fun s => pump (takeMark port true lw (takeMark port false w s))
    if dark s || 16 ≤ port || !p.link then s
    else match p.st with
    | .fenced => s
    | .joining => if deliveryMark s false ≤ w || !anyLive s then taken (updPort port (fun p => { p with st := .live }) s) else s
    | .live => if p.w ≤ w && p.lw ≤ lw then taken s else lateMsg port s
    | .stalled => if p.w ≤ w && p.lw ≤ lw then taken s else s)

/-- UNORDERED_ARRIVAL (R230, R337-R339): into its ring, or on to the device it is for, by a live route that is not paused where there is one. -/
def execUnorderedArrival (port : Nat) (m : Msg) (s : State) : Res :=
  .next (
    if dark s || 16 ≤ port || m.cls != .unordered || !(portOf s port).link then s
    else if m.dst = s.devId then ringPut m s
    else
      let outs := (liveRoutes s m.dst).filter fun p => p != port
      match (outs.find? fun p => !(portOf s p).pausedOut.contains .unordered).or outs.head? with
      | some out => sendPlain port out m none s
      | none => s)

/-- Whether a held message of a class may be delivered (R346). -/
def deliverable (s : State) (logical : Bool) : Bool :=
  !ordStalled s && (match headHeld s logical with | some h => decide (h.msg.stamp < deliveryMark s logical) | none => false)

/-- ORDERED_DELIVERY (R346, R352, R379). -/
def execOrderedDelivery (s : State) : Res :=
  .next (if dark s then s else if deliverable s false then deliverOne false s else deliverOne true s)

/-- 200 ns of pod time (R345). -/
def beaconIdle : Nat := 400

/-- BEACON_TIMER (R344, R345): for 200 ns the link has carried no watermark of one of the two classes. A watermark on a link never
decreases. -/
def execBeaconTimer (port : Nat) (s : State) : Res :=
  .next (
    let p := portOf s port
    if dark s || 16 ≤ port || !p.link || (s.now < p.outSince + beaconIdle && s.now < p.outLSince + beaconIdle) then s
    else
      let w := max p.outW (outMark s port false)
      let lw := max p.outLW (outMark s port true)
      updPort port (fun p => { p with outW := w, outLW := lw, outSince := s.now, outLSince := s.now }) { s with egress := s.egress ++ [.beacon port w lw] })

/-- A beacon of pod time leaves on every trained link (R341, log 16). -/
def sendTime (s : State) : State :=
  { s with egress := s.egress ++ ((List.range 16).filter fun p => (portOf s p).link).map fun p => .time p s.now }

/-- TIME_BEACON (R341): the master sends its pod time on its links each microsecond; another device takes the master's count when it joins
the domain, and never goes backward; later it steers toward it, and it passes its own count on. The master itself leaves SYNC 0, and nothing
short of a reset clears it: the choice of this model (log 16). -/
def execTimeBeacon (time : DWord) (s : State) : Res :=
  .next (
    if dark s then s
    else if s.tmaster then
      if s.now % 2000 != 0 then s else sendTime s
    else if s.synced then sendTime { s with steer := (time.toNat : Int) - s.now }
    else sendTime { s with now := max s.now time.toNat, synced := true, steer := 0 })

/-- The stall time in pod time (R350). -/
def stallTime (s : State) : Nat := usTime s.stallUs

/-- PORT_STALL (R347-R349, R367, R409). -/
def execPortStall (port : Nat) (s : State) : Res :=
  .next (
    let p := portOf s port
    if !dark s && p.st = .live && p.w + stallTime s < s.now then
      hankAdd 0x21 2 0xFF 0xF (BitVec.ofNat 64 port) (BitVec.ofNat 64 p.w)
        (postDevice 0x02 port (BitVec.ofNat 64 p.w) 2 (updPort port (fun p => { p with st := .stalled }) s))
    else s)

/-- PAUSE (R338, R379): the far end pauses a class of a link, or lets it go on. -/
def execPause (port : Nat) (c : PauseClass) (on : Bool) (s : State) : Res :=
  .next (
    if dark s || 16 ≤ port then s
    else pump (updPort port (fun p =>
      let others := p.pausedOut.filter fun x => x ≠ c
      { p with pausedOut := if on then others ++ [c] else others }) s))

/-- The ADMIT command of a port (R347). -/
def admitPort (port : Nat) (s : State) : State :=
  if (portOf s port).st = .fenced then updPort port (fun p => { p with st := .joining, w := 0, lw := 0 }) s else s

/-- ADMIT (R347, R379). -/
def execPortAdmit (port : Nat) (s : State) : Res := .next (if dark s then s else admitPort port s)

/-- The FENCE command of a port (R347): messages that are held stay held. -/
def fencePort (port : Nat) (s : State) : State :=
  if (portOf s port).st = .fenced then s else pump (updPort port (fun p => { p with st := .fenced }) s)

/-- PORT_FENCE (R347, R379). -/
def execPortFence (port : Nat) (s : State) : Res := .next (if dark s then s else fencePort port s)

/-- A write of FABDROP (R4, R350). -/
def clearDrops (v : DWord) (s : State) : State :=
  { s with dropKind := s.dropKind &&& ~~~(v.extractLsb' 32 32), dropUnbound := s.dropUnbound &&& ~~~(v.extractLsb' 0 32) }

/-- FABDROP_CLEAR (R4, R350, R379). -/
def execFabdropClear (v : DWord) (s : State) : Res := .next (if dark s then s else clearDrops v s)

/-- The number of a link in the hank (R409). -/
def linkNum : Link → Nat
  | .port n => n
  | .host n => 0x20 + n
  | .root n => 0x30 + n

/-- The messages that wait for a port whose link has failed take the lowest other live route; an ordered or logical one that this output's
watermark has passed, like one without another route, waits until the link trains again (R339, R344, log 14). -/
def reroute (port : Nat) (s : State) : State :=
  { s with outBuf := s.outBuf.map fun x =>
      if x.out != port then x
      else match nextHop s x.msg.dst x.input with
      | some out =>
        let p := portOf s out
        if x.msg.cls != .unordered && decide (x.msg.stamp < (if msgLogical x.msg then p.outLW else p.outW)) then x else { x with out }
      | none => x }

/-- LINKDOWN (R347, R367, R379, R409): the port's state stays as it is; the host learns of ports and root ports (log 18). -/
def execLinkdown (l : Link) (s : State) : Res :=
  .next (if dark s then s else
    let note := hankAdd 0x20 2 0xFF 0xF (BitVec.ofNat 64 (linkNum l)) 0
    match l with
    | .port n =>
      if (portOf s n).link then note (postDevice 0x04 n 0 0 (pump (reroute n (updPort n (fun p => { p with link := false }) s)))) else s
    | .root n => if s.linkDown.contains l || 2 ≤ n then s else note (postDevice 0x04 n 0 0 { s with linkDown := s.linkDown ++ [l] })
    | .host n => if s.linkDown.contains l || 2 ≤ n then s else note { s with linkDown := s.linkDown ++ [l] })

/-- LINK_TRAINED (R339, R350, R379). What has waited for the link can be sent. -/
def execLinkTrained (port peerDev peerPort : Nat) (s : State) : Res :=
  .next (if dark s then s else pump (updPort port (fun p => if p.link then p else { p with link := true, peerDev, peerPort, outSince := s.now, outLSince := s.now }) s))

/-- The atomic that an outside agent asks for. -/
def amoOfExt : ExtAmo → AmoOp
  | .fetchAdd => .add
  | .swap => .xchg
  | .cas => .cas
  | .min => .min
  | .max => .max
  | .minu => .minu
  | .maxu => .maxu
  | .and => .and
  | .or => .or
  | .xor => .xor
  | .fadd => .fadd
  | .fmin => .fmin
  | .fmax => .fmax

/-- The bytes that an access from outside covers, with what it needs: reading, writing. -/
def extShape : ExtAccess → Nat × Bool × Bool
  | .read n => (n, true, false)
  | .write bs => (bs.length, false, true)
  | .amo _ n _ _ => (n, true, true)
  | .cas128 => (16, true, true)

/-- How the translation of an outside access ends: the places of its runs, or the fault of the first that fails. -/
inductive ExtRes where
  | ok (ls : List (Loc × Nat))
  | fault (cause : BitVec 8) (va : DWord) (r : Option FaultRec) (info : Option FaultRec) (ecc : Option EccAt)
deriving DecidableEq, Repr

/-- Translates the runs of an access from outside. -/
def extPlaces (s : State) (e : Env) (amo rd wr : Bool) : List (DWord × Nat) → ExtRes
  | [] => .ok []
  | x :: xs =>
    if x.1.toNat / 2 ^ 53 = 15 then .fault 0x11 x.1 none none none
    else if amo && x.1.toNat % x.2 != 0 then .fault 0x03 x.1 none none none
    else match access s e (if amo then .amo else .ls) x.1 x.2 rd wr false with
    | .ok l _ _ => (match extPlaces s e amo rd wr xs with
      | .ok ls => .ok ((l, x.2) :: ls)
      | r => r)
    | .park r => .fault r.cause x.1 (some r) none none
    | .fault c v info ecc => .fault c v none info ecc
    | .uncorr => .fault 0x30 x.1 none none none

/-- Performs an access from outside at its places, and answers it (R152, R340, R358). -/
def extPerform (acc : ExtAccess) (ls : List (Loc × Nat)) (s : State) : State × Reply :=
  match acc, ls with
  | .read _, _ => (s, .data (ls.flatMap fun p => rdBytes s p.1 p.2))
  | .write bs, _ => ((ls.foldl (fun (q : State × List Byte) p => (wrBytes p.1 (q.2.take p.2) q.1, q.2.drop p.2)) (s, bs)).1, .done)
  | .amo op 4 x y, [(l, _)] =>
    let old : Word := BitVec.ofNat 32 (rdNat s l 4)
    (wrBytes l (toBytes (amoVal (amoOfExt op) old (x.extractLsb' 0 32) (y.extractLsb' 0 32)).toNat 4) s, .data (toBytes old.toNat 4))
  | .amo op _ x y, [(l, _)] =>
    let old : DWord := BitVec.ofNat 64 (rdNat s l 8)
    (wrBytes l (toBytes (amoInt (amoOfExt op) old x y).toNat 8) s, .data (toBytes old.toNat 8))
  | _, _ => (s, .ur)

/-- Answers an outside access. -/
def reply (r : Reply) (s : State) : State := { s with replies := s.replies ++ [r] }

/-- Whether an atomic from outside has an operand width that exists. -/
def extWidthOk : ExtAccess → Bool
  | .amo op n _ _ => n = 4 || (n = 8 && !(op = .fadd || op = .fmin || op = .fmax))
  | .cas128 => false
  | _ => true

/-- The address space of an outside access as one that accesses. -/
def extEnv (part : Nat) (asid : BitVec 16) (hub : Nat) : Env := ⟨⟨0, 0, 0⟩, .initial, { Grid.initial with part, asid, hub }, 0, []⟩

/-- PEER_REQUEST (R340): translated in the import address space of the source, and performed here once; a miss waits in the importing
partition's queue, and its answer releases the requester, which asks again. Nothing is served while the replies are paused (R338). -/
def execPeerRequest (srcDev srcPart phome off : Nat) (acc : ExtAccess) (s : State) : Res :=
  .next (
    if dark s || repliesPaused s srcDev then s
    else if 8 < phome then reply (.fault 0x11) s
    else if !extWidthOk acc || 2 ^ 41 ≤ off then reply .ur s
    else match s.imports.find? fun i => i.srcDev = srcDev ∧ i.srcPart = srcPart with
    | none => reply (.fault 0x12) s
    | some i =>
      let sh := extShape acc
      let amo := match acc with | .amo _ _ _ _ => true | _ => false
      let va : DWord := BitVec.ofNat 64 (phome * 2 ^ 53 + off)
      match extPlaces s (extEnv i.part i.asid 0) amo sh.2.1 sh.2.2 (if amo then [(va, sh.1)] else pieceRuns va sh.1) with
      | .ok ls => let q := extPerform acc ls s; reply q.2 q.1
      | .fault c v (some r) _ _ =>
        let q := report r s
        reply (.fault c) { q.1 with peerWaits := q.1.peerWaits ++ [⟨q.2, srcDev, v, none⟩] }
      | .fault c _ none info ecc => reply (.fault c) (reportInfo i.part info ecc s))

/-- The record of a host access that faults, with what the walk found where it gives a record (R288): in the function's own queue, and it
takes no response (R358). -/
def hostRecord (part : Nat) (asid : BitVec 16) (c : BitVec 8) (va : DWord) (r : Option FaultRec) (wr atom : Bool) : FaultRec :=
  match r with
  | some r => { r with queuePart := part, permv := true }
  | none => recProto part part asid c va 0 (va.toNat / 4096) 0 false wr atom false true 0

/-- Whether the host may send an atomic through BAR 2 (R354, R358). -/
def hostAmo : ExtAccess → Bool
  | .amo op n _ _ => (n = 4 || n = 8) && (op = .fetchAdd || op = .swap || op = .cas)
  | .cas128 => false
  | _ => true

/-- BAR2_ACCESS (R358). -/
def execBar2Access (fn : Fn) (off : Nat) (acc : ExtAccess) (s : State) : Res :=
  .next (
    let sh := extShape acc
    match (fnOf s fn).bar2 with
    | none => reply .ur s
    | some (asid, base) =>
      if dark s || 2 ^ 36 < off + sh.1 || !hostAmo acc then reply .ur s
      else
        let amo := match acc with | .amo _ _ _ _ => true | _ => false
        let va := base + BitVec.ofNat 64 off
        match extPlaces s (extEnv fn.part asid fn.hub) amo sh.2.1 sh.2.2 (if amo then [(va, sh.1)] else pieceRuns va sh.1) with
        | .ok ls => let q := extPerform acc ls s; reply q.2 q.1
        | .fault c v r info ecc => reply .ur (reportInfo fn.part info ecc (report (hostRecord fn.part asid c v (r.or info) sh.2.2 amo) s).1))

/-- Whether a run of an access through the CXL.mem window lies in it, and the window in board memory (R356). -/
def inWindow (s : State) (off n : Nat) : Bool := decide (off + n ≤ s.cxlSize) && decide (s.cxlBase + s.cxlSize ≤ homeSize 8)

/-- CXL_MEM_ACCESS (R356): a read or a write of a byte range of board memory; the protocol carries no atomics. An uncorrectable error returns no data
(R257). -/
def execCxlMemAccess (off : Nat) (acc : ExtAccess) (s : State) : Res :=
  .next (if dark s then reply .ur s else match acc with
    | .read n =>
      let l := physLoc 8 (s.cxlBase + off)
      if !inWindow s off n then reply .ur s
      else if hasEcc s l n then reply (.fault 0x70) (hankEcc 0 l s)
      else reply (.data (rdBytes s l n)) s
    | .write bs => if inWindow s off bs.length then reply .done (wrBytes (physLoc 8 (s.cxlBase + off)) bs s) else reply .ur s
    | _ => reply .ur s)

end Sys2Proof.Machine
end

