-- ==== Sys2Proof/Machine/DbgEvents.lean ====
section
/-! DEFINITION. The debugger's commands (R389-R400), trace writing (R394, R395), the core dump (R402-R406, R411-R414), the hank's mirror (R407). -/

namespace Sys2Proof.Machine

/-- The group in the group slot that GSEL selects (R394, R399). -/
def selected (s : State) (spindle : Nat) : Option Group :=
  (residentOn s spindle).find? fun g => groupSlot g = (dbgOf s spindle).gsel.toNat

/-- GCMD STOP on the selected group (R396, R399, R401): a group inside an instruction stops behind it. -/
def stopSelected (spindle : Nat) (s : State) : State :=
  match selected s spindle with | some g => stopGroup g.key 5 s | none => s

/-- An access of the host to the debug window: none in P4 (R379, R386). -/
def debugWrite (f : State → State) (s : State) : State := if dark s then s else f s

/-- GCMD_STOP (R399). -/
def execGcmdStop (spindle : Nat) (s : State) : Res := .next (debugWrite (stopSelected spindle) s)

/-- The special registers that the window may write (R35, R400). -/
def windowSpecial (n : Nat) : Bool := n = 11 || n = 12 || n = 13 || n = 14 || (20 ≤ n && n ≤ 26)

/-- Mask `n` as the window writes it; LIVE follows R24. -/
def windowMask (n : Nat) (v : Word) (g : Group) : Group := if n = 0 then clearLive true v g else setK n v g

/-- Word `i` of the allocation, counted as R405 lays it out. -/
def windowReg (i : Nat) (v : Word) (g : Group) : Group := if i < g.alloc * 512 then { g with vregs := mset g.vregs i v } else g

/-- One write of the group window, applied (R400, R405): of WPCTL it reaches EN alone, since HIT is no RW field (R41). -/
def applyWindow (k : GKey) (off : Nat) (v : DWord) (s : State) : State :=
  let f := fun h => updGroup k h s
  if off < 0x100 then
    let n := off / 8
    if !windowSpecial n then s
    else if n = 24 then asGroup k (fun s => storeTgroup v (onGrp (writeSpecial true n v) s)) s
    else if n = 26 then f fun g => { g with wpEn := v.extractLsb' 0 8 }
    else f (writeSpecial true n v)
  else if off = 0x100 then redirectGroup k v s
  else if 0x110 ≤ off && off < 0x130 then
    let n := (off - 0x110) / 4
    f fun g => windowMask (n + 1) (v.extractLsb' 32 32) (windowMask n (v.extractLsb' 0 32) g)
  else if 0x140 ≤ off && off < 0x540 then f (setS ((off - 0x140) / 8) v)
  else if 0x540 ≤ off then
    let i := (off - 0x540) / 4
    f fun g => windowReg (i + 1) (v.extractLsb' 32 32) (windowReg i (v.extractLsb' 0 32) g)
  else s

/-- A stopped group goes on: the window's writes take effect, and a breakpoint at its instruction does not match once; in a handler
the instruction that awaits its return keeps this (R398, R400). -/
def resumeGroup (step : Bool) (k : GKey) (s : State) : State :=
  let ws := s.windowWrites.filter fun w => w.key = k
  let s := ws.foldl (fun s w => applyWindow k w.off w.v s) { s with windowWrites := s.windowWrites.filter fun w => w.key ≠ k }
  updGroup k (fun g => { g with stopped := false, stepping := step, bpSkip := if g.priv then g.bpSkip else some g.pc }) s

/-- GCMD RESUME on the selected group, or on every stopped group of its team (R399). -/
def resumeSelected (spindle : Nat) (team : Bool) (s : State) : State :=
  match selected s spindle with
  | some g =>
    if !g.stopped then s
    else if team then ((groupsOf s (tkeyOf g.key)).filter fun x => x.stopped).foldl (fun s x => resumeGroup false x.key s) s
    else resumeGroup false g.key s
  | none => s

/-- GCMD_RESUME (R399). -/
def execGcmdResume (spindle : Nat) (team : Bool) (s : State) : Res := .next (debugWrite (resumeSelected spindle team) s)

/-- GCMD STEP on the selected group (R399). -/
def stepSelected (spindle : Nat) (s : State) : State :=
  match selected s spindle with | some g => if g.stopped then resumeGroup true g.key s else s | none => s

/-- GCMD_STEP (R399). -/
def execGcmdStep (spindle : Nat) (s : State) : Res := .next (debugWrite (stepSelected spindle) s)

/-- A write of PRCTL (R389): CLR zeroes the counters; FREEZE is stored. -/
def writePrctl (spindle : Nat) (clr freeze : Bool) (s : State) : State :=
  updDbg spindle (fun d => { d with counters := if clr then [] else d.counters, freeze }) s

/-- PRCTL_CLR (R389). -/
def execPrctlClr (spindle : Nat) (freeze : Bool) (s : State) : Res := .next (debugWrite (writePrctl spindle true freeze) s)

/-- A write of the group window: it reaches the group only while that is stopped (R386, R400). -/
def windowInto (spindle off : Nat) (v : DWord) (s : State) : State :=
  match selected s spindle with
  | some g => if g.stopped && off % 8 = 0 && off < 0x4540 then { s with windowWrites := s.windowWrites ++ [⟨g.key, off, v⟩] } else s
  | none => s

/-- GROUP_WINDOW_WRITE (R386, R400). -/
def execGroupWindowWrite (spindle off : Nat) (v : DWord) (s : State) : Res := .next (debugWrite (windowInto spindle off v) s)

/-- The groups of a spindle in the order of their group slots (R394). -/
def bySlot (s : State) (n : Nat) : List Group := (List.range 128).filterMap fun i => (residentOn s n).find? fun g => groupSlot g = i

/-- The launches that take trace slots when tracing starts, by the group slots of their groups (R391, R394). -/
def traceAll (n : Nat) (s : State) : State :=
  (bySlot s n).foldl (fun s g => match findGrid s g.key.launch with | some x => (takeTraceSlot n x s).1 | none => s) s

/-- Another partition is traced while tracing goes on: the launches of the first give their slots back, and those of the second that are on
the spindle take slots as if their groups were placed now (DESIGN CHOICE, log 41). -/
def traceOther (n : Nat) (s : State) : State :=
  (bySlot s n).foldl (fun s g => tracePlaced g.key s) (updDbg n (fun d => { d with slots := [], full := [] }) s)

/-- A write of DBGCTL (R390): TREN that rises resets TRWP and writes a sync set (R394); TREN that falls ends TRFULL. Records that are still staged when
TREN rises again, and the count of those that were dropped, stay and head the new ring (R395; where they go is the choice of this model, log 41). -/
def writeDbgctl (n : Nat) (v : DWord) (s : State) : State :=
  let d := dbgOf s n
  let s := updDbg n (fun d => Dbg.noteFull { d with ctl := v.extractLsb' 0 12 }) s
  if !d.tren && tbit v 7 then
    syncSetRecs n (traceAll n (updDbg n (fun d => { d with
      trwp := 0, trfull := false, slots := [], full := [], sinceSync := 0 }) s))
  else if d.tren && !tbit v 7 then updDbg n (fun d => { d with slots := [], full := [] }) s
  else if d.tren && v.toNat % 128 != d.part then traceOther n s
  else s

/-- TRACE_ENABLE (R390, R394). -/
def execTraceEnable (spindle : Nat) (ctl : DWord) (s : State) : Res := .next (debugWrite (writeDbgctl spindle ctl) s)

/-- SYNC_SET (R379, R394). -/
def execSyncSet (spindle : Nat) (s : State) : Res :=
  .next (let d := dbgOf s spindle
    if !dark s && d.tren && 4096 ≤ d.sinceSync then syncSetRecs spindle s else s)

/-- Where record `i` of a trace ring goes (R390, R395): board memory under key 0, or the host. A place past the board's memory (R1) is none
(DESIGN CHOICE, log 41). -/
def traceLoc (d : Dbg) (i : Nat) : Option Loc :=
  let home := if tbit d.trbase 0 then 10 else 8
  let a := fieldN d.trbase 12 40 * 4096 + 16 * (i % 2 ^ d.trsize)
  if a < homeSize home then some (physLoc home a) else none

/-- TRACE_RECORD_WRITE (R379, R395): without WRAP a full ring takes no record. -/
def execTraceRecordWrite (spindle : Nat) (s : State) : Res :=
  .next (let d := dbgOf s spindle
    match d.staged with
    | [] => s
    | r :: rest =>
      if dark s || d.ringFull then s
      else
        let s := updDbg spindle (fun d => Dbg.noteFull { d with staged := rest, trwp := d.trwp + 1, sinceSync := d.sinceSync + 1 }) s
        match traceLoc d d.trwp.toNat with
        | some l => wrBytes l (toBytes r.toNat 16) s
        | none => s)

/-- The status word of a group (R405): its reason and its set as the halt found them (R412), reason 0xFF for the one whose trap ended its team
(R411). -/
def statusWord (s : State) (faulter : Bool) (g : Group) : Nat :=
  let at_ := g.atHalt.getD (statusReason s g, g.set)
  let set := match at_.2 with | .active => 0 | .pending => 1 | .suspended => 2
  g.key.idx + set * 2 ^ 6 + bitOf g.park.isSome * 2 ^ 8 + bitOf (decide (g.wait = .latch)) * 2 ^ 9 + bitOf g.stopped * 2 ^ 10 + bitOf faulter * 2 ^ 11 +
    (if faulter then 0xFF else at_.1) * 2 ^ 16

/-- The special registers of the issuing group as a dump holds them: a parked group's EPC and TSTATUS are those of R295 (R405),
and TIME is pod time (R412). -/
def dumpSpecial (s : State) (n : Nat) : DWord :=
  let g := s.grp
  match g.park, n with
  | some _, 23 => g.pc
  | some p, 24 => tstatusBits p.mask g.tgroup true g.ppriv g.intrap
  | _, 19 => BitVec.ofNat 64 s.now
  | _, n => if n < 27 then specialVal s g g.tgroup n else 0

/-- The bytes of a file of a team as a dump holds them: an uncorrectable error never returns its data, and nothing fixes what stands in its
place (R257, log 3). `base` keeps the free values of two files apart. -/
def fileBytes (s : State) (sp : Space) (base : Nat) (kept : List Byte) : List Byte :=
  if s.ecc.any fun e => e.space = sp then
    ((List.range kept.length).zip kept).map fun p => if hasEcc s ⟨sp, p.1, 0⟩ 1 then Config.freeByte (s.fresh + base + p.1) else p.2
  else kept

/-- The body of a GROUP section (R405). -/
def groupBody (k : GKey) (faulter : Bool) (s : State) : List Byte :=
  let s := checkout k s
  let g := s.grp
  ((List.range 32).flatMap fun n => toBytes (dumpSpecial s n).toNat 8) ++ toBytes g.pc.toNat 8 ++ toBytes (statusWord s faulter g) 8 ++
    ((List.range 8).flatMap fun n => toBytes (getK g n).toNat 4) ++ toBytes 0 16 ++
    fileBytes s (.sfile k) (2 ^ 19 + k.idx * 2 ^ 15) ((List.range 128).flatMap fun n => toBytes (getS g n).toNat 8) ++
    fileBytes s (.vfile k) (2 ^ 19 + k.idx * 2 ^ 15 + 2 ^ 14) ((List.range (g.alloc * 512)).flatMap fun i => toBytes (mget g.vregs i).toNat 4)

/-- The mask of a list of indices. -/
def idxMask (l : List Nat) : Nat := maskOf (fun n => l.contains n) 32

/-- The latches that hold arrivals, by their lowest member (R405). -/
def latchOrder (t : Team) : List Latch :=
  sortBy (fun l => l.members.foldl min 32) (t.latches.filter fun l => !l.arrived.isEmpty)

/-- The body of the TEAM section (R405). -/
def teamBody (t : Team) : List Byte :=
  (t.barriers.flatMap fun b => toBytes b.phase.toNat 4 ++ toBytes b.need 1 ++ toBytes b.arrivals 1 ++ toBytes 0 2 ++ toBytes b.arrived.toNat 4 ++ toBytes 0 4) ++
    (t.tshape.flatMap fun x => toBytes x.toNat 8) ++ (t.tqueue.flatMap fun x => toBytes x.toNat 8) ++
    (t.queues.flatMap fun q => toBytes (q.allowance % 256 + q.entries.length % 256 * 2 ^ 8 + bitOf q.init * 2 ^ 16) 8) ++
    toBytes (latchOrder t).length 8 ++ toBytes 0 8 ++
    ((latchOrder t).flatMap fun l => toBytes (idxMask l.members) 4 ++ toBytes (idxMask l.arrived) 4 ++ toBytes l.word.toNat 4 ++ toBytes 0 4) ++
    (t.queues.filter fun q => q.init).flatMap fun q => q.entries.flatMap fun x => toBytes x.toNat 8

/-- A section: its header, its body, padded (R405). -/
def section_ (kind index : Nat) (body : List Byte) : List Byte :=
  toBytes (kind + index * 2 ^ 16) 8 ++ toBytes body.length 8 ++ body ++ List.replicate ((16 - body.length % 16) % 16) 0

/-- The groups that a dump holds: those that have not retired, in index order, with what they were about to do discarded (R405, R411). -/
def dumpGroups (s : State) (k : TKey) : List Group := sortBy (fun g => g.key.idx) (liveGroups s k)

/-- Whether an error lies in what the dump of a team reads: a file of the team, or the registers of a group that has not retired (R405). -/
def inDump (s : State) (t : Team) (e : Loc) : Bool :=
  match e.space with
  | .tile k => k = t.key && decide (e.off < t.tileWin * 4096)
  | .acc k => k = t.key && decide (e.off < t.accCount * 4096)
  | .scratch k => k = t.key && decide (e.off < t.scratchBytes)
  | .vfile k => (liveGroups s t.key).any fun g => g.key = k && decide (e.off < g.alloc * 2048)
  | .sfile k => (liveGroups s t.key).any fun g => g.key = k
  | _ => false

/-- The hank learns of the uncorrectable errors in the files that a dump reads (R257, R409), and the free values in their place are spent. -/
def noteFiles (t : Team) (part : Nat) (s : State) : State :=
  (s.ecc.filter (inDump s t)).foldl (fun s e => hankEcc part e s) { s with fresh := s.fresh + 2 ^ 21 }

/-- The sections of a dump (R403, R405), the state as it was captured: no counter counts an instruction that will not retire, and TIME is that
of the halt broadcast (R411, R412). -/
def dumpSections (s : State) (t : Team) (e : EndRec) : List (List Byte) :=
  let u := { updGroups (fun g => tkeyOf g.key = t.key) dropHeld s with now := e.time }
  ((dumpGroups s t.key).map fun g => section_ 1 g.key.idx (groupBody g.key (g.key.idx = e.group) u)) ++
    [section_ 2 0 (teamBody t), section_ 3 0 (fileBytes u (.tile t.key) 0 (mgets t.tiles 0 (t.tileWin * 4096))),
      section_ 4 0 (fileBytes u (.acc t.key) (2 ^ 17) ((mgets t.accs 0 (t.accCount * 1024)).flatMap fun x => toBytes x.toNat 4)),
      section_ 5 0 (fileBytes u (.scratch t.key) (2 ^ 18) (mgets t.scratch 0 t.scratchBytes)),
      section_ 0xFFFF 0 []]

/-- The dump header (R404). -/
def dumpHeader (d : Grid) (t : Team) (e : EndRec) (groups flags sections bytes : Nat) : List Byte :=
  toBytes 0x3130504D55444B53 8 ++ toBytes 1 2 ++ toBytes flags 2 ++ toBytes groups 1 ++ toBytes 0 1 ++ toBytes sections 2 ++ toBytes bytes 8 ++
    toBytes e.time 8 ++ toBytes t.key.team 4 ++ toBytes d.part 2 ++ toBytes d.queue 2 ++ toBytes e.group 1 ++ toBytes e.cause.toNat 1 ++ toBytes 0 2 ++
    toBytes t.pgidx.toNat 4 ++ toBytes e.tval.toNat 8 ++ toBytes e.epc.toNat 8

/-- How the writing of a dump stops (R406): the area's end, or a fault with its address. -/
inductive DumpStop where
  | full
  | fault (cause : BitVec 8) (va : DWord)
deriving DecidableEq, Repr

/-- One 64-byte unit of a dump (R413): a fault leaves no record in the fault queue; an uncorrectable error of a table entry goes into the hank
(R284). -/
def dumpWrite (e : Env) (va : DWord) (bs : List Byte) (s : State) : State × Option DumpStop :=
  let home := va.toNat / 2 ^ 53
  if !(home ≤ 8 || home = 10) then (s, some (.fault 0x11 va))
  else match access s e .copy va bs.length false true false with
  | .ok l _ _ => (wrBytes l bs s, none)
  | .fault c v _ ecc => (reportInfo e.grid.part none ecc s, some (.fault c v))
  | .park r => (s, some (.fault r.cause va))
  | .uncorr => (s, some (.fault 0x30 va))

/-- Writes units in ascending order up to the first that stops; the number is the offset of the first byte not written (R413). -/
def dumpUnits (e : Env) (base : DWord) (size : Nat) : List (List Byte) → Nat → State → State × Nat × Option DumpStop
  | [], off, s => (s, off, none)
  | u :: us, off, s =>
    if size < off + u.length then (s, off, some .full)
    else match dumpWrite e (base + BitVec.ofNat 64 off) u s with
    | (s, none) => dumpUnits e base size us (off + u.length) s
    | (s, x) => (s, off, x)

/-- The sections whose header lies before an offset (R413). -/
def sectionsBefore (off : Nat) : List (List Byte) → (at_ : Nat) → Nat
  | [], _ => 0
  | x :: xs, at_ => (if at_ + 16 ≤ off then 1 else 0) + sectionsBefore off xs (at_ + x.length)

/-- What a dump leaves in DMPST (R402, R406). -/
def dumpStatus (part bytes : Nat) (trunc nested : Bool) (s : State) : State :=
  updPart part (fun p => { p with
    dmpBytes := BitVec.ofNat 32 bytes
    dmpTrunc := trunc
    dmpNested := nested
    dmpTaken := if p.dmpTaken = 0xFFFF then p.dmpTaken else p.dmpTaken + 1 }) s

/-- A fault that ended a dump is posted to the partition's ring and the hank (R406). -/
def dumpNested (d : Grid) (die : Nat) (cause : BitVec 8) (va : DWord) (bytes : Nat) (s : State) : State :=
  let info : DWord := BitVec.ofNat 64 (cause.toNat + bytes * 2 ^ 8)
  hankAdd 0x50 2 (BitVec.ofNat 8 d.part) (BitVec.ofNat 4 die) va info (postEvent ⟨d.hub, d.part⟩ 0x7F d.queue d.part va info s)

/-- The writing of a dump with its end (R403, R406, R413, R414). -/
def writeDump (d : Grid) (t : Team) (e : EndRec) (s : State) : State :=
  let p := partOf s d.part
  let env : Env := ⟨⟨0, 0, 0⟩, .initial, { Grid.initial with part := d.part, asid := p.dmpAsid, hub := d.hub }, 0, []⟩
  let size := p.dmpSize.toNat
  if size < 64 then dumpStatus d.part 0 true false s
  else
    let secs := dumpSections s t e
    let n := (dumpGroups s t.key).length
    let s := noteFiles t d.part s
    let body := secs.flatten
    let units := dumpHeader d t e n 0 0 0 :: pieces 64 ((body.length + 63) / 64) body
    let r := dumpUnits env p.dmpVa size units 0 s
    let off := r.2.1
    let flags := match r.2.2 with | none => 1 | some .full => 2 | some (.fault _ _) => 6
    let h := dumpWrite env p.dmpVa (dumpHeader d t e n flags (sectionsBefore off secs 64) off) r.1
    let stop := match r.2.2, h.2 with
      | some (.fault c v), _ => some (c, v)
      | _, some (.fault c v) => some (c, v)
      | _, _ => none
    let s := match stop with
      | some (c, v) => dumpNested d (dieOf t.spindle) c v off h.1
      | none => h.1
    dumpStatus d.part off r.2.2.isSome stop.isSome s

/-- CORE_DUMP (R403, R414): behind the drain of the ended team, and ahead of its release. -/
def execCoreDump (t : TKey) (s : State) : Res :=
  .next (match findTeam s t, findGrid s t.launch with
    | some x, some d =>
      match x.endRec with
      | some e =>
        if x.phase = .ended && x.dumping && !teamBusy s t && !tierBusy s t then
          let s := writeDump d x e s
          endedRelease t (updGroups (fun g => tkeyOf g.key = t) (fun g => { g with park := none, stopped := false, haltedBy := [] })
            (updTeam t (fun x => { x with dumping := false, latches := [] }) s))
        else s
      | none => s
    | _, _ => s)

/-- HANK_MIRROR (R407). -/
def execHankMirror (s : State) : Res := .next (mirrorHank s)

end Sys2Proof.Machine
end

