-- ==== Sys2Proof/Machine/ResetEvents.lean ====
section
/-! DEFINITION. Heat, resets, the loss of power, and the registers that the host writes (R4, R350, R354, R356-R359, R370, R380-R382, R386,
R389, R390, R397-R400, R402, R410). -/

namespace Sys2Proof.Machine

/-- THERMWARN (R380, R367, R409): a die's junction has a temperature, in 1/16 °C; the warning is posted when it has risen through the
threshold, and while the hub is off it is not (R379). -/
def execThermwarn (die temp : Nat) (s : State) : Res :=
  .next (
    let was := (mget s.temp die).toNat
    let s' := { s with temp := mset s.temp die (BitVec.ofNat 16 temp) }
    if ¬ dark s ∧ s.warnTemp ≠ 0 ∧ was < s.warnTemp ∧ s.warnTemp ≤ temp then
      hankAdd 0x11 1 0xFF (BitVec.ofNat 4 die) (BitVec.ofNat 64 temp) (BitVec.ofNat 64 s.warnTemp)
        (postDevice 0x03 die (BitVec.ofNat 64 temp) (BitVec.ofNat 64 s.warnTemp) s')
    else s')

/-- What outlasts the loss of power (R407, R410): the hank as flash holds it, the firmware and its counters, flash tensor space, and what
is not the device's own: the memory of the host and of the peers. The rest is as reset leaves it. -/
def cold (s : State) : State :=
  { State.reset with
    agenda := s.agenda
    fresh := s.fresh
    now := s.now
    mem := s.mem.filter fun c => 9 * 2 ^ 53 ≤ c.1
    ecc := s.ecc.filter fun l => l.space = .phys ∧ 9 * 2 ^ 53 ≤ l.off
    poison := s.poison
    aborting := s.aborting
    peerFaults := s.peerFaults
    egress := s.egress
    replies := s.replies
    firmware := s.firmware
    hank := s.hankFlash
    hankFlash := s.hankFlash
    hankHead := s.hankHead
    boots := s.boots
    metaNs := s.metaNs
    nextKey := s.nextKey }

/-- 110 °C in units of 1/16 °C (R381). -/
def tripTemp : Nat := 1760

/-- THERMTRIP (R381, R407, R409): the record is written and the hank mirrored before the standby controller stops; the device stays off. -/
def execThermtrip (die temp : Nat) (s : State) : Res :=
  .next (
    if temp < tripTemp then s
    else
      let s := hankAdd 0x10 3 0xFF (BitVec.ofNat 4 die) (BitVec.ofNat 64 temp) 0 s
      { cold (mirrorHank s) with off := true, linkDown := s.linkDown ++ [.host 0, .host 1] })

/-- POWER_LOSS (R410): nothing runs before a fundamental reset. -/
def execPowerLoss (s : State) : Res := .next { cold s with off := true }

/-- The image that runs after a fundamental reset: the one that FWLOAD has written, if any, whose bytes FWLOAD has checked; below the fused counter it
is refused with reason 5. An interrupted write leaves an image that fails a check of R376, and nothing says which: the reason is one of 1 to 4
(R376, R377, log 3, log 36). -/
def bootImage (n : Nat) (f : Firmware) : Firmware :=
  if f.broken || f.writing.isSome then
    { f with next := none, writing := none, broken := true, recovery := some (1 + (Config.freeByte n &&& 3)) }
  else
    let g := match f.next with
      | some (version, svn, bodyHash) => { f with version, svn, bodyHash, next := none }
      | none => f
    { g with recovery := if g.svn.ult g.fuse then some 5 else none }

/-- FUNDAMENTAL_RESET (R376, R382, R409, R410), and the records it leaves in the hank. -/
def execFundamentalReset (s : State) : Res :=
  .next (
    let f := bootImage s.fresh s.firmware
    let s := hankAdd 0x70 1 0xFF 0xF 0 0 (nextFree { cold s with boots := s.boots + 1, firmware := f })
    match f.recovery with
    | some r => hankAdd 0x31 3 0xFF 0xF (r.setWidth 64) 0 s
    | none => hankAdd 0x30 0 0xFF 0xF (f.version.setWidth 64) (f.svn.setWidth 64) s)

/-- The teardown of a partition (R213, R272, R369, R370): its queues halt without an event record, its tags and tensors go, its fault records
are discarded, its function and its resources are as when the VF is enabled. A store that is still to be performed in one of its tags writes nothing
any more, since the cells are freed (R213). The reset of the PF interrupts a write of the boot region (R377). -/
def tearDown (part : Nat) (s : State) : State :=
  let s := haltWork part none s
  let gone := fun (l : Loc) => match l.space with | .ctx p _ => if p = part then { l with space := .void } else l | _ => l
  let movers := (s.tensors.filter fun t => t.part = part).flatMap fun t => t.movers
  finishMovers movers { s with
    ops := s.ops.map fun o => if o.kind.writes then { o with kind := o.kind.mapLoc gone } else o
    tags := s.tags.filter fun t => t.part ≠ part
    cells := s.cells.filter fun c => s.tags.all fun t => t.tag ≠ c.tag || t.part ≠ part
    tensors := s.tensors.filter fun t => t.part ≠ part
    records := s.records.filter fun r => r.queuePart ≠ part
    fns := s.fns.filter fun f => f.fn.part ≠ part
    halts := s.halts.filter fun h => h.part ≠ part
    parts := s.parts.map fun p => if p.id = part then p.cleared else p
    firmware := if part = 0 then s.firmware.interrupted else s.firmware }

/-- FUNCTION_LEVEL_RESET (R370, R409): of a VF, or of the PF, which tears down every partition. -/
def execFunctionLevelReset (part : Nat) (s : State) : Res :=
  .next (
    if 64 < part then s
    else
      let ps := if part = 0 then List.range 65 else [part]
      hankAdd 0x70 1 (BitVec.ofNat 8 part) 0xF 1 0 (ps.foldl (fun s p => tearDown p s) s))

/-- The stall time that FABCTL stores (R350). -/
def stallField (n : Nat) : Nat := if n = 0 then 1 else min n 10000

/-- A write in the fabric block of the PF (R350), at an offset from its base. -/
def writeFabric (off : Nat) (v : DWord) (s : State) : State :=
  if off = 0 then pump { s with stallUs := stallField (fieldN v 32 32), tmaster := tbit v 8, devId := fieldN v 0 8 }
  else if off = 8 then clearDrops v s
  else if 0x100 ≤ off ∧ off < 0x300 then
    let port := (off - 0x100) / 32
    if (off - 0x100) % 32 ≠ 0x10 then s
    else if fieldN v 0 2 = 1 then admitPort port s
    else if fieldN v 0 2 = 2 then fencePort port s
    else s
  else if 0x1000 ≤ off ∧ off < 0x1800 ∧ off % 8 = 0 then pump { s with routes := mset s.routes ((off - 0x1000) / 8) (v.extractLsb' 0 16) }
  else s

/-- A write in BAR 0 of a function (R359); QDB q reaches the queue that the function of its link has created (R300, R354). -/
def writeBar0 (fn : Fn) (off : Nat) (v : DWord) (s : State) : State :=
  if off = 0 then updFn fn (fun r => { r with mgBase := v &&& ~~~(63#64) }) s
  else if off = 8 then updFn fn (fun r => { r with mgSize := fieldN v 0 4 }) s
  else if off = 0x10 then updFn fn (fun r => { r with mgDb := v.extractLsb' 0 32 }) s
  else if 0x1000 ≤ off ∧ off < 0x1200 ∧ off % 8 = 0 then
    let q := (off - 0x1000) / 8
    { s with queues := s.queues.map fun c => if c.part = fn.part && c.q = q && c.hub = fn.hub then { c with wr := v.extractLsb' 0 32 } else c }
  else if fn.part = 0 ∧ 0x4000 ≤ off ∧ off < 0xC000 then writeFabric (off - 0x4000) v s
  else s

/-- The log2 of the records of a trace ring that TRSIZE stores (R390). -/
def trsizeField (n : Nat) : Nat := max 8 (min n 24)

/-- WPCFG as stored: sizes above 12 store 12, reserved bits 0 (R397). -/
def wpcfgField (v : DWord) : DWord :=
  let size := min (fieldN v 8 4) 12
  (v &&& 0x7F0036#64) ||| BitVec.ofNat 64 (size * 2 ^ 8)

/-- A write to the trace registers, which TREN locks (R390). -/
def writeTrace (n : Nat) (f : Dbg → Dbg) (s : State) : State := if (dbgOf s n).tren then s else updDbg n f s

/-- A write in the debug block of a spindle (R386, R389, R390, R397-R400). -/
def writeDbg (n off : Nat) (v : DWord) (s : State) : State :=
  if off = 0 then writeDbgctl n v s
  else if off = 0x10 then updDbg n (fun d => { d with gsel := v.extractLsb' 0 7 }) s
  else if off = 0x18 then
    if fieldN v 0 2 = 1 then stopSelected n s
    else if fieldN v 0 2 = 2 then resumeSelected n (tbit v 2) s
    else if fieldN v 0 2 = 3 then stepSelected n s
    else s
  else if off = 0x20 then writeTrace n (fun d => { d with trbase := v &&& 0xFFFFFFFFFF001#64 }) s
  else if off = 0x28 then writeTrace n (fun d => { d with trsize := trsizeField (fieldN v 0 5) }) s
  else if off = 0x38 then writeTrace n (fun d => { d with trq := v.extractLsb' 0 7 }) s
  else if off = 0x40 then writePrctl n (tbit v 0) (tbit v 1) s
  else if 0x80 ≤ off ∧ off < 0x100 ∧ off % 8 = 0 then
    let i := (off - 0x80) / 16
    if off % 16 = 0 then updDbg n (fun d => { d with wpaddr := mset d.wpaddr i (v &&& 0x1FFFFFFFFFFFFFF#64) }) s
    else updDbg n (fun d => { d with wpcfg := mset d.wpcfg i (wpcfgField v) }) s
  else if 0x100 ≤ off ∧ off < 0x140 ∧ off % 8 = 0 then
    let i := (off - 0x100) / 16
    if off % 16 = 0 then updDbg n (fun d => { d with bpaddr := mset d.bpaddr i (v &&& 0x1FFFFFFFFFFFFFC#64) }) s
    else updDbg n (fun d => { d with bpcfg := mset d.bpcfg i (v &&& 0x7F0001#64) }) s
  else if 0x8000 ≤ off then windowInto n (off - 0x8000) v s
  else s

/-- A write to the registers that arm a partition's dump (R402). -/
def writeDump4 (part off : Nat) (v : DWord) (s : State) : State :=
  if off = 0 then updPart part (fun p => { p with dmpAsid := v.extractLsb' 16 16, dmpEn := tbit v 0 }) s
  else if off = 8 then updPart part (fun p => { p with dmpVa := v &&& 0x1FFFFFFFFFFFFC0#64 }) s
  else if off = 16 then updPart part (fun p => { p with dmpSize := v }) s
  else s

/-- A write of `n` bytes in the debug window (R386): 8 aligned bytes, or UR. -/
def writeBar4 (off n : Nat) (v : DWord) (s : State) : State :=
  if off % 8 ≠ 0 ∨ n ≠ 8 then reply .ur s
  else if off < 576 * 0x10000 then writeDbg (off / 0x10000) (off % 0x10000) v s
  else if 0x03000100 ≤ off ∧ off < 0x03000100 + 65 * 32 then writeDump4 ((off - 0x03000100) / 32) ((off - 0x03000100) % 32) v s
  else s

/-- REGISTER_WRITE (R4, R350, R354, R356-R359, R386): a write to a register by the host. In P4 the PF's command ring alone is reached, which POWER
needs (R379, log 40). -/
def execRegisterWrite (r : HostReg) (v : DWord) (s : State) : Res :=
  .next (match r with
    | .bar0 fn off => if (fn.part ≠ 0 ∧ s.firmware.recovery.isSome) ∨ (s.pstate = 4 ∧ ¬ (fn.part = 0 ∧ off < 0x20)) then s else writeBar0 fn off v s
    | .bar4 off n => if s.pstate = 4 then reply .ur s else writeBar4 off n v s
    | .devCtl2 hub =>
      let others := s.atomicsOff.filter fun h => h ≠ hub
      { s with atomicsOff := if tbit v 6 then others else others ++ [hub], cto := mset s.cto hub (v.extractLsb' 0 5) }
    | .cxlMode hub =>
      let others := s.cxl.filter fun h => h ≠ hub
      { s with cxl := if v = 0 then others else others ++ [hub] }
    | .cxlBase => { s with cxlBase := v.toNat }
    | .cxlSize => { s with cxlSize := v.toNat })

end Sys2Proof.Machine
end

