-- ==== Sys2Proof/Machine/Scalar.lean ====
section
/-! DEFINITION. Scalar arithmetic, immediates, special-register moves and masks (R92-R97, R100, R101). -/

namespace Sys2Proof.Machine

/-- The field that SBFE and SBFI read from s[b] (R95): position and mask. -/
def bfPos (y : DWord) : Nat := fieldN y 0 6

/-- See `bfPos`. -/
def bfMask (y : DWord) : DWord := BitVec.ofNat 64 (2 ^ min (fieldN y 8 7) 64 - 1)

/-- SBFE (R95). -/
def sbfeVal (x y : DWord) : DWord := (x >>> bfPos y) &&& bfMask y

/-- SBFI (R95). -/
def sbfiVal (z x y : DWord) : DWord := (z &&& ~~~(bfMask y <<< bfPos y)) ||| ((x &&& bfMask y) <<< bfPos y)

/-- A count as a 64-bit value. -/
def cnt64 (n : Nat) : DWord := BitVec.ofNat 64 n

/-- SADD: a + b (R93). -/
def execSadd (d a rb : BitVec 7) (s : State) : Res := sBin (.sadd d a rb) d a rb (fun x y => x + y) s

/-- SSUB: a − b (R93). -/
def execSsub (d a rb : BitVec 7) (s : State) : Res := sBin (.ssub d a rb) d a rb (fun x y => x - y) s

/-- SMUL: the low 64 bits of a × b (R93). -/
def execSmul (d a rb : BitVec 7) (s : State) : Res := sBin (.smul d a rb) d a rb (fun x y => x * y) s

/-- SMULH: bits [127:64] of the signed product (R78). -/
def execSmulh (d a rb : BitVec 7) (s : State) : Res := sBin (.smulh d a rb) d a rb (mulh) s

/-- SMULHU: bits [127:64] of the unsigned product (R78). -/
def execSmulhu (d a rb : BitVec 7) (s : State) : Res := sBin (.smulhu d a rb) d a rb (mulhu) s

/-- SDIV: the signed quotient (R80). -/
def execSdiv (d a rb : BitVec 7) (s : State) : Res := sBin (.sdiv d a rb) d a rb (divs) s

/-- SDIVU: the unsigned quotient (R80). -/
def execSdivu (d a rb : BitVec 7) (s : State) : Res := sBin (.sdivu d a rb) d a rb (divu) s

/-- SREM: the signed remainder (R80). -/
def execSrem (d a rb : BitVec 7) (s : State) : Res := sBin (.srem d a rb) d a rb (rems) s

/-- SREMU: the unsigned remainder (R80). -/
def execSremu (d a rb : BitVec 7) (s : State) : Res := sBin (.sremu d a rb) d a rb (remu) s

/-- SAND (R93). -/
def execSand (d a rb : BitVec 7) (s : State) : Res := sBin (.sand d a rb) d a rb (fun x y => x &&& y) s

/-- SOR (R93). -/
def execSor (d a rb : BitVec 7) (s : State) : Res := sBin (.sor d a rb) d a rb (fun x y => x ||| y) s

/-- SXOR (R93). -/
def execSxor (d a rb : BitVec 7) (s : State) : Res := sBin (.sxor d a rb) d a rb (fun x y => x ^^^ y) s

/-- SANDN: a AND NOT b (R93). -/
def execSandn (d a rb : BitVec 7) (s : State) : Res := sBin (.sandn d a rb) d a rb (fun x y => x &&& ~~~y) s

/-- SSHL: left shift by b (R79). -/
def execSshl (d a rb : BitVec 7) (s : State) : Res := sBin (.sshl d a rb) d a rb (fun x y => shl x y.toNat) s

/-- SSHR: logical right shift by b (R79). -/
def execSshr (d a rb : BitVec 7) (s : State) : Res := sBin (.sshr d a rb) d a rb (fun x y => shr x y.toNat) s

/-- SSRA: arithmetic right shift by b (R79). -/
def execSsra (d a rb : BitVec 7) (s : State) : Res := sBin (.ssra d a rb) d a rb (fun x y => sra x y.toNat) s

/-- SMIN (R93). -/
def execSmin (d a rb : BitVec 7) (s : State) : Res := sBin (.smin d a rb) d a rb (Sys2Proof.Machine.smin) s

/-- SMAX (R93). -/
def execSmax (d a rb : BitVec 7) (s : State) : Res := sBin (.smax d a rb) d a rb (Sys2Proof.Machine.smax) s

/-- SMINU (R93). -/
def execSminu (d a rb : BitVec 7) (s : State) : Res := sBin (.sminu d a rb) d a rb (umin) s

/-- SMAXU (R93). -/
def execSmaxu (d a rb : BitVec 7) (s : State) : Res := sBin (.smaxu d a rb) d a rb (umax) s

/-- SCMP: CC from a − b, signed (R94). -/
def execScmp (a rb : BitVec 7) (s : State) : Res :=
  regInstr (.scmp a rb) (fun g => setCC (cmpFlags (getS g a.toNat) (getS g rb.toNat)) g) s

/-- SCMPU: CC from a − b, unsigned (R94). -/
def execScmpu (a rb : BitVec 7) (s : State) : Res :=
  regInstr (.scmpu a rb) (fun g => setCC (cmpuFlags (getS g a.toNat) (getS g rb.toNat)) g) s

/-- SSEL: s[d] ≠ 0 selects a, else b (R93). -/
def execSsel (d a rb : BitVec 7) (s : State) : Res := sTern (.ssel d a rb) d a rb (fun z x y => if z = 0 then y else x) s

/-- SPOPC: the number of 1 bits (R93). -/
def execSpopc (d a : BitVec 7) (s : State) : Res := sUn (.spopc d a) d a (fun x => cnt64 (popcount x)) s

/-- SCLZ: leading zeros (R93). -/
def execSclz (d a : BitVec 7) (s : State) : Res := sUn (.sclz d a) d a (fun x => cnt64 (clz x)) s

/-- SCTZ: trailing zeros (R93). -/
def execSctz (d a : BitVec 7) (s : State) : Res := sUn (.sctz d a) d a (fun x => cnt64 (ctz x)) s

/-- SBREV: bit i to bit 63 − i (R93). -/
def execSbrev (d a : BitVec 7) (s : State) : Res := sUn (.sbrev d a) d a (brev) s

/-- SBFE: bit-field extract (R95). -/
def execSbfe (d a rb : BitVec 7) (s : State) : Res := sBin (.sbfe d a rb) d a rb (sbfeVal) s

/-- SBFI: bit-field insert (R95). -/
def execSbfi (d a rb : BitVec 7) (s : State) : Res := sTern (.sbfi d a rb) d a rb (sbfiVal) s

/-- SADDI (R96). -/
def execSaddi (d a : BitVec 7) (i : BitVec 12) (s : State) : Res := sUn (.saddi d a i) d a (fun x => x + sx i) s

/-- SANDI (R96). -/
def execSandi (d a : BitVec 7) (i : BitVec 12) (s : State) : Res := sUn (.sandi d a i) d a (fun x => x &&& sx i) s

/-- SORI (R96). -/
def execSori (d a : BitVec 7) (i : BitVec 12) (s : State) : Res := sUn (.sori d a i) d a (fun x => x ||| sx i) s

/-- SXORI (R96). -/
def execSxori (d a : BitVec 7) (i : BitVec 12) (s : State) : Res := sUn (.sxori d a i) d a (fun x => x ^^^ sx i) s

/-- SSHLI (R57, R96). -/
def execSshli (d a : BitVec 7) (i : BitVec 6) (s : State) : Res := sUn (.sshli d a i) d a (fun x => x <<< i.toNat) s

/-- SSHRI (R57, R96). -/
def execSshri (d a : BitVec 7) (i : BitVec 6) (s : State) : Res := sUn (.sshri d a i) d a (fun x => x >>> i.toNat) s

/-- SSRAI (R57, R96). -/
def execSsrai (d a : BitVec 7) (i : BitVec 6) (s : State) : Res := sUn (.ssrai d a i) d a (fun x => x.sshiftRight i.toNat) s

/-- SCMPI: CC from a − imm12, signed (R94). -/
def execScmpi (a : BitVec 7) (i : BitVec 12) (s : State) : Res :=
  regInstr (.scmpi a i) (fun g => setCC (cmpFlags (getS g a.toNat) (sx i)) g) s

/-- SCMPIU: CC from a − imm12, unsigned; the immediate is sign-extended (R57, R94). -/
def execScmpiu (a : BitVec 7) (i : BitVec 12) (s : State) : Res :=
  regInstr (.scmpiu a i) (fun g => setCC (cmpuFlags (getS g a.toNat) (sx i)) g) s

/-- Inserts 16 bits at position `h` × 16, after clearing the register where `z` is 1 (R97). -/
def sliVal (z : BitVec 1) (h : BitVec 2) (i : BitVec 16) (x : DWord) : DWord :=
  let x := if z = 1 then 0 else x
  (x &&& ~~~((0xFFFF : DWord) <<< (h.toNat * 16))) ||| (i.setWidth 64 <<< (h.toNat * 16))

/-- SLI (R97). -/
def execSli (d : BitVec 7) (z : BitVec 1) (h : BitVec 2) (i : BitVec 16) (s : State) : Res :=
  regInstr (.sli d z h i) (fun g => setS d.toNat (sliVal z h i (getS g d.toNat)) g) s

/-- SMFS: a special register, of the issuing group or of the one a handler has chosen (R100, R294). -/
def execSmfs (d a : BitVec 7) (s : State) : Res :=
  .next (issue (.smfs d a) s fun s =>
    let n := a.toNat
    let g := if redirected n then targetGroup s else s.grp
    retireWith (setS d.toNat (specialVal s g s.grp.tgroup n)) s)

/-- SMTS (R36, R100, R294-R296). A group that clears its last live thread retires as at EXIT (R24). -/
def execSmts (d a : BitVec 7) (s : State) : Res :=
  .next (issue (.smts d a) s fun s => retire (smtsEffect d.toNat (getS s.grp a.toNat) s))

/-- SMFK (R100), redirected in a handler (R294). -/
def execSmfk (d : BitVec 7) (a : BitVec 3) (s : State) : Res :=
  .next (issue (.smfk d a) s fun s => retireWith (setS d.toNat ((getK (targetGroup s) a.toNat).setWidth 64)) s)

/-- SMTK (R100), redirected in a handler (R294). -/
def execSmtk (d : BitVec 3) (a : BitVec 7) (s : State) : Res :=
  .next (issue (.smtk d a) s fun s =>
    let v := (getS s.grp a.toNat).extractLsb' 0 32
    retire (updGroup (targetKey s) (setK d.toNat v) s))

/-- KAND (R101). -/
def execKand (d a rb : BitVec 3) (s : State) : Res := kBin (.kand d a rb) d a rb (fun x y => x &&& y) s

/-- KOR (R101). -/
def execKor (d a rb : BitVec 3) (s : State) : Res := kBin (.kor d a rb) d a rb (fun x y => x ||| y) s

/-- KXOR (R101). -/
def execKxor (d a rb : BitVec 3) (s : State) : Res := kBin (.kxor d a rb) d a rb (fun x y => x ^^^ y) s

/-- KANDN (R101). -/
def execKandn (d a rb : BitVec 3) (s : State) : Res := kBin (.kandn d a rb) d a rb (fun x y => x &&& ~~~y) s

/-- KNOT (R101). -/
def execKnot (d a : BitVec 3) (s : State) : Res :=
  regInstr (.knot d a) (fun g => setK d.toNat (~~~(getK g a.toNat)) g) s

/-- KMOV (R101). -/
def execKmov (d a : BitVec 3) (s : State) : Res :=
  regInstr (.kmov d a) (fun g => setK d.toNat (getK g a.toNat) g) s

/-- KPOPC: 1 bits of k[a] & LIVE (R101). -/
def execKpopc (d : BitVec 7) (a : BitVec 3) (s : State) : Res :=
  regInstr (.kpopc d a) (fun g => setS d.toNat (cnt64 (popcount (getK g a.toNat &&& g.live))) g) s

/-- KFFS: the lowest 1 of k[a] & LIVE; 32 if there is none (R101). -/
def execKffs (d : BitVec 7) (a : BitVec 3) (s : State) : Res :=
  regInstr (.kffs d a) (fun g => setS d.toNat (cnt64 (ctz (getK g a.toNat &&& g.live))) g) s

/-- KFROMS: 32 bits of s[a] from bit s[b] up (R101). -/
def execKfroms (d : BitVec 3) (a rb : BitVec 7) (s : State) : Res :=
  regInstr (.kfroms d a rb) (fun g =>
    setK d.toNat ((shr (getS g a.toNat) (getS g rb.toNat).toNat).extractLsb' 0 32) g) s

/-- The 64 bits of KTOS (R101). -/
def ktosVal (z : DWord) (k : Word) (n : Nat) : DWord :=
  if 64 ≤ n then z else (z &&& ~~~((0xFFFFFFFF : DWord) <<< n)) ||| (k.setWidth 64 <<< n)

/-- KTOS: k[a] into s[d] from bit s[b] up (R101). -/
def execKtos (d : BitVec 7) (a : BitVec 3) (rb : BitVec 7) (s : State) : Res :=
  regInstr (.ktos d a rb) (fun g =>
    setS d.toNat (ktosVal (getS g d.toNat) (getK g a.toNat) (getS g rb.toNat).toNat) g) s

/-- KALL: the lowest n threads (R101). -/
def execKall (d : BitVec 3) (n : BitVec 7) (s : State) : Res :=
  regInstr (.kall d n) (fun g => setK d.toNat (BitVec.ofNat 32 (2 ^ min n.toNat 32 - 1)) g) s

end Sys2Proof.Machine
end

