-- ==== Sys2Proof/Machine/Vector.lean ====
section
/-! DEFINITION. The vector instructions that touch registers only (R71-R83, R91, R124-R141). -/

namespace Sys2Proof.Machine

/-- A count as a 32-bit value. -/
def cnt32 (n : Nat) : Word := BitVec.ofNat 32 n

/-- The length and mask that a field instruction reads from y (R129). -/
def vbfLen (y : Word) : Nat := min (y.toNat / 256 % 64) 32

/-- See `vbfLen`. -/
def vbfMask (y : Word) : Word := BitVec.ofNat 32 (2 ^ vbfLen y - 1)

/-- See `vbfLen`. -/
def vbfPos (y : Word) : Nat := y.toNat % 32

/-- VBFEU (R129). -/
def vbfeuVal (x y : Word) : Word := (x >>> vbfPos y) &&& vbfMask y

/-- VBFE: the field sign-extended from its top bit (R129). -/
def vbfeVal (x y : Word) : Word :=
  let n := vbfLen y
  let f := vbfeuVal x y
  if n ≠ 0 && tbit f (n - 1) then f ||| ~~~(vbfMask y) else f

/-- VBFI (R129). -/
def vbfiVal (z x y : Word) : Word := (z &&& ~~~(vbfMask y <<< vbfPos y)) ||| ((x &&& vbfMask y) <<< vbfPos y)

/-- VADD (R128). -/
def execVadd (g : BitVec 2) (d a rb : BitVec 7) (s : State) : Res := vBin (.vadd g d a rb) g d a rb (fun x y => x + y) s

/-- VSUB (R128). -/
def execVsub (g : BitVec 2) (d a rb : BitVec 7) (s : State) : Res := vBin (.vsub g d a rb) g d a rb (fun x y => x - y) s

/-- VMUL: bits [31:0] of the product (R128). -/
def execVmul (g : BitVec 2) (d a rb : BitVec 7) (s : State) : Res := vBin (.vmul g d a rb) g d a rb (fun x y => x * y) s

/-- VMULH: bits [63:32] of the signed product (R78). -/
def execVmulh (g : BitVec 2) (d a rb : BitVec 7) (s : State) : Res := vBin (.vmulh g d a rb) g d a rb (mulh) s

/-- VMULHU: bits [63:32] of the unsigned product (R78). -/
def execVmulhu (g : BitVec 2) (d a rb : BitVec 7) (s : State) : Res := vBin (.vmulhu g d a rb) g d a rb (mulhu) s

/-- VMIN (R128). -/
def execVmin (g : BitVec 2) (d a rb : BitVec 7) (s : State) : Res := vBin (.vmin g d a rb) g d a rb (smin) s

/-- VMAX (R128). -/
def execVmax (g : BitVec 2) (d a rb : BitVec 7) (s : State) : Res := vBin (.vmax g d a rb) g d a rb (smax) s

/-- VMINU (R128). -/
def execVminu (g : BitVec 2) (d a rb : BitVec 7) (s : State) : Res := vBin (.vminu g d a rb) g d a rb (umin) s

/-- VMAXU (R128). -/
def execVmaxu (g : BitVec 2) (d a rb : BitVec 7) (s : State) : Res := vBin (.vmaxu g d a rb) g d a rb (umax) s

/-- VAND (R128). -/
def execVand (g : BitVec 2) (d a rb : BitVec 7) (s : State) : Res := vBin (.vand g d a rb) g d a rb (fun x y => x &&& y) s

/-- VOR (R128). -/
def execVor (g : BitVec 2) (d a rb : BitVec 7) (s : State) : Res := vBin (.vor g d a rb) g d a rb (fun x y => x ||| y) s

/-- VXOR (R128). -/
def execVxor (g : BitVec 2) (d a rb : BitVec 7) (s : State) : Res := vBin (.vxor g d a rb) g d a rb (fun x y => x ^^^ y) s

/-- VANDN: x AND NOT y (R128). -/
def execVandn (g : BitVec 2) (d a rb : BitVec 7) (s : State) : Res := vBin (.vandn g d a rb) g d a rb (fun x y => x &&& ~~~y) s

/-- VSHL (R79). -/
def execVshl (g : BitVec 2) (d a rb : BitVec 7) (s : State) : Res := vBin (.vshl g d a rb) g d a rb (fun x y => shl x y.toNat) s

/-- VSHR (R79). -/
def execVshr (g : BitVec 2) (d a rb : BitVec 7) (s : State) : Res := vBin (.vshr g d a rb) g d a rb (fun x y => shr x y.toNat) s

/-- VSRA (R79). -/
def execVsra (g : BitVec 2) (d a rb : BitVec 7) (s : State) : Res := vBin (.vsra g d a rb) g d a rb (fun x y => sra x y.toNat) s

/-- VBFE (R129). -/
def execVbfe (g : BitVec 2) (d a rb : BitVec 7) (s : State) : Res := vBin (.vbfe g d a rb) g d a rb (vbfeVal) s

/-- VBFEU (R129). -/
def execVbfeu (g : BitVec 2) (d a rb : BitVec 7) (s : State) : Res := vBin (.vbfeu g d a rb) g d a rb (vbfeuVal) s

/-- VBFI (R129). -/
def execVbfi (g : BitVec 2) (d a rb : BitVec 7) (s : State) : Res := vTern (.vbfi g d a rb) g d a rb vbfiVal s

/-- VBREV: bit i to bit 31 − i (R128). -/
def execVbrev (g : BitVec 2) (d a : BitVec 7) (s : State) : Res := vUn (.vbrev g d a) g d a (brev) s

/-- VPOPC (R128). -/
def execVpopc (g : BitVec 2) (d a : BitVec 7) (s : State) : Res := vUn (.vpopc g d a) g d a (fun x => cnt32 (popcount x)) s

/-- VCLZ (R128). -/
def execVclz (g : BitVec 2) (d a : BitVec 7) (s : State) : Res := vUn (.vclz g d a) g d a (fun x => cnt32 (clz x)) s

/-- VCTZ (R128). -/
def execVctz (g : BitVec 2) (d a : BitVec 7) (s : State) : Res := vUn (.vctz g d a) g d a (fun x => cnt32 (ctz x)) s

/-- VABS: 0x8000_0000 stays (R78). -/
def execVabs (g : BitVec 2) (d a : BitVec 7) (s : State) : Res := vUn (.vabs g d a) g d a (fun x => if x.msb then 0 - x else x) s

/-- VADDI (R130). -/
def execVaddi (g : BitVec 2) (d a : BitVec 7) (i : BitVec 10) (s : State) : Res := vUn (.vaddi g d a i) g d a (fun x => x + sx32 i) s

/-- VANDI (R130). -/
def execVandi (g : BitVec 2) (d a : BitVec 7) (i : BitVec 10) (s : State) : Res := vUn (.vandi g d a i) g d a (fun x => x &&& sx32 i) s

/-- VORI (R130). -/
def execVori (g : BitVec 2) (d a : BitVec 7) (i : BitVec 10) (s : State) : Res := vUn (.vori g d a i) g d a (fun x => x ||| sx32 i) s

/-- VXORI (R130). -/
def execVxori (g : BitVec 2) (d a : BitVec 7) (i : BitVec 10) (s : State) : Res := vUn (.vxori g d a i) g d a (fun x => x ^^^ sx32 i) s

/-- VSHLI (R57, R130). -/
def execVshli (g : BitVec 2) (d a : BitVec 7) (i : BitVec 5) (s : State) : Res := vUn (.vshli g d a i) g d a (fun x => x <<< i.toNat) s

/-- VSHRI (R57, R130). -/
def execVshri (g : BitVec 2) (d a : BitVec 7) (i : BitVec 5) (s : State) : Res := vUn (.vshri g d a i) g d a (fun x => x >>> i.toNat) s

/-- VSRAI (R57, R130). -/
def execVsrai (g : BitVec 2) (d a : BitVec 7) (i : BitVec 5) (s : State) : Res := vUn (.vsrai g d a i) g d a (fun x => x.sshiftRight i.toNat) s

/-- VFADD: round(x + y) (R71). -/
def execVfadd (g : BitVec 2) (d a rb : BitVec 7) (s : State) : Res :=
  vfOp (.vfadd g d a rb) g d a rb (fun g _ x y => fsum fp32 (rmOf g) (ftzOf g) [x, y]) s

/-- VFSUB: round(x − y) (R71). -/
def execVfsub (g : BitVec 2) (d a rb : BitVec 7) (s : State) : Res :=
  vfOp (.vfsub g d a rb) g d a rb (fun g _ x y => fsum fp32 (rmOf g) (ftzOf g) [x, y.neg]) s

/-- VFMUL: round(x × y) (R71). -/
def execVfmul (g : BitVec 2) (d a rb : BitVec 7) (s : State) : Res :=
  vfOp (.vfmul g d a rb) g d a rb (fun g _ x y => toBits fp32 (rmOf g) (ftzOf g) (x.mul y)) s

/-- VFMA: round(z + x × y), one rounding (R72). -/
def execVfma (g : BitVec 2) (d a rb : BitVec 7) (s : State) : Res :=
  vfOp (.vfma g d a rb) g d a rb (fun g z x y => fsum fp32 (rmOf g) (ftzOf g) [z, x.mul y]) s

/-- VFMS: round(z − x × y), one rounding (R72). -/
def execVfms (g : BitVec 2) (d a rb : BitVec 7) (s : State) : Res :=
  vfOp (.vfms g d a rb) g d a rb (fun g z x y => fsum fp32 (rmOf g) (ftzOf g) [z, (x.mul y).neg]) s

/-- VFMIN: minimumNumber (R74). -/
def execVfmin (g : BitVec 2) (d a rb : BitVec 7) (s : State) : Res :=
  vfOp (.vfmin g d a rb) g d a rb (fun g _ x y => toBits fp32 0 (ftzOf g) (fminNum x y)) s

/-- VFMAX: maximumNumber (R74). -/
def execVfmax (g : BitVec 2) (d a rb : BitVec 7) (s : State) : Res :=
  vfOp (.vfmax g d a rb) g d a rb (fun g _ x y => toBits fp32 0 (ftzOf g) (fmaxNum x y)) s

/-- VFABS: bit 31 cleared, NaN for a NaN; FTZ does not apply (R69, R76). -/
def execVfabs (g : BitVec 2) (d a : BitVec 7) (s : State) : Res :=
  vUn (.vfabs g d a) g d a (fun x => if (ofBits fp32 false x.toNat).isNan then w32 fp32.nanBits else x &&& 0x7FFFFFFF) s

/-- VFDIV: round(x / y) (R73). -/
def execVfdiv (g : BitVec 2) (d a rb : BitVec 7) (s : State) : Res :=
  vfOp (.vfdiv g d a rb) g d a rb (fun g _ x y => fdiv fp32 (rmOf g) (ftzOf g) x y) s

/-- VFSQRT: round(√x) (R73). -/
def execVfsqrt (g : BitVec 2) (d a : BitVec 7) (s : State) : Res := vfUn (.vfsqrt g d a) g d a (fun g x => fsqrt fp32 (rmOf g) (ftzOf g) x) s

/-- VFRCP: 1/x to nearest even (R75). -/
def execVfrcp (g : BitVec 2) (d a : BitVec 7) (s : State) : Res := vfUn (.vfrcp g d a) g d a (fun g x => fdiv fp32 0 (ftzOf g) (.fin false 1 0) x) s

/-- VFRSQ: 1/√x to nearest even (R75). -/
def execVfrsq (g : BitVec 2) (d a : BitVec 7) (s : State) : Res := vfUn (.vfrsq g d a) g d a (fun g x => frsq fp32 (ftzOf g) x) s

/-- VFEXP2: 2^x to nearest even (R75). -/
def execVfexp2 (g : BitVec 2) (d a : BitVec 7) (s : State) : Res := vfUn (.vfexp2 g d a) g d a (fun g x => fexp2 fp32 (ftzOf g) x) s

/-- VFLOG2: log2 x to nearest even (R75). -/
def execVflog2 (g : BitVec 2) (d a : BitVec 7) (s : State) : Res := vfUn (.vflog2 g d a) g d a (fun g x => flog2 fp32 (ftzOf g) x) s

/-- VFFLOOR: the largest integral value not above x (R76). -/
def execVffloor (g : BitVec 2) (d a : BitVec 7) (s : State) : Res := vfUn (.vffloor g d a) g d a (fun g x => toBits fp32 0 (ftzOf g) (roundInt 2 x)) s

/-- VFRINT: the integral value in FPCTL.rm (R76). -/
def execVfrint (g : BitVec 2) (d a : BitVec 7) (s : State) : Res := vfUn (.vfrint g d a) g d a (fun g x => toBits fp32 0 (ftzOf g) (roundInt (rmOf g) x)) s

/-- VDADD (R71, R132). -/
def execVdadd (g : BitVec 2) (d a rb : BitVec 7) (s : State) : Res :=
  vdOp (.vdadd g d a rb) g d a rb (fun g _ x y => fsum fp64 (rmOf g) (ftzOf g) [x, y]) s

/-- VDSUB (R71, R132). -/
def execVdsub (g : BitVec 2) (d a rb : BitVec 7) (s : State) : Res :=
  vdOp (.vdsub g d a rb) g d a rb (fun g _ x y => fsum fp64 (rmOf g) (ftzOf g) [x, y.neg]) s

/-- VDMUL (R71, R132). -/
def execVdmul (g : BitVec 2) (d a rb : BitVec 7) (s : State) : Res :=
  vdOp (.vdmul g d a rb) g d a rb (fun g _ x y => toBits fp64 (rmOf g) (ftzOf g) (x.mul y)) s

/-- VDFMA: one rounding (R72, R132). -/
def execVdfma (g : BitVec 2) (d a rb : BitVec 7) (s : State) : Res :=
  vdOp (.vdfma g d a rb) g d a rb (fun g z x y => fsum fp64 (rmOf g) (ftzOf g) [z, x.mul y]) s

/-- VDDIV (R73, R132). -/
def execVddiv (g : BitVec 2) (d a rb : BitVec 7) (s : State) : Res :=
  vdOp (.vddiv g d a rb) g d a rb (fun g _ x y => fdiv fp64 (rmOf g) (ftzOf g) x y) s

/-- VDSQRT (R73, R132). -/
def execVdsqrt (g : BitVec 2) (d a : BitVec 7) (s : State) : Res :=
  vMap64 (.vdsqrt g d a) g d.toNat (fun gr t => w64 (fsqrt fp64 (rmOf gr) (ftzOf gr) (f64 gr (opnd64 gr a.toNat t)))) s

/-- VDMIN (R74, R132). -/
def execVdmin (g : BitVec 2) (d a rb : BitVec 7) (s : State) : Res :=
  vdOp (.vdmin g d a rb) g d a rb (fun g _ x y => toBits fp64 0 (ftzOf g) (fminNum x y)) s

/-- VDMAX (R74, R132). -/
def execVdmax (g : BitVec 2) (d a rb : BitVec 7) (s : State) : Res :=
  vdOp (.vdmax g d a rb) g d a rb (fun g _ x y => toBits fp64 0 (ftzOf g) (fmaxNum x y)) s

/-- The result of a conversion code on the bits of its source, as the bits of its destination: 16-bit results zero-extended, i8
sign-extended and ui8 zero-extended to 32 bits (R81-R83). The `.z` forms round toward zero. -/
def cvtVal (rm : BitVec 2) (ftz : Bool) (c x : Nat) : Nat :=
  let ff := fun (src dst : Fmt) (x : Nat) => toBits dst rm ftz (ofBits src ftz x)
  let fi := fun (rm : BitVec 2) (src : Fmt) (lo hi : Int) (w : Nat) => (BitVec.ofInt w (toIntClamp rm lo hi (ofBits src ftz x))).toNat
  let i32 := (BitVec.ofNat 32 x).toInt
  match c with
  | 0x00 => ff fp32 fp64 x
  | 0x01 => ff fp64 fp32 x
  | 0x02 => ff fp32 bf16 x
  | 0x03 => ff bf16 fp32 (x % 2 ^ 16)
  | 0x04 => ff fp32 fp16 x
  | 0x05 => ff fp16 fp32 (x % 2 ^ 16)
  | 0x08 => fi rm fp32 (-2 ^ 31) (2 ^ 31 - 1) 32
  | 0x09 => fi rm fp32 0 (2 ^ 32 - 1) 32
  | 0x0A => fi 1 fp32 (-2 ^ 31) (2 ^ 31 - 1) 32
  | 0x0B => fi 1 fp32 0 (2 ^ 32 - 1) 32
  | 0x0C => toBits fp32 rm ftz (ofInt i32)
  | 0x0D => toBits fp32 rm ftz (ofInt (x % 2 ^ 32 : Nat))
  | 0x10 => fi rm fp64 (-2 ^ 63) (2 ^ 63 - 1) 64
  | 0x11 => fi rm fp64 0 (2 ^ 64 - 1) 64
  | 0x12 => fi 1 fp64 (-2 ^ 63) (2 ^ 63 - 1) 64
  | 0x13 => fi 1 fp64 0 (2 ^ 64 - 1) 64
  | 0x14 => toBits fp64 rm ftz (ofInt (BitVec.ofNat 64 x).toInt)
  | 0x15 => toBits fp64 rm ftz (ofInt (x % 2 ^ 64 : Nat))
  | 0x16 => fi rm fp64 (-2 ^ 31) (2 ^ 31 - 1) 32
  | 0x17 => toBits fp64 rm ftz (ofInt i32)
  | 0x18 => fi rm fp32 (-128) 127 32
  | 0x19 => fi rm fp32 0 255 32
  | 0x1A => toBits fp32 rm ftz (ofInt (BitVec.ofNat 8 x).toInt)
  | 0x1B => toBits fp32 rm ftz (ofInt (x % 2 ^ 8 : Nat))
  | _ => 0

/-- The source of a conversion as bits (R81, R82). -/
def cvtSrc (g : Group) (a c t : Nat) : Nat :=
  if cvtSrc64 c then (opnd64 g a t).toNat else (opnd32 g a t).toNat

/-- VCVT (R81-R83). -/
def execVcvt (g : BitVec 2) (d a c : BitVec 7) (s : State) : Res :=
  let v := fun (gr : Group) t => cvtVal (rmOf gr) (ftzOf gr) c.toNat (cvtSrc gr a.toNat c.toNat t)
  if cvtDst64 c.toNat then vMap64 (.vcvt g d a c) g d.toNat (fun gr t => w64 (v gr t)) s
  else vMap (.vcvt g d a c) g d.toNat (fun gr t => w32 (v gr t)) s

/-- VCEQ (R133). -/
def execVceq (g : BitVec 2) (d : BitVec 3) (a rb : BitVec 7) (s : State) : Res :=
  vCmp (.vceq g d a rb) g d (fun gr t => opnd32 gr a.toNat t == opnd32 gr rb.toNat t) s

/-- VCNE (R133). -/
def execVcne (g : BitVec 2) (d : BitVec 3) (a rb : BitVec 7) (s : State) : Res :=
  vCmp (.vcne g d a rb) g d (fun gr t => opnd32 gr a.toNat t != opnd32 gr rb.toNat t) s

/-- VCLT (R133). -/
def execVclt (g : BitVec 2) (d : BitVec 3) (a rb : BitVec 7) (s : State) : Res :=
  vCmp (.vclt g d a rb) g d (fun gr t => (opnd32 gr a.toNat t).slt (opnd32 gr rb.toNat t)) s

/-- VCLE (R133). -/
def execVcle (g : BitVec 2) (d : BitVec 3) (a rb : BitVec 7) (s : State) : Res :=
  vCmp (.vcle g d a rb) g d (fun gr t => (opnd32 gr a.toNat t).sle (opnd32 gr rb.toNat t)) s

/-- VCLTU (R133). -/
def execVcltu (g : BitVec 2) (d : BitVec 3) (a rb : BitVec 7) (s : State) : Res :=
  vCmp (.vcltu g d a rb) g d (fun gr t => (opnd32 gr a.toNat t).ult (opnd32 gr rb.toNat t)) s

/-- VCLEU (R133). -/
def execVcleu (g : BitVec 2) (d : BitVec 3) (a rb : BitVec 7) (s : State) : Res :=
  vCmp (.vcleu g d a rb) g d (fun gr t => (opnd32 gr a.toNat t).ule (opnd32 gr rb.toNat t)) s

/-- VFCEQ (R77, R133). -/
def execVfceq (g : BitVec 2) (d : BitVec 3) (a rb : BitVec 7) (s : State) : Res :=
  vfCmp (.vfceq g d a rb) g d a rb (fun o => o == some .eq) s

/-- VFCNE (R77, R133). -/
def execVfcne (g : BitVec 2) (d : BitVec 3) (a rb : BitVec 7) (s : State) : Res :=
  vfCmp (.vfcne g d a rb) g d a rb (fun o => o != some .eq) s

/-- VFCLT (R77, R133). -/
def execVfclt (g : BitVec 2) (d : BitVec 3) (a rb : BitVec 7) (s : State) : Res :=
  vfCmp (.vfclt g d a rb) g d a rb (fun o => o == some .lt) s

/-- VFCLE (R77, R133). -/
def execVfcle (g : BitVec 2) (d : BitVec 3) (a rb : BitVec 7) (s : State) : Res :=
  vfCmp (.vfcle g d a rb) g d a rb (fun o => o == some .lt || o == some .eq) s

/-- VFCUN (R77, R133). -/
def execVfcun (g : BitVec 2) (d : BitVec 3) (a rb : BitVec 7) (s : State) : Res :=
  vfCmp (.vfcun g d a rb) g d a rb (fun o => o == none) s

/-- VDCEQ (R77, R133). -/
def execVdceq (g : BitVec 2) (d : BitVec 3) (a rb : BitVec 7) (s : State) : Res :=
  vdCmp (.vdceq g d a rb) g d a rb (fun o => o == some .eq) s

/-- VDCLT (R77, R133). -/
def execVdclt (g : BitVec 2) (d : BitVec 3) (a rb : BitVec 7) (s : State) : Res :=
  vdCmp (.vdclt g d a rb) g d a rb (fun o => o == some .lt) s

/-- VDCLE (R77, R133). -/
def execVdcle (g : BitVec 2) (d : BitVec 3) (a rb : BitVec 7) (s : State) : Res :=
  vdCmp (.vdcle g d a rb) g d a rb (fun o => o == some .lt || o == some .eq) s

/-- The element that a shuffle takes: thread `j`'s, or the own one where there is no such thread (R135). -/
def takeFrom (g : Group) (a t : Nat) (j : Int) : Word :=
  if 0 ≤ j ∧ j ≤ 31 then opnd32 g a j.toNat else opnd32 g a t

/-- A shuffle by an index that `f` computes from the thread and y (R135). -/
def vShuffle (i : Instr) (gd : BitVec 2) (d a rb : BitVec 7) (f : Nat → Nat → Int) (s : State) : Res :=
  vMap i gd d.toNat (fun g t => takeFrom g a.toNat t (f t (opnd32 g rb.toNat t).toNat)) s

/-- VSHFL (R135). -/
def execVshfl (g : BitVec 2) (d a rb : BitVec 7) (s : State) : Res := vShuffle (.vshfl g d a rb) g d a rb (fun _ y => y) s

/-- VSHFLX (R135). -/
def execVshflx (g : BitVec 2) (d a rb : BitVec 7) (s : State) : Res :=
  vShuffle (.vshflx g d a rb) g d a rb (fun t y => (t ^^^ y : Nat)) s

/-- VSHFLU (R135). -/
def execVshflu (g : BitVec 2) (d a rb : BitVec 7) (s : State) : Res :=
  vShuffle (.vshflu g d a rb) g d a rb (fun t y => (t : Int) - y) s

/-- VSHFLD (R135). -/
def execVshfld (g : BitVec 2) (d a rb : BitVec 7) (s : State) : Res :=
  vShuffle (.vshfld g d a rb) g d a rb (fun t y => (t : Int) + y) s

/-- VBCAST: the index is a scalar of s0-s31 (R134, R135). -/
def execVbcast (g : BitVec 2) (d a : BitVec 7) (rb : BitVec 5) (s : State) : Res :=
  vMap (.vbcast g d a rb) g d.toNat (fun gr t => takeFrom gr a.toNat t (((getS gr rb.toNat).toNat % 2 ^ 32 : Nat) : Int)) s

/-- VSEL: every live thread acts, and the guard selects (R136). -/
def execVsel (g : BitVec 2) (d a rb : BitVec 7) (s : State) : Res :=
  regInstr (.vsel g d a rb) (fun gr => writeV d.toNat (threads (actOf gr 0))
    (fun t => if g = 0 || tbit (getK gr g.toNat) t then opnd32 gr a.toNat t else opnd32 gr rb.toNat t) gr) s

/-- VBALLOT (R137): one scalar, written even where no thread acts. -/
def execVballot (g : BitVec 2) (d : BitVec 5) (a : BitVec 7) (s : State) : Res :=
  regInstr (.vballot g d a) (fun gr => let act := actOf gr g
    setS d.toNat ((threadMask fun t => tbit act t && opnd32 gr a.toNat t != 0).setWidth 64) gr) s

/-- VTID (R138). -/
def execVtid (g : BitVec 2) (d : BitVec 7) (s : State) : Res := vMap (.vtid g d) g d.toNat (fun _ t => cnt32 t) s

/-- A reduction of the acting threads' elements from `z`, its 64-bit form given by `ext` (R139). -/
def vReduce (i : Instr) (gd : BitVec 2) (d : BitVec 5) (a : BitVec 7) (f : Word → Word → Word) (z : Word) (ext : Word → DWord) (s : State) : Res :=
  regInstr i (fun g => setS d.toNat (ext ((threads (actOf g gd)).foldl (fun x t => f x (opnd32 g a.toNat t)) z)) g) s


/-- VREDADD: the sum, sign-extended (R139). -/
def execVredadd (g : BitVec 2) (d : BitVec 5) (a : BitVec 7) (s : State) : Res := vReduce (.vredadd g d a) g d a (fun x y => x + y) 0 sx s

/-- VREDMIN: the signed minimum, sign-extended (R139). -/
def execVredmin (g : BitVec 2) (d : BitVec 5) (a : BitVec 7) (s : State) : Res := vReduce (.vredmin g d a) g d a (smin) 0x7FFFFFFF sx s

/-- VREDMAX: the signed maximum, sign-extended (R139). -/
def execVredmax (g : BitVec 2) (d : BitVec 5) (a : BitVec 7) (s : State) : Res := vReduce (.vredmax g d a) g d a (smax) 0x80000000 sx s

/-- VREDMINU: the unsigned minimum, zero-extended (R139). -/
def execVredminu (g : BitVec 2) (d : BitVec 5) (a : BitVec 7) (s : State) : Res := vReduce (.vredminu g d a) g d a (umin) 0xFFFFFFFF (fun x => x.setWidth 64) s

/-- VREDMAXU: the unsigned maximum, zero-extended (R139). -/
def execVredmaxu (g : BitVec 2) (d : BitVec 5) (a : BitVec 7) (s : State) : Res := vReduce (.vredmaxu g d a) g d a (umax) 0 (fun x => x.setWidth 64) s

/-- One level of the tree of R91. -/
def treeLevel (rm : BitVec 2) (ftz : Bool) : List Nat → List Nat
  | x :: y :: r => fsum fp32 rm ftz [ofBits fp32 ftz x, ofBits fp32 ftz y] :: treeLevel rm ftz r
  | r => r

/-- The sum of 32 values in the fixed tree (R91). -/
def treeSum (rm : BitVec 2) (ftz : Bool) (xs : List Nat) : Nat :=
  let l := treeLevel rm ftz
  (l (l (l (l (l xs))))).headD 0

/-- VREDFADD: +0 for a thread that does not act (R91, R139). -/
def execVredfadd (g : BitVec 2) (d : BitVec 5) (a : BitVec 7) (s : State) : Res :=
  regInstr (.vredfadd g d a) (fun gr => let act := actOf gr g
    setS d.toNat (w64 (treeSum (rmOf gr) (ftzOf gr) ((List.range 32).map fun t => if tbit act t then (opnd32 gr a.toNat t).toNat else 0))) gr) s

/-- The inclusive prefix sums of a list of threads, before `d` is written (R140). -/
def prefixSums (f : Option Word → Word → Word) (acc : Option Word) : List (Nat × Word) → List (Nat × Word)
  | [] => []
  | (t, x) :: r => let y := f acc x; (t, y) :: prefixSums f (some y) r

/-- A scan: the running value after each acting thread, in ascending order (R140). -/
def vScanOp (i : Instr) (gd : BitVec 2) (d a : BitVec 7) (f : Group → Option Word → Word → Word) (s : State) : Res :=
  regInstr i (fun g =>
    (prefixSums (f g) none ((threads (actOf g gd)).map fun t => (t, opnd32 g a.toNat t))).foldl
      (fun g p => setV d.toNat p.1 p.2 g) g) s

/-- VSCAN (R140). -/
def execVscan (g : BitVec 2) (d a : BitVec 7) (s : State) : Res :=
  vScanOp (.vscan g d a) g d a (fun _ acc x => acc.getD 0 + x) s

/-- VSCANF: the first element is taken as it is, under FTZ (R140). -/
def execVscanf (g : BitVec 2) (d a : BitVec 7) (s : State) : Res :=
  vScanOp (.vscanf g d a) g d a (fun gr acc x => w32 (match acc with
    | none => toBits fp32 0 (ftzOf gr) (f32 gr x)
    | some y => fsum fp32 (rmOf gr) (ftzOf gr) [f32 gr y, f32 gr x])) s

/-- VMOV (R141). -/
def execVmov (g : BitVec 2) (d a : BitVec 7) (s : State) : Res := vUn (.vmov g d a) g d a (fun x => x) s

/-- VMFS: a scalar into each acting thread, 32 bits or with b = 1 a pair (R141). -/
def execVmfs (g : BitVec 2) (d a : BitVec 7) (rb : BitVec 1) (s : State) : Res :=
  if rb = 1 then vMap64 (.vmfs g d a rb) g d.toNat (fun gr _ => getS gr a.toNat) s
  else vMap (.vmfs g d a rb) g d.toNat (fun gr _ => (getS gr a.toNat).extractLsb' 0 32) s

/-- VMERGE: two 16-bit values, a in the low half (R141). -/
def execVmerge (g : BitVec 2) (d a rb : BitVec 7) (s : State) : Res := vBin (.vmerge g d a rb) g d a rb (fun x y => (y <<< 16) ||| (x &&& 0xFFFF)) s

end Sys2Proof.Machine
end

