-- ==== Sys2Proof/Machine/Dispatch.lean ====
section
/-! DEFINITION. The meaning of each instruction. -/

namespace Sys2Proof.Machine

def exec (i : Instr) (s : State) : Host.Outcome State Fault Refusal :=
  match i with
  | .trap n => Sys2Proof.Machine.execTrap n s
  | .brk n => Sys2Proof.Machine.execBrk n s
  | .mark im => Sys2Proof.Machine.execMark im s
  | .fence o sc => Sys2Proof.Machine.execFence o sc s
  | .fencex p q sc => Sys2Proof.Machine.execFencex p q sc s
  | .yieldc n => Sys2Proof.Machine.execYieldc n s
  | .window n => Sys2Proof.Machine.execWindow n s
  | .donate d a k => Sys2Proof.Machine.execDonate d a k s
  | .bar n c => Sys2Proof.Machine.execBar n c s
  | .bara d n c => Sys2Proof.Machine.execBara d n c s
  | .barw n rb => Sys2Proof.Machine.execBarw n rb s
  | .waita a rb => Sys2Proof.Machine.execWaita a rb s
  | .wakea a => Sys2Proof.Machine.execWakea a s
  | .haltg a => Sys2Proof.Machine.execHaltg a s
  | .haltgRes a => Sys2Proof.Machine.execHaltgRes a s
  | .mbatch n => Sys2Proof.Machine.execMbatch n s
  | .mwait n => Sys2Proof.Machine.execMwait n s
  | .sadd d a rb => Sys2Proof.Machine.execSadd d a rb s
  | .ssub d a rb => Sys2Proof.Machine.execSsub d a rb s
  | .smul d a rb => Sys2Proof.Machine.execSmul d a rb s
  | .smulh d a rb => Sys2Proof.Machine.execSmulh d a rb s
  | .smulhu d a rb => Sys2Proof.Machine.execSmulhu d a rb s
  | .sdiv d a rb => Sys2Proof.Machine.execSdiv d a rb s
  | .sdivu d a rb => Sys2Proof.Machine.execSdivu d a rb s
  | .srem d a rb => Sys2Proof.Machine.execSrem d a rb s
  | .sremu d a rb => Sys2Proof.Machine.execSremu d a rb s
  | .sand d a rb => Sys2Proof.Machine.execSand d a rb s
  | .sor d a rb => Sys2Proof.Machine.execSor d a rb s
  | .sxor d a rb => Sys2Proof.Machine.execSxor d a rb s
  | .sandn d a rb => Sys2Proof.Machine.execSandn d a rb s
  | .sshl d a rb => Sys2Proof.Machine.execSshl d a rb s
  | .sshr d a rb => Sys2Proof.Machine.execSshr d a rb s
  | .ssra d a rb => Sys2Proof.Machine.execSsra d a rb s
  | .smin d a rb => Sys2Proof.Machine.execSmin d a rb s
  | .smax d a rb => Sys2Proof.Machine.execSmax d a rb s
  | .sminu d a rb => Sys2Proof.Machine.execSminu d a rb s
  | .smaxu d a rb => Sys2Proof.Machine.execSmaxu d a rb s
  | .scmp a rb => Sys2Proof.Machine.execScmp a rb s
  | .scmpu a rb => Sys2Proof.Machine.execScmpu a rb s
  | .ssel d a rb => Sys2Proof.Machine.execSsel d a rb s
  | .spopc d a => Sys2Proof.Machine.execSpopc d a s
  | .sclz d a => Sys2Proof.Machine.execSclz d a s
  | .sctz d a => Sys2Proof.Machine.execSctz d a s
  | .sbrev d a => Sys2Proof.Machine.execSbrev d a s
  | .sbfe d a rb => Sys2Proof.Machine.execSbfe d a rb s
  | .sbfi d a rb => Sys2Proof.Machine.execSbfi d a rb s
  | .saddi d a im => Sys2Proof.Machine.execSaddi d a im s
  | .sandi d a im => Sys2Proof.Machine.execSandi d a im s
  | .sori d a im => Sys2Proof.Machine.execSori d a im s
  | .sxori d a im => Sys2Proof.Machine.execSxori d a im s
  | .sshli d a n => Sys2Proof.Machine.execSshli d a n s
  | .sshri d a n => Sys2Proof.Machine.execSshri d a n s
  | .ssrai d a n => Sys2Proof.Machine.execSsrai d a n s
  | .scmpi a im => Sys2Proof.Machine.execScmpi a im s
  | .scmpiu a im => Sys2Proof.Machine.execScmpiu a im s
  | .sli d z h im => Sys2Proof.Machine.execSli d z h im s
  | .sld d a w o sc n => Sys2Proof.Machine.execSld d a w o sc n s
  | .sst d a w o sc n => Sys2Proof.Machine.execSst d a w o sc n s
  | .smfs d a => Sys2Proof.Machine.execSmfs d a s
  | .smts d a => Sys2Proof.Machine.execSmts d a s
  | .smfk d a => Sys2Proof.Machine.execSmfk d a s
  | .smtk d a => Sys2Proof.Machine.execSmtk d a s
  | .b c f => Sys2Proof.Machine.execB c f s
  | .call f => Sys2Proof.Machine.execCall f s
  | .jr a => Sys2Proof.Machine.execJr a s
  | .callr a => Sys2Proof.Machine.execCallr a s
  | .kand d a rb => Sys2Proof.Machine.execKand d a rb s
  | .kor d a rb => Sys2Proof.Machine.execKor d a rb s
  | .kxor d a rb => Sys2Proof.Machine.execKxor d a rb s
  | .kandn d a rb => Sys2Proof.Machine.execKandn d a rb s
  | .knot d a => Sys2Proof.Machine.execKnot d a s
  | .kmov d a => Sys2Proof.Machine.execKmov d a s
  | .kpopc d a => Sys2Proof.Machine.execKpopc d a s
  | .kffs d a => Sys2Proof.Machine.execKffs d a s
  | .kfroms d a rb => Sys2Proof.Machine.execKfroms d a rb s
  | .ktos d a rb => Sys2Proof.Machine.execKtos d a rb s
  | .kall d rb => Sys2Proof.Machine.execKall d rb s
  | .wait l sc c t => Sys2Proof.Machine.execWait l sc c t s
  | .vadd g d a rb => Sys2Proof.Machine.execVadd g d a rb s
  | .vsub g d a rb => Sys2Proof.Machine.execVsub g d a rb s
  | .vmul g d a rb => Sys2Proof.Machine.execVmul g d a rb s
  | .vmulh g d a rb => Sys2Proof.Machine.execVmulh g d a rb s
  | .vmulhu g d a rb => Sys2Proof.Machine.execVmulhu g d a rb s
  | .vmin g d a rb => Sys2Proof.Machine.execVmin g d a rb s
  | .vmax g d a rb => Sys2Proof.Machine.execVmax g d a rb s
  | .vminu g d a rb => Sys2Proof.Machine.execVminu g d a rb s
  | .vmaxu g d a rb => Sys2Proof.Machine.execVmaxu g d a rb s
  | .vand g d a rb => Sys2Proof.Machine.execVand g d a rb s
  | .vor g d a rb => Sys2Proof.Machine.execVor g d a rb s
  | .vxor g d a rb => Sys2Proof.Machine.execVxor g d a rb s
  | .vandn g d a rb => Sys2Proof.Machine.execVandn g d a rb s
  | .vshl g d a rb => Sys2Proof.Machine.execVshl g d a rb s
  | .vshr g d a rb => Sys2Proof.Machine.execVshr g d a rb s
  | .vsra g d a rb => Sys2Proof.Machine.execVsra g d a rb s
  | .vbfe g d a rb => Sys2Proof.Machine.execVbfe g d a rb s
  | .vbfeu g d a rb => Sys2Proof.Machine.execVbfeu g d a rb s
  | .vbfi g d a rb => Sys2Proof.Machine.execVbfi g d a rb s
  | .vbrev g d a => Sys2Proof.Machine.execVbrev g d a s
  | .vpopc g d a => Sys2Proof.Machine.execVpopc g d a s
  | .vclz g d a => Sys2Proof.Machine.execVclz g d a s
  | .vctz g d a => Sys2Proof.Machine.execVctz g d a s
  | .vabs g d a => Sys2Proof.Machine.execVabs g d a s
  | .vaddi g d a im => Sys2Proof.Machine.execVaddi g d a im s
  | .vandi g d a im => Sys2Proof.Machine.execVandi g d a im s
  | .vori g d a im => Sys2Proof.Machine.execVori g d a im s
  | .vxori g d a im => Sys2Proof.Machine.execVxori g d a im s
  | .vshli g d a n => Sys2Proof.Machine.execVshli g d a n s
  | .vshri g d a n => Sys2Proof.Machine.execVshri g d a n s
  | .vsrai g d a n => Sys2Proof.Machine.execVsrai g d a n s
  | .vfadd g d a rb => Sys2Proof.Machine.execVfadd g d a rb s
  | .vfsub g d a rb => Sys2Proof.Machine.execVfsub g d a rb s
  | .vfmul g d a rb => Sys2Proof.Machine.execVfmul g d a rb s
  | .vfma g d a rb => Sys2Proof.Machine.execVfma g d a rb s
  | .vfms g d a rb => Sys2Proof.Machine.execVfms g d a rb s
  | .vfmin g d a rb => Sys2Proof.Machine.execVfmin g d a rb s
  | .vfmax g d a rb => Sys2Proof.Machine.execVfmax g d a rb s
  | .vfabs g d a => Sys2Proof.Machine.execVfabs g d a s
  | .vfdiv g d a rb => Sys2Proof.Machine.execVfdiv g d a rb s
  | .vfsqrt g d a => Sys2Proof.Machine.execVfsqrt g d a s
  | .vfrcp g d a => Sys2Proof.Machine.execVfrcp g d a s
  | .vfrsq g d a => Sys2Proof.Machine.execVfrsq g d a s
  | .vfexp2 g d a => Sys2Proof.Machine.execVfexp2 g d a s
  | .vflog2 g d a => Sys2Proof.Machine.execVflog2 g d a s
  | .vffloor g d a => Sys2Proof.Machine.execVffloor g d a s
  | .vfrint g d a => Sys2Proof.Machine.execVfrint g d a s
  | .vdadd g d a rb => Sys2Proof.Machine.execVdadd g d a rb s
  | .vdsub g d a rb => Sys2Proof.Machine.execVdsub g d a rb s
  | .vdmul g d a rb => Sys2Proof.Machine.execVdmul g d a rb s
  | .vdfma g d a rb => Sys2Proof.Machine.execVdfma g d a rb s
  | .vddiv g d a rb => Sys2Proof.Machine.execVddiv g d a rb s
  | .vdsqrt g d a => Sys2Proof.Machine.execVdsqrt g d a s
  | .vdmin g d a rb => Sys2Proof.Machine.execVdmin g d a rb s
  | .vdmax g d a rb => Sys2Proof.Machine.execVdmax g d a rb s
  | .vcvt g d a c => Sys2Proof.Machine.execVcvt g d a c s
  | .vceq g d a rb => Sys2Proof.Machine.execVceq g d a rb s
  | .vcne g d a rb => Sys2Proof.Machine.execVcne g d a rb s
  | .vclt g d a rb => Sys2Proof.Machine.execVclt g d a rb s
  | .vcle g d a rb => Sys2Proof.Machine.execVcle g d a rb s
  | .vcltu g d a rb => Sys2Proof.Machine.execVcltu g d a rb s
  | .vcleu g d a rb => Sys2Proof.Machine.execVcleu g d a rb s
  | .vfceq g d a rb => Sys2Proof.Machine.execVfceq g d a rb s
  | .vfcne g d a rb => Sys2Proof.Machine.execVfcne g d a rb s
  | .vfclt g d a rb => Sys2Proof.Machine.execVfclt g d a rb s
  | .vfcle g d a rb => Sys2Proof.Machine.execVfcle g d a rb s
  | .vfcun g d a rb => Sys2Proof.Machine.execVfcun g d a rb s
  | .vdceq g d a rb => Sys2Proof.Machine.execVdceq g d a rb s
  | .vdclt g d a rb => Sys2Proof.Machine.execVdclt g d a rb s
  | .vdcle g d a rb => Sys2Proof.Machine.execVdcle g d a rb s
  | .vshfl g d a rb => Sys2Proof.Machine.execVshfl g d a rb s
  | .vshflx g d a rb => Sys2Proof.Machine.execVshflx g d a rb s
  | .vshflu g d a rb => Sys2Proof.Machine.execVshflu g d a rb s
  | .vshfld g d a rb => Sys2Proof.Machine.execVshfld g d a rb s
  | .vbcast g d a rb => Sys2Proof.Machine.execVbcast g d a rb s
  | .vsel g d a rb => Sys2Proof.Machine.execVsel g d a rb s
  | .vballot g d a => Sys2Proof.Machine.execVballot g d a s
  | .vtid g d => Sys2Proof.Machine.execVtid g d s
  | .vredadd g d a => Sys2Proof.Machine.execVredadd g d a s
  | .vredmin g d a => Sys2Proof.Machine.execVredmin g d a s
  | .vredmax g d a => Sys2Proof.Machine.execVredmax g d a s
  | .vredminu g d a => Sys2Proof.Machine.execVredminu g d a s
  | .vredmaxu g d a => Sys2Proof.Machine.execVredmaxu g d a s
  | .vredfadd g d a => Sys2Proof.Machine.execVredfadd g d a s
  | .vscan g d a => Sys2Proof.Machine.execVscan g d a s
  | .vscanf g d a => Sys2Proof.Machine.execVscanf g d a s
  | .vmov g d a => Sys2Proof.Machine.execVmov g d a s
  | .vmfs g d a rb => Sys2Proof.Machine.execVmfs g d a rb s
  | .vmerge g d a rb => Sys2Proof.Machine.execVmerge g d a rb s
  | .vld g d a w o sc n => Sys2Proof.Machine.execVld g d a w o sc n s
  | .vldu g d a w o sc n => Sys2Proof.Machine.execVldu g d a w o sc n s
  | .vst g d a w o sc n => Sys2Proof.Machine.execVst g d a w o sc n s
  | .vldx g f d a rb => Sys2Proof.Machine.execVldx g f d a rb s
  | .vamoadd g d a rb => Sys2Proof.Machine.execVamoadd g d a rb s
  | .vamomin g d a rb => Sys2Proof.Machine.execVamomin g d a rb s
  | .vamomax g d a rb => Sys2Proof.Machine.execVamomax g d a rb s
  | .vamominu g d a rb => Sys2Proof.Machine.execVamominu g d a rb s
  | .vamomaxu g d a rb => Sys2Proof.Machine.execVamomaxu g d a rb s
  | .vamoand g d a rb => Sys2Proof.Machine.execVamoand g d a rb s
  | .vamoor g d a rb => Sys2Proof.Machine.execVamoor g d a rb s
  | .vamoxor g d a rb => Sys2Proof.Machine.execVamoxor g d a rb s
  | .vcas g d a rb => Sys2Proof.Machine.execVcas g d a rb s
  | .vxchg g d a rb => Sys2Proof.Machine.execVxchg g d a rb s
  | .vamofadd g d a rb => Sys2Proof.Machine.execVamofadd g d a rb s
  | .vamofmin g d a rb => Sys2Proof.Machine.execVamofmin g d a rb s
  | .vamofmax g d a rb => Sys2Proof.Machine.execVamofmax g d a rb s
  | .samoadd d a rb => Sys2Proof.Machine.execSamoadd d a rb s
  | .samomin d a rb => Sys2Proof.Machine.execSamomin d a rb s
  | .samomax d a rb => Sys2Proof.Machine.execSamomax d a rb s
  | .samoand d a rb => Sys2Proof.Machine.execSamoand d a rb s
  | .samoor d a rb => Sys2Proof.Machine.execSamoor d a rb s
  | .samoxor d a rb => Sys2Proof.Machine.execSamoxor d a rb s
  | .scas d a rb => Sys2Proof.Machine.execScas d a rb s
  | .sxchg d a rb => Sys2Proof.Machine.execSxchg d a rb s
  | .tlook d a => Sys2Proof.Machine.execTlook d a s
  | .tset a rb => Sys2Proof.Machine.execTset a rb s
  | .tinv a => Sys2Proof.Machine.execTinv a s
  | .tslot d a => Sys2Proof.Machine.execTslot d a s
  | .cpy d a rb => Sys2Proof.Machine.execCpy d a rb s
  | .cpym d a rb => Sys2Proof.Machine.execCpym d a rb s
  | .cpyd d a rb => Sys2Proof.Machine.execCpyd d a rb s
  | .cpyc d a rb => Sys2Proof.Machine.execCpyc d a rb s
  | .cpyg d a rb => Sys2Proof.Machine.execCpyg d a rb s
  | .cpys d a rb => Sys2Proof.Machine.execCpys d a rb s
  | .qinit d rb => Sys2Proof.Machine.execQinit d rb s
  | .qpush d a => Sys2Proof.Machine.execQpush d a s
  | .qpop d a => Sys2Proof.Machine.execQpop d a s
  | .qpusht d a => Sys2Proof.Machine.execQpusht d a s
  | .qpopt d a => Sys2Proof.Machine.execQpopt d a s
  | .qallow d rb => Sys2Proof.Machine.execQallow d rb s
  | .tnmov d a rb => Sys2Proof.Machine.execTnmov d a rb s
  | .tnpin d a => Sys2Proof.Machine.execTnpin d a s
  | .tnunpin d a => Sys2Proof.Machine.execTnunpin d a s
  | .tnevict d a => Sys2Proof.Machine.execTnevict d a s
  | .tnwait d a => Sys2Proof.Machine.execTnwait d a s
  | .tnstat d a => Sys2Proof.Machine.execTnstat d a s
  | .tld d a rb => Sys2Proof.Machine.execTld d a rb s
  | .tst d a rb => Sys2Proof.Machine.execTst d a rb s
  | .tzero d => Sys2Proof.Machine.execTzero d s
  | .mma d a rb => Sys2Proof.Machine.execMma d a rb s
  | .mmaz d a rb => Sys2Proof.Machine.execMmaz d a rb s
  | .mmar d a rb => Sys2Proof.Machine.execMmar d a rb s
  | .accz d => Sys2Proof.Machine.execAccz d s
  | .accld d a rb => Sys2Proof.Machine.execAccld d a rb s
  | .draina d a rb => Sys2Proof.Machine.execDraina d a rb s
  | .drains d a rb => Sys2Proof.Machine.execDrains d a rb s
  | .trnew d a => Sys2Proof.Machine.execTrnew d a s
  | .trroot d a rb => Sys2Proof.Machine.execTrroot d a rb s
  | .trdesc d a => Sys2Proof.Machine.execTrdesc d a s
  | .trexp d a rb => Sys2Proof.Machine.execTrexp d a rb s
  | .trback a rb => Sys2Proof.Machine.execTrback a rb s
  | .trreuse d a => Sys2Proof.Machine.execTrreuse d a s
  | .trfree a rb => Sys2Proof.Machine.execTrfree a rb s
  | .trleaf d a rb => Sys2Proof.Machine.execTrleaf d a rb s
  | .trstat d a k => Sys2Proof.Machine.execTrstat d a k s
  | .cxnew d a => Sys2Proof.Machine.execCxnew d a s
  | .cxtnew d a => Sys2Proof.Machine.execCxtnew d a s
  | .cxret a => Sys2Proof.Machine.execCxret a s
  | .cxset a => Sys2Proof.Machine.execCxset a s
  | .cxget d a => Sys2Proof.Machine.execCxget d a s
  | .cxpar d a => Sys2Proof.Machine.execCxpar d a s
  | .osend d a rb => Sys2Proof.Machine.execOsend d a rb s
  | .usend d a rb => Sys2Proof.Machine.execUsend d a rb s
  | .pstatr d a => Sys2Proof.Machine.execPstatr d a s
  | .bwait d a => Sys2Proof.Machine.execBwait d a s
  | .btry d a => Sys2Proof.Machine.execBtry d a s
  | .orecv d a rb => Sys2Proof.Machine.execOrecv d a rb s
  | .opeek d a => Sys2Proof.Machine.execOpeek d a s
  | .ostamp d k => Sys2Proof.Machine.execOstamp d k s
  | .owm d a => Sys2Proof.Machine.execOwm d a s
  | .nop => Sys2Proof.Machine.execNop s
  | .exit => Sys2Proof.Machine.execExit s
  | .eret => Sys2Proof.Machine.execEret s
  | .yield => Sys2Proof.Machine.execYield s
  | .ret => Sys2Proof.Machine.execRet s
  | .tclr => Sys2Proof.Machine.execTclr s
  | .pfree => Sys2Proof.Machine.execPfree s
  | .groupRetire k => Sys2Proof.Machine.execGroupRetire k s
  | .donateTransfer donor taker => Sys2Proof.Machine.execDonateTransfer donor taker s
  | .loadCompletion op => Sys2Proof.Machine.execLoadCompletion op s
  | .storePerformed op => Sys2Proof.Machine.execStorePerformed op s
  | .atomicCompletion op => Sys2Proof.Machine.execAtomicCompletion op s
  | .hostAtomicCompletion op st => Sys2Proof.Machine.execHostAtomicCompletion op st s
  | .hostCompletionTimeout op => Sys2Proof.Machine.execHostCompletionTimeout op s
  | .copyCompletion op => Sys2Proof.Machine.execCopyCompletion op s
  | .engineAccept op => Sys2Proof.Machine.execEngineAccept op s
  | .tileCompletion op => Sys2Proof.Machine.execTileCompletion op s
  | .mmaCompletion op => Sys2Proof.Machine.execMmaCompletion op s
  | .mmarAllowance op second => Sys2Proof.Machine.execMmarAllowance op second s
  | .drainCompletion op => Sys2Proof.Machine.execDrainCompletion op s
  | .reelStep op => Sys2Proof.Machine.execReelStep op s
  | .parkedReplay k => Sys2Proof.Machine.execParkedReplay k s
  | .faultQueueRoom part => Sys2Proof.Machine.execFaultQueueRoom part s
  | .waitaTimeout k => Sys2Proof.Machine.execWaitaTimeout k s
  | .bwaitTimeout k => Sys2Proof.Machine.execBwaitTimeout k s
  | .orecvTimeout k => Sys2Proof.Machine.execOrecvTimeout k s
  | .reclaimComplete tag => Sys2Proof.Machine.execReclaimComplete tag s
  | .moveCompletes part handle => Sys2Proof.Machine.execMoveCompletes part handle s
  | .moveFails part handle => Sys2Proof.Machine.execMoveFails part handle s
  | .evictionEnd part handle => Sys2Proof.Machine.execEvictionEnd part handle s
  | .pageReadIssue launch => Sys2Proof.Machine.execPageReadIssue launch s
  | .pageLanding launch page r => Sys2Proof.Machine.execPageLanding launch page r s
  | .distaffBoundExpiry launch page retries => Sys2Proof.Machine.execDistaffBoundExpiry launch page retries s
  | .nvmeReadCompletion launch page st data => Sys2Proof.Machine.execNvmeReadCompletion launch page st data s
  | .nvmeTimeout launch page => Sys2Proof.Machine.execNvmeTimeout launch page s
  | .memoryPageCopy launch spindle => Sys2Proof.Machine.execMemoryPageCopy launch spindle s
  | .placement launch spindle => Sys2Proof.Machine.execPlacement launch spindle s
  | .activeSwap spindle lane => Sys2Proof.Machine.execActiveSwap spindle lane s
  | .promotion k => Sys2Proof.Machine.execPromotion k s
  | .teamSwapOut t => Sys2Proof.Machine.execTeamSwapOut t s
  | .teamSwapIn t => Sys2Proof.Machine.execTeamSwapIn t s
  | .timeSliceExpiry part => Sys2Proof.Machine.execTimeSliceExpiry part s
  | .deferralLimitExpiry t => Sys2Proof.Machine.execDeferralLimitExpiry t s
  | .teamSave t => Sys2Proof.Machine.execTeamSave t s
  | .teamRestore t => Sys2Proof.Machine.execTeamRestore t s
  | .quantumEnd launch => Sys2Proof.Machine.execQuantumEnd launch s
  | .syncOpEffect k => Sys2Proof.Machine.execSyncOpEffect k s
  | .launch part q => Sys2Proof.Machine.execLaunch part q s
  | .move part q => Sys2Proof.Machine.execMove part q s
  | .copyPacket part q => Sys2Proof.Machine.execCopyPacket part q s
  | .signal part q => Sys2Proof.Machine.execSignal part q s
  | .waitPacket part q => Sys2Proof.Machine.execWaitPacket part q s
  | .bundle part q => Sys2Proof.Machine.execBundle part q s
  | .completionRecord packet => Sys2Proof.Machine.execCompletionRecord packet s
  | .createq fn a => Sys2Proof.Machine.execCreateq fn a s
  | .resetq fn q => Sys2Proof.Machine.execResetq fn q s
  | .destroyq fn q => Sys2Proof.Machine.execDestroyq fn q s
  | .setasid fn asid home gpa bar2 => Sys2Proof.Machine.execSetasid fn asid home gpa bar2 s
  | .sets2 fn part home rootHome rootPa => Sys2Proof.Machine.execSets2 fn part home rootHome rootPa s
  | .tlbinv fn what => Sys2Proof.Machine.execTlbinv fn what s
  | .faultq fn addr log2 => Sys2Proof.Machine.execFaultq fn addr log2 s
  | .faultrespReplay fn id => Sys2Proof.Machine.execFaultrespReplay fn id s
  | .faultrespFail fn id => Sys2Proof.Machine.execFaultrespFail fn id s
  | .eventq fn addr log2 => Sys2Proof.Machine.execEventq fn addr log2 s
  | .quota fn part res idx value => Sys2Proof.Machine.execQuota fn part res idx value s
  | .cellstore fn home cells => Sys2Proof.Machine.execCellstore fn home cells s
  | .regtensor fn a => Sys2Proof.Machine.execRegtensor fn a s
  | .unregtensor fn handle => Sys2Proof.Machine.execUnregtensor fn handle s
  | .preempt fn q => Sys2Proof.Machine.execPreempt fn q s
  | .keyset fn key => Sys2Proof.Machine.execKeyset fn key s
  | .keyclr fn key => Sys2Proof.Machine.execKeyclr fn key s
  | .power fn state warn => Sys2Proof.Machine.execPower fn state warn s
  | .fwload fn addr len commit => Sys2Proof.Machine.execFwload fn addr len commit s
  | .attest fn nonce report cert => Sys2Proof.Machine.execAttest fn nonce report cert s
  | .nvmepass fn drive cmd cpl => Sys2Proof.Machine.execNvmepass fn drive cmd cpl s
  | .nvmepassCompletion drive entry => Sys2Proof.Machine.execNvmepassCompletion drive entry s
  | .ringbind fn ring part asid va log2 logical => Sys2Proof.Machine.execRingbind fn ring part asid va log2 logical s
  | .ringfree fn ring => Sys2Proof.Machine.execRingfree fn ring s
  | .importBind fn srcDev srcPart part asid => Sys2Proof.Machine.execImportBind fn srcDev srcPart part asid s
  | .importRemove fn srcDev srcPart => Sys2Proof.Machine.execImportRemove fn srcDev srcPart s
  | .nvmeto fn drive ms => Sys2Proof.Machine.execNvmeto fn drive ms s
  | .fabricMessageArrival port m => Sys2Proof.Machine.execFabricMessageArrival port m s
  | .beaconArrival port w lw => Sys2Proof.Machine.execBeaconArrival port w lw s
  | .unorderedArrival port m => Sys2Proof.Machine.execUnorderedArrival port m s
  | .orderedDelivery => Sys2Proof.Machine.execOrderedDelivery s
  | .beaconTimer port => Sys2Proof.Machine.execBeaconTimer port s
  | .timeBeacon time => Sys2Proof.Machine.execTimeBeacon time s
  | .portStall port => Sys2Proof.Machine.execPortStall port s
  | .pause port c on => Sys2Proof.Machine.execPause port c on s
  | .peerRequest srcDev srcPart phome off acc => Sys2Proof.Machine.execPeerRequest srcDev srcPart phome off acc s
  | .portAdmit port => Sys2Proof.Machine.execPortAdmit port s
  | .portFence port => Sys2Proof.Machine.execPortFence port s
  | .fabdropClear v => Sys2Proof.Machine.execFabdropClear v s
  | .linkdown l => Sys2Proof.Machine.execLinkdown l s
  | .bar2Access fn off acc => Sys2Proof.Machine.execBar2Access fn off acc s
  | .cxlMemAccess off acc => Sys2Proof.Machine.execCxlMemAccess off acc s
  | .gcmdStop spindle => Sys2Proof.Machine.execGcmdStop spindle s
  | .gcmdResume spindle team => Sys2Proof.Machine.execGcmdResume spindle team s
  | .gcmdStep spindle => Sys2Proof.Machine.execGcmdStep spindle s
  | .prctlClr spindle freeze => Sys2Proof.Machine.execPrctlClr spindle freeze s
  | .groupWindowWrite spindle off v => Sys2Proof.Machine.execGroupWindowWrite spindle off v s
  | .traceEnable spindle ctl => Sys2Proof.Machine.execTraceEnable spindle ctl s
  | .syncSet spindle => Sys2Proof.Machine.execSyncSet spindle s
  | .traceRecordWrite spindle => Sys2Proof.Machine.execTraceRecordWrite spindle s
  | .breakpointStop k => Sys2Proof.Machine.execBreakpointStop k s
  | .coreDump t => Sys2Proof.Machine.execCoreDump t s
  | .hankMirror => Sys2Proof.Machine.execHankMirror s
  | .thermwarn die temp => Sys2Proof.Machine.execThermwarn die temp s
  | .thermtrip die temp => Sys2Proof.Machine.execThermtrip die temp s
  | .fundamentalReset => Sys2Proof.Machine.execFundamentalReset s
  | .functionLevelReset part => Sys2Proof.Machine.execFunctionLevelReset part s
  | .registerWrite r v => Sys2Proof.Machine.execRegisterWrite r v s
  | .illegalWord w => Sys2Proof.Machine.execIllegalWord w s
  | .outOfSectionFetch addr => Sys2Proof.Machine.execOutOfSectionFetch addr s
  | .powerLoss => Sys2Proof.Machine.execPowerLoss s
  | .linkTrained port peerDev peerPort => Sys2Proof.Machine.execLinkTrained port peerDev peerPort s
  | .unusedSlot spindle quad => Sys2Proof.Machine.execUnusedSlot spindle quad s

end Sys2Proof.Machine
end

