-- ==== Sys2Proof/Machine/HostRead.lean ====
section
/-! DEFINITION. What the host reads of the device's registers (R350, R359, R386, R389, R390, R397-R400, R402, R407, R408). A read changes
nothing, so it is no step: each register is a view of the state. -/

namespace Sys2Proof.Machine

/-- The code of a port's state (R350). -/
def PortSt.code : PortSt → Nat
  | .fenced => 0
  | .joining => 1
  | .live => 2
  | .stalled => 3

/-- PORTST (R350); PAUSED says that the hold buffer is full (R338, log 33). -/
def portStatus (s : State) (p : Port) : Nat := p.st.code + bitOf (pausesIn s && p.link) * 2 ^ 10 + bitOf p.link * 2 ^ 11 + p.peerPort % 16 * 2 ^ 20 + p.peerDev % 256 * 2 ^ 24 + p.late % 2 ^ 32 * 2 ^ 32

/-- FABCTL (R350). -/
def fabctl (s : State) : Nat := s.devId + bitOf s.tmaster * 2 ^ 8 + bitOf (ordStalled s) * 2 ^ 9 + bitOf s.synced * 2 ^ 10 + s.stallUs * 2 ^ 32

/-- A read in the fabric block, at an offset from its base (R350). -/
def readFabric (off : Nat) (s : State) : Nat :=
  if off = 0 then fabctl s
  else if off = 8 then s.dropUnbound.toNat + s.dropKind.toNat * 2 ^ 32
  else if 0x100 ≤ off ∧ off < 0x300 then
    let p := portOf s ((off - 0x100) / 32)
    match (off - 0x100) % 32 with
    | 0x00 => portStatus s p
    | 0x08 => p.w
    | 0x18 => p.lw
    | _ => 0
  else if 0x1000 ≤ off ∧ off < 0x1800 ∧ off % 8 = 0 then (mget s.routes ((off - 0x1000) / 8)).toNat
  else 0

/-- TEMP: the highest junction temperature (R359). -/
def highestTemp (s : State) : Nat := s.temp.foldl (fun m x => max m x.2.toNat) 0

/-- RECOV (R359, R376). -/
def recov (s : State) : Nat := match s.firmware.recovery with | some r => 1 + r.toNat * 2 ^ 8 | none => 0

/-- The value of a register in BAR 0 of a function (R359); a VF reads the PF's blocks as 0. -/
def bar0Val (fn : Fn) (off : Nat) (s : State) : DWord :=
  let r := fnOf s fn
  if off = 0 then r.mgBase
  else if off = 8 then BitVec.ofNat 64 r.mgSize
  else if off = 0x10 then r.mgDb.setWidth 64
  else if off = 0x18 then r.mgRd.setWidth 64
  else if 0x1000 ≤ off ∧ off < 0x1200 ∧ off % 8 = 0 then
    match s.queues.find? fun c => c.part = fn.part ∧ c.q = (off - 0x1000) / 8 ∧ c.hub = fn.hub with
    | some c => c.wr.setWidth 64
    | none => 0
  else if fn.part ≠ 0 then 0
  else if 0x4000 ≤ off ∧ off < 0xC000 then BitVec.ofNat 64 (readFabric (off - 0x4000) s)
  else if off = 0xC000 then BitVec.ofNat 64 (highestTemp s)
  else if off = 0xC008 then s.power
  else if off = 0xC010 then BitVec.ofNat 64 s.pstate
  else if off = 0xF000 then BitVec.ofNat 64 (recov s)
  else 0

/-- A read of 8 bytes in BAR 0 of a function. A device that is off answers nothing but UR, and one in P4 answers as its registers take writes
(R379, R381, log 40). -/
def readBar0 (fn : Fn) (off : Nat) (s : State) : Reply :=
  if s.off ∨ (s.pstate = 4 ∧ ¬ (fn.part = 0 ∧ off < 0x20)) then .ur else .data (toBytes (bar0Val fn off s).toNat 8)

/-- The group slots of a spindle that hold a stopped group, lowest first (R394, R399). -/
def stoppedSlots (s : State) (n : Nat) : List Nat :=
  (List.range 128).filter fun i => (residentOn s n).any fun g => groupSlot g = i && g.stopped

/-- DBGST (R399). -/
def dbgst (s : State) (n : Nat) : Nat :=
  let l := stoppedSlots s n
  l.length + l.headD 0 * 2 ^ 8 + bitOf (!l.isEmpty) * 2 ^ 16 + bitOf (dbgOf s n).trfull * 2 ^ 17

/-- A read of the group window: the selected group's section body, while that is stopped (R400, R405); TIME reads as R35 has it, which R412 changes in a
dump alone. -/
def readWindow (n off : Nat) (s : State) : Nat :=
  match selected s n with
  | some g =>
    if !g.stopped then 0
    else if off = 8 * 19 then (specialVal (checkout g.key s) g g.tgroup 19).toNat
    else ofBytes (((groupBody g.key false s).drop off).take 8)
  | none => 0

/-- A read in the debug block of a spindle (R386, R389, R390, R397-R400). -/
def readDbg (n off : Nat) (s : State) : DWord :=
  let d := dbgOf s n
  if off = 0 then d.ctl.setWidth 64
  else if off = 8 then BitVec.ofNat 64 (dbgst s n)
  else if off = 0x10 then d.gsel.setWidth 64
  else if off = 0x20 then d.trbase
  else if off = 0x28 then BitVec.ofNat 64 d.trsize
  else if off = 0x30 then d.trwp
  else if off = 0x38 then d.trq.setWidth 64
  else if off = 0x40 then BitVec.ofNat 64 (bitOf d.freeze * 2)
  else if 0x80 ≤ off ∧ off < 0x100 then mget (if off % 16 = 0 then d.wpaddr else d.wpcfg) ((off - 0x80) / 16)
  else if 0x100 ≤ off ∧ off < 0x140 then mget (if off % 16 = 0 then d.bpaddr else d.bpcfg) ((off - 0x100) / 16)
  else if 0x200 ≤ off ∧ off < 0x600 then mget d.counters ((off - 0x200) / 8)
  else if 0x8000 ≤ off ∧ off < 0xC540 then BitVec.ofNat 64 (readWindow n (off - 0x8000) s)
  else 0

/-- Whether a dump of a partition has begun and not ended (R402, R403). -/
def dumpBusy (s : State) (part : Nat) : Bool :=
  (allTeams s).any fun t => t.dumping && (match findGrid s t.key.launch with | some d => d.part = part | none => false)

/-- The words of a partition's dump registers (R402). -/
def readDump4 (s : State) (p : Partition) (off : Nat) : DWord :=
  if off = 0 then BitVec.ofNat 64 (bitOf p.dmpEn + p.dmpAsid.toNat * 2 ^ 16)
  else if off = 8 then p.dmpVa
  else if off = 16 then p.dmpSize
  else BitVec.ofNat 64 (p.dmpTaken.toNat + bitOf p.dmpTrunc * 2 ^ 16 + bitOf p.dmpNested * 2 ^ 17 + bitOf (dumpBusy s p.id) * 2 ^ 18 + p.dmpMissed.toNat * 2 ^ 24 + p.dmpBytes.toNat * 2 ^ 32)

/-- The 256 bits of a hank record (R408). -/
def hankBits (r : HankRec) : Nat :=
  r.kind.toNat + r.part.toNat * 2 ^ 8 + r.sev.toNat * 2 ^ 16 + r.die.toNat * 2 ^ 20 + r.boot.toNat * 2 ^ 24 + r.seq % 2 ^ 32 * 2 ^ 32 + r.info0.toNat * 2 ^ 64 +
    r.info1.toNat * 2 ^ 128 + r.time.toNat * 2 ^ 192

/-- A read in the device block (R402, R407): a slot that no record has reached reads 0. -/
def readDevice (off : Nat) (s : State) : DWord :=
  if off = 0 then BitVec.ofNat 64 s.hankHead
  else if 0x100 ≤ off ∧ off < 0x100 + 65 * 32 then readDump4 s (partOf s ((off - 0x100) / 32)) ((off - 0x100) % 32)
  else if 0x10000 ≤ off ∧ off < 0x10000 + 4096 * 32 then
    match s.hank.find? fun r => r.seq % 4096 = (off - 0x10000) / 32 with
    | some r => BitVec.ofNat 64 (hankBits r / 2 ^ (8 * ((off - 0x10000) % 32)))
    | none => 0
  else 0

/-- A read of `n` bytes in the debug window; a misaligned one or another width completes with UR (R386), and so does each while the device is off or
in P4 (R379, R381, log 40). -/
def readBar4 (off n : Nat) (s : State) : Reply :=
  if s.off ∨ s.pstate = 4 ∨ off % 8 ≠ 0 ∨ n ≠ 8 then .ur
  else if off < 576 * 0x10000 then .data (toBytes (readDbg (off / 0x10000) (off % 0x10000) s).toNat 8)
  else if 0x03000000 ≤ off then .data (toBytes (readDevice (off - 0x03000000) s).toNat 8)
  else .data (toBytes 0 8)

/-- The place of a register file that a read at an offset of the group window reads (R405). -/
def windowCell (k : GKey) (off : Nat) : Option Loc :=
  if 0x140 ≤ off && off < 0x540 then some ⟨.sfile k, off - 0x140, 0⟩ else if 0x540 ≤ off then some ⟨.vfile k, off - 0x540, 0⟩ else none

/-- What a read of the debug window leaves: the hank learns of the uncorrectable errors in the register that a stopped group's window reads (R257, R400),
and the free values in their place are spent. -/
def noteWindow (off : Nat) (s : State) : State :=
  if 576 * 0x10000 ≤ off || off % 0x10000 < 0x8000 || 0xC540 ≤ off % 0x10000 then s
  else match selected s (off / 0x10000) with
  | some g =>
    (match (if g.stopped then windowCell g.key (off % 0x10000 - 0x8000) else none) with
    | some l =>
      (s.ecc.filter fun e => e.space = l.space && decide (l.off ≤ e.off) && decide (e.off < l.off + 8)).foldl (fun x e => hankEcc (((findGrid s g.key.launch).map (·.part)).getD 0) e x)
        { s with fresh := s.fresh + 2 ^ 21 }
    | none => s)
  | none => s

/-- A read in the debug window by the host: its answer, and what it leaves (R386, R400). -/
def debugRead (off n : Nat) (s : State) : State :=
  match readBar4 off n s with
  | .data bs => reply (.data bs) (noteWindow off s)
  | r => reply r s

end Sys2Proof.Machine
end

