-- ==== Sys2Proof/Machine/Run.lean ====
section
/-! DEFINITION. Which agent moves next, and what an issue slot of a group does before its instruction's meaning (R50, R290, R296, R315-R319,
R387, R398). -/

namespace Sys2Proof.Machine

/-- A trap that another group's handler posted is taken when the group resumes (R296). An instruction at which the group resumed from a stop
has still to be executed without a breakpoint (R398, R401). -/
def takePosted (c : BitVec 8 × DWord) (s : State) : State :=
  decodeTrap c.1 c.2 s.grp.pc 0 false (onGrp (fun g => { g with posted := none }) s)

/-- Whether a group stands inside an instruction: one that has taken a first effect and waits, or a parked one that is replayed. It goes on
with that instruction although it is halted or stopped (R121, R396). -/
def inside (g : Group) : Bool := g.wait.begun || (g.park.isSome && g.replayMask.isSome)

/-- Whether the issuing group may go on. -/
def mayGo (s : State) : Bool := mayIssue s s.grp || (inside s.grp && s.grp.phase = .running && teamIssues s s.grp.key)

/-- The instruction that the issuing group fetches, run; a word that is none and a fetch outside the section have steps of their own
(R50, R56). -/
noncomputable def runFetched (s : State) : Res :=
  match fetchWord s with
  | none => execOutOfSectionFetch s.grp.pc s
  | some w => match decode w.toNat with
    | some i => exec i s
    | none => execIllegalWord w s

/-- What a group does when it is its turn. -/
inductive Turn where
  | nothing
  | leave        -- no thread of it is live any more: it retires as at EXIT (R24, R295)
  | report       -- the hits of an instruction that a handler has abandoned are reported (R293, R295)
  | stop         -- a PC breakpoint stops it (R398, R401)
  | replay       -- the replay of a parked instruction begins (R290)
  | posted (c : BitVec 8 × DWord)   -- a posted trap is taken; of a replay that has not completed, after it (R296)
  | runs         -- the instruction at PC runs
deriving DecidableEq, Repr

/-- See `Turn`. -/
def turnOf (s : State) : Turn :=
  let g := s.grp
  if !mayGo s then .nothing
  else if g.live = 0 && !inside g then .leave
  else if atBoundary g && g.replayMask.isNone && g.hits.isSome then .report
  else if bpStops s then .stop
  else if g.park.isSome && g.replayMask.isNone then .replay
  else match (if inside g || g.intrap || g.replayMask.isSome then none else g.posted) with
    | some c => .posted c
    | none => .runs

/-- What the issuing group does next (see `Turn`). -/
noncomputable def issueSlot (s : State) : Res :=
  match turnOf s with
  | .nothing => .next s
  | .leave => .next (leaveIssue s)
  | .report => .next (afterRetire s)
  | .stop => execBreakpointStop s.grp.key s
  | .replay => execParkedReplay s.grp.key s
  | .posted c => .next (takePosted c s)
  | .runs => runFetched s

/-- The stall in which an attempt of a group has ended; a group that has parked has issued (R290). -/
def stallOf (t : State) (k : GKey) : Option Reason :=
  match (findGroup t k).map fun g : Group => g.wait with
  | some (.stall .pagefault) => none
  | some (.stall r) => some r
  | _ => none

/-- Whether an attempt of a group has ended in a stall, so that nothing has issued. -/
def onlyStalled (t : State) (k : GKey) : Bool := (stallOf t k).isSome

/-- The eligible groups of the active set in a group's quad, itself among them (R387). -/
def slotBin (s : State) : Nat :=
  ((inQuad s s.team.spindle s.grp.quad).filter fun g => g.set = .active && (g.key = s.grp.key || eligible s g)).length

/-- A slot of a quad has issued (R319, R387, R389). -/
def slotIssued (spindle quad bin : Nat) (k : GKey) (s : State) : State :=
  count spindle quad (3 + bin) (count spindle quad 1 (count spindle quad 0
    (updGroup k (fun g => { g with eligCycles := 0, promoted := none }) s)))

/-- An outcome with something done to its next state. -/
def thenDo (f : State → State) : Res → Res
  | .next s => .next (f s)
  | .fault x => .fault x
  | .refused x => .refused x

/-- The instruction at the issuing group's PC. -/
noncomputable def nextInstr (s : State) : Option Instr := (fetchWord s).bind fun w => decode w.toNat

/-- The cycles that each acting thread of a vector instruction takes in its lane (R125, R260). -/
def threadCycles : Instr → Nat
  | .vfrcp _ _ _ => 2
  | .vfrsq _ _ _ => 2
  | .vfexp2 _ _ _ => 2
  | .vflog2 _ _ _ => 2
  | .vfdiv _ _ _ _ => 4
  | .vfsqrt _ _ _ => 4
  | .vdadd _ _ _ _ => 4
  | .vdsub _ _ _ _ => 4
  | .vdmul _ _ _ _ => 4
  | .vdfma _ _ _ _ => 4
  | .vdmin _ _ _ _ => 4
  | .vdmax _ _ _ _ => 4
  | .vdceq _ _ _ _ => 4
  | .vdclt _ _ _ _ => 4
  | .vdcle _ _ _ _ => 4
  | .vddiv _ _ _ _ => 16
  | .vdsqrt _ _ _ => 16
  | .vcvt _ _ _ c => if c.toNat ≤ 1 || (0x10 ≤ c.toNat && c.toNat ≤ 0x17) then 2 else 1
  | _ => 1

/-- The cycles that the issuing group's next instruction takes in its lane: none for a scalar-class one (R92, R125), for every live thread of
VSEL (R136), 32 for VREDFADD. -/
noncomputable def laneCycles (s : State) : Nat :=
  match nextInstr s with
  | some (.vredfadd _ _ _) => 32
  | some (.vsel _ _ _ _) => (threads (actOf s.grp 0)).length
  | some i => (match i.guard with | some gd => threadCycles i * (threads (actOf s.grp gd)).length | none => 0)
  | none => 0

/-- Whether the issuing group's next instruction passes decode, so that it executes (R63). -/
noncomputable def executes (s : State) : Bool :=
  match nextInstr s with
  | some i => s.grp.decoded.isSome || (decodeFault (checksOf i) s).isNone
  | none => false

/-- Charges a lane (R125): with what a merged pair's first half has charged it (R317). -/
def charge (lane n : Nat) (s : State) : State :=
  if n = 0 then s else { s with laneBusy := mset s.laneBusy lane (BitVec.ofNat 64 (max (mget s.laneBusy lane).toNat s.cycles + 10 * n)) }

/-- The lane cycles of the issuing group's next instruction, charged to its lane in the state that its issue leaves. -/
noncomputable def chargeFor (s t : State) : State := if executes s then charge (laneOf s s.grp) (laneCycles s) t else t

/-- An issue slot of the issuing group, which holds its lane's active place: it counts, and charges its lane, where an instruction has
issued (R125, R387). -/
noncomputable def activeSlot (s : State) : Res :=
  thenDo (fun t => if turnOf s != .runs || onlyStalled t s.grp.key then t
    else slotIssued s.team.spindle s.grp.quad (slotBin s) s.grp.key (chargeFor s t)) (issueSlot s)

/-- The guard of the instruction that a group has next, where it acts per thread (R52, R55). -/
noncomputable def nextGuard (s : State) : Option (BitVec 2) := (nextInstr s).bind Instr.guard

/-- Whether an active and a pending group may issue as a merged pair (R317): at a replay too, the act set is LIVE & guard. -/
noncomputable def mayMerge (s : State) (a b : Group) : Bool :=
  a.set = .active && b.set = .pending && sameLane s a b && eligible s a && eligible s b && a.key.launch = b.key.launch && a.pc = b.pc &&
    !a.intrap && !b.intrap && a.haltedBy.isEmpty && b.haltedBy.isEmpty && turnOf (checkout a.key s) = .runs && turnOf (checkout b.key s) = .runs &&
    (match nextGuard (checkout a.key s) with
    | some gd => guardOf a gd &&& guardOf b gd = 0
    | none => false)

/-- The eligible groups of the active set in a quad. -/
def readyIn (s : State) (spindle quad : Nat) : List Group := (inQuad s spindle quad).filter fun g => g.set = .active && eligible s g

/-- The oldest of a list of groups (R316). -/
def oldest (gs : List Group) : Option Group :=
  gs.foldl (fun m g => match m with | none => some g | some x => if g.age < x.age then some g else some x) none

/-- The longest promoted of a list of groups (R316, R319). -/
def firstPromoted (gs : List Group) : Option Group :=
  (gs.filter fun g => g.promoted.isSome).foldl (fun m g => match m with
    | none => some g
    | some x => if g.promoted.getD 0 < x.promoted.getD 0 then some g else some x) none

/-- The active groups of a list that may issue in a merged pair. -/
noncomputable def pairing (s : State) (gs : List Group) : List Group := gs.filter fun a => (allGroups s).any fun b => mayMerge s a b

/-- What a quad's slot issues (R316): the key of an active group, and whether it issues in a merged pair. -/
noncomputable def slotPick (s : State) (spindle quad : Nat) : Option (GKey × Bool) :=
  let gs := readyIn s spindle quad
  match firstPromoted gs with
  | some g => some (g.key, false)
  | none => match oldest (pairing s gs) with
  | some g => some (g.key, true)
  | none => (oldest gs).map fun g => (g.key, false)

/-- The promotions that are due in a quad come before its next slot, the longest promoted first (R319). -/
def promoteDue (spindle quad : Nat) (s : State) : State :=
  (sortBy (fun g => g.promoted.getD s.nextPromo) ((inQuad s spindle quad).filter fun g => g.promoted.isSome || decide (40960 ≤ g.eligCycles))).foldl
    (fun s g => promote g.key s) s

/-- The quad of a group: its spindle and its number there. -/
def quadOf (s : State) (k : GKey) : Nat × Nat :=
  (((findTeam s (tkeyOf k)).map (·.spindle)).getD 0, ((findGroup s k).map (·.quad)).getD 0)

/-- Whether a slot of a group's quad issues that group alone (R316). -/
noncomputable def picked (s : State) (k : GKey) : Bool := slotPick s (quadOf s k).1 (quadOf s k).2 = some (k, false)

/-- A group whose stall has ended is eligible again. -/
def stallOver (k : GKey) (s : State) : State := updGroup k (fun g => { g with wait := .none }) s

/-- Group `k` goes on. Inside an instruction that waits, and to begin a replay, it needs no place in its lane. An instruction issues only
from the active place, in the slot that R316 gives the group; the attempt of a stalled group tells whether its stall goes on. -/
noncomputable def issueOf (k : GKey) (s : State) : Res :=
  let s := promoteDue (quadOf s k).1 (quadOf s k).2 s
  let s := checkout k s
  let g := s.grp
  if g.key ≠ k then .next s
  else if g.wait.begun || (replaying s g && !mayIssue s g) || (turnOf s != .runs && turnOf s != .stop) then issueSlot s
  else match g.wait with
  | .stall _ => (match issueSlot s with
    | .next t =>
      if onlyStalled t k then .next t
      else if g.set = .active && picked (stallOver k s) k then activeSlot s
      else .next (stallOver k s)
    | r => r)
  | _ => if picked s k then activeSlot s else .next s

/-- A merged pair issues in one slot (R316, R317, R387): each half is its own instruction. Where the first half only stalls there is no pair;
where its failure ends the team, the partner's half has been executed all the same (R65). -/
noncomputable def pairSlot (ka kb : GKey) (s : State) : Res :=
  let s := promoteDue (quadOf s ka).1 (quadOf s ka).2 s
  match findGroup s ka, findGroup s kb with
  | some a, some b =>
    if !mayMerge s a b || slotPick s (quadOf s ka).1 (quadOf s ka).2 != some (ka, true) then .next s
    else
      let first := checkout ka s
      let second := fun t => chargeFor (checkout kb s) (updGroup kb (fun g => { g with eligCycles := 0, promoted := none })
        (count first.team.spindle a.quad 2 t))
      (match activeSlot first with
      | .next t =>
        if onlyStalled t ka then .next t
        else if (findTeam t (tkeyOf ka)).any fun x => x.phase = .running then
          thenDo (fun v => if onlyStalled v kb then v else second v) (issueSlot (checkout kb t))
        else (match issueSlot (checkout kb s) with
          | .next u =>
            if onlyStalled u kb || !(findTeam u (tkeyOf ka)).any fun x => x.phase = .running then .next t
            else thenDo second (activeSlot (checkout ka u))
          | _ => .next t)
      | r => r)
  | _, _ => .next s

/-- A stall begins, or goes on. -/
def markStall (k : GKey) (r : Reason) (s : State) : State :=
  updGroup k (fun g => { g with wait := .stall r, stallAt := if g.wait.stalled then g.stallAt else s.cycles }) s

/-- Whether group `k`'s next instruction stalls, as the group stands after a move (R316): the group that holds its lane's active place tries it, and a
stall of it has begun; of another group the stall alone is noted. A group inside an instruction that waits, one that can not issue, and one that has
something else to do first is left as it is. -/
noncomputable def refreshOne (s : State) (k : GKey) : State :=
  let t := checkout k s
  let g := t.grp
  if g.key ≠ k || g.wait.begun || !mayIssue s g || turnOf t != .runs then s
  else match issueSlot t with
  | .next u => (match stallOf u k with
    | some r => if g.set = .active && laneFree s g then checkout s.grp.key u else markStall k r s
    | none => if g.wait.stalled then stallOver k s else s)
  | _ => s

/-- See `refreshOne`. -/
noncomputable def refresh (s : State) : State := ((allGroups s).map (·.key)).foldl refreshOne s

/-- The tenths of arithmetic cycles in 0.5 ns, in the power state: in states 3 and 4 the clocks stand (R1, R379). -/
def cycleRate (pstate : Nat) : Nat := if pstate = 0 then 18 else if pstate = 1 then 15 else if pstate = 2 then 10 else 0

/-- How far the device's count moves toward the master's in the next `n` units: at most one in each 10,000 units that pass, which is 100 parts
in a million (R341, log 16). -/
def steerBy (s : State) (n : Nat) : Int :=
  let room : Int := (s.ticks + n) / 10000 - s.ticks / 10000
  max (-room) (min room s.steer)

/-- When the count of a group that may issue reaches 4096, where it does so while the cycles go on to `after` (R319). -/
def dueAt (s : State) (after : Nat) (g : Group) : Option Nat :=
  let t := max s.cycles (mget s.laneBusy (laneOf s g)).toNat + (40960 - g.eligCycles)
  if g.promoted.isNone && mayIssue s g && g.wait = .none && decide (t ≤ after) then some t else none

/-- The groups whose counts reach 4096 while the cycles go on are promoted in that order (R319). -/
def promoteBy (after : Nat) (s : State) : State :=
  (sortBy (·.1) ((allGroups s).filterMap fun g => (dueAt s after g).map fun t => (t, g.key))).foldl (fun s p => stampPromo p.2 s) s

/-- Time passes: pod time, the cycles in which each group could issue, its lane having spent its own (R1, R319), and the package's power, which nothing fixes (R359, log 3). -/
def tick (n : Nat) (s : State) : State :=
  let after := s.cycles + n * cycleRate s.pstate
  let s := promoteBy after s
  let s := updGroups (fun g => mayIssue s g && g.wait = .none)
    (fun g => { g with eligCycles := g.eligCycles + (after - max s.cycles (mget s.laneBusy (laneOf s g)).toNat) }) s
  nextFree { s with now := ((s.now : Int) + n + steerBy s n).toNat, ticks := s.ticks + n, steer := s.steer - steerBy s n, cycles := after, power := Config.freeDWord s.fresh &&& 0xFFFFFFFF }

/-- What goes on when an operation does, if it can: its completion, or the acceptance or commit that comes first. -/
def goOn (s : State) (o : Op) : Option Res :=
  if o.quantum.isSome && (match o.kind with | .drain _ _ _ _ _ none => false | _ => true) then
    (match o.owner with
    | .group k => if (firstCommit s k.launch).isSome then some (execQuantumEnd k.launch s) else none
    | .packet _ => none)
  else if o.kind.engine && o.accepted.isNone then (if mayAccept s o then some (execEngineAccept o.id s) else none)
  else match o.kind with
  | .load _ _ _ _ => (readyOp s o.id).map fun _ => execLoadCompletion o.id s
  | .sload _ _ _ => (readyOp s o.id).map fun _ => execLoadCompletion o.id s
  | .store _ _ _ => (readyOp s o.id).map fun _ => execStorePerformed o.id s
  | .amo _ _ _ => (readyOp s o.id).map fun _ => if o.host.isSome then execHostAtomicCompletion o.id .ok s else execAtomicCompletion o.id s
  | .samo _ _ _ _ _ => (readyOp s o.id).map fun _ => if o.host.isSome then execHostAtomicCompletion o.id .ok s else execAtomicCompletion o.id s
  | .copy j => if (readyOp s o.id).isSome && !awaitsRecord s o && !copyPaused s o j then some (execCopyCompletion o.id s) else none
  | .tld _ _ _ => (readyEngine s o.id).map fun _ => execTileCompletion o.id s
  | .tst _ _ _ => (readyEngine s o.id).map fun _ => execTileCompletion o.id s
  | .tzero _ => (readyEngine s o.id).map fun _ => execTileCompletion o.id s
  | .accz _ => (readyEngine s o.id).map fun _ => execTileCompletion o.id s
  | .accld _ _ _ _ => (readyEngine s o.id).map fun _ => execTileCompletion o.id s
  | .mma _ _ _ _ _ _ _ _ => (readyEngine s o.id).map fun _ => execMmaCompletion o.id s
  | .drain _ _ _ _ _ _ => (readyEngine s o.id).map fun _ => execDrainCompletion o.id s
  | .reel _ _ _ => if awaitsRecord s o || !(blockers s o).isEmpty then none else some (execReelStep o.id s)

/-- A group that tries again, and lets a little time pass: a stall of the active place, a test of another, a wait inside an instruction. -/
noncomputable def tryAgain (s : State) : Res :=
  let gs := (allGroups s).filter fun g => g.phase = .running && (mayIssue s g || inside g)
  match gs[s.now % max 1 gs.length]? with
  | some g => issueOf g.key (tick 1 s)
  | none => .next (tick 1 s)

/-- The slots that a quad with an eligible active group offers (R316): its group, or its pair with the first partner. -/
noncomputable def slotMove (s : State) (g : Group) : Res :=
  let q := quadOf s g.key
  let s := promoteDue q.1 q.2 s
  match slotPick s q.1 q.2 with
  | some (k, false) => activeSlot (checkout k s)
  | some (k, true) =>
    (match (allGroups s).find? fun b => (findGroup s k).any fun a => mayMerge s a b with
    | some b => pairSlot k b.key s
    | none => .next s)
  | none => .next s

/-- The move of a machine whose agenda is empty: a quad with an eligible active group issues, the issuing group's before others; else a
pending group takes its lane's place; else a parked instruction is replayed; else the oldest operation that can goes on, and a unit of time passes; else a group at
EXIT retires; else a waiting group tries again, or time passes (log 2). -/
noncomputable def moveDefault (s : State) : Res :=
  if eligible s s.grp && s.grp.set = .active then slotMove s s.grp
  else match s.groups.find? fun g => g.set = .active && eligible s g with
  | some g => slotMove s g
  | none => match (allGroups s).find? fun g => g.set = .pending && eligible s g && (placeEmpty s g || (allGroups s).any fun a =>
      a.set = .active && sameLane s g a && !eligible s a && swapsOut s a) with
  | some g => execActiveSwap ((findTeam s (tkeyOf g.key)).map (·.spindle) |>.getD 0) (g.laneInQuad * 4 + g.quad) s
  | none => match (allGroups s).find? fun g => g.replayMask.isNone && (g.park.map (·.eligible)) = some true && teamIssues s g.key with
  | some g => execParkedReplay g.key s
  | none => match s.ops.findSome? (goOn s) with
  | some r => thenDo (tick 1) r
  | none => match (allGroups s).find? fun g => mayLeave g && teamRuns s g.key with
  | some g => execGroupRetire g.key s
  | none => tryAgain s

/-- One move of the agenda. -/
noncomputable def runMove (m : Move) (s : State) : Res :=
  match m with
  | .event i => if i.isWord then .fault .notAnEvent else exec i s
  | .issue k => issueOf k s
  | .pair a b => pairSlot a b s
  | .tick n => .next (tick n s)
  | .debugRead off n => .next (debugRead off n s)

/-- A device that is off: nothing happens before a fundamental reset (R381, R410). -/
def moveOff (s : State) : Res :=
  match s.agenda with
  | .event .fundamentalReset :: rest => execFundamentalReset { s with agenda := rest }
  | _ :: rest => .next { s with agenda := rest }
  | [] => .next s

/-- The teams that have waited for the sends of their groups alone are released (R242, R246). -/
def finishTeams (s : State) : State := ((allTeams s).map (·.key)).foldl (fun s k => finishTeam k s) s

/-- What follows a move at once: a save that is due begins (R322), a packet's request on a tensor that is next in line is applied (R273), the outputs
send what they can (R338, R345), what has waited for that ends, stalls begin and end (R316), and an active place that is empty goes to a pending group
(R315). While the hub and the fabric are off nothing does (R379). -/
noncomputable def settle (s : State) : State :=
  if dark s then s else fillPlaces (refresh (postHalts (finishTeams (pump (releasePeers (serveMoves (beginSaves s)))))))

/-- The next move of the device: the head of the agenda, which is spent, else the default (log 2). -/
noncomputable def moveNext (s : State) : Res :=
  if s.off then moveOff s
  else thenDo settle (match s.agenda with
  | m :: rest => runMove m { s with agenda := rest }
  | [] => moveDefault s)

end Sys2Proof.Machine
end

