-- ==== Sys2Proof/Machine/Step.lean ====
section
/-! DEFINITION. One step of the device, and the state whose next step runs a given instruction word. -/

namespace Sys2Proof.Machine

/-- One step: one move of one agent. -/
noncomputable def step (s : State) : Host.Outcome State Fault Refusal := moveNext s

/-- The state `s` with an instruction word where the next step fetches. -/
def State.withFetchWord (s : State) (nbits w : Nat) : State := placeWord (tableWord nbits w) s

end Sys2Proof.Machine
end

