-- ==== Sys2Proof/Safety.lean ====
section
/-! DEFINITION. The terms that the claims use: what counts as a safe run, when an instruction is executed normally, and what it means
that it completes with nothing changed but what is named. -/

namespace Sys2Proof.Machine

/-- The step answers a next state. -/
def Goes (s : State) : Prop := ∃ t, step s = .next t

/-- The canonical form of the memory of the homes and of everything reached through it (R237 calls its bytes locations). -/
abbrev State.memWf (s : State) : Prop := mwf s.mem

/-- A group with nothing left from an earlier instruction: no watchpoint hit to report, no single step, no counter held by a trapped
or parked instruction, no parked instruction and no replay, no address that another agent has given it for its next. -/
abbrev Group.Quiet (g : Group) : Prop :=
  g.hits = none ∧ g.stepping = false ∧ g.held = none ∧ g.park = none ∧ g.replayMask = none ∧ g.pcNext = none

/-- The issuing group executes `i` normally: it runs and does not wait, `i` passes every check of R63 (its classes and ranges, its
privilege, its registers, tiles, queues and gang), no outstanding operation will write a register that `i` names (R92), `i` has not waited for a
register whose load has met an uncorrectable error (R177, R179), and no register that it names holds one (R257). -/
abbrev Ready (i : Instr) (s : State) : Prop :=
  s.grp.phase = .running ∧ s.grp.wait = .none ∧ s.grp.Quiet ∧ decodeFault (checksOf i) s = none ∧ interlock (checksOf i) s = none ∧
    waitedEcc (checksOf i) s = none ∧ regErrs (checksOf i) s = []

/-- The group once an instruction has retired with `npc` the next one: PC, and CLK in user mode (R37). -/
def Group.goTo (npc : DWord) (g : Group) : Group :=
  { g with
    pc := npc, clk := if g.priv then g.clk else g.clk + 1, bpSkip := if g.intrap then g.bpSkip else none, decoded := none
    eccPend := g.eccPend.map EccDue.unnamed }

/-- `i` completes: the state it leaves is `s` with the issuing group `g`, at the next instruction. Memory, every other group, every team,
every grid and every other part of the device is as it was. -/
def Completes (i : Instr) (s : State) (g : Group) : Prop := exec i s = .next { s with grp := g.goTo (s.grp.pc + 4) }

/-- The same where `i` has changed other parts of the device: they are as in `t`. -/
def CompletesIn (i : Instr) (s t : State) (g : Group) : Prop := exec i s = .next { t with grp := g.goTo (s.grp.pc + 4) }

/-- `i` is issued and the group goes on: `kind` is the youngest outstanding operation, counted in class `c` (R33), with the orders
`acq` and `rel`; `u` is what the checks of its accesses leave of the device (the translation caches and new cells). A communication operation of
a deterministic launch waits for the commit of its quantum (R253). -/
def IssuesOp (i : Instr) (s u : State) (kind : OpKind) (c : CntClass) (acq rel comm : Bool) : Prop :=
  CompletesIn i s { u with ops := s.ops ++ [newOp s kind acq rel none comm], nextOp := s.nextOp + 1 }
    (noteComm comm s.grid.det kind (cntUp c s.grp))

/-- `i` is stopped for reason `r` and issued again later (R103): PC stays, what it has read at its decode is kept (R28, R32, R65), the stall counts
from its first attempt (R318), and the rest of the device is as in `t`. -/
def Stalls (i : Instr) (s t : State) (r : Reason) : Prop :=
  exec i s = .next { t with grp := { t.grp with
    wait := .stall r, decoded := some { readAtDecode s with reason := some r }, stallAt := if s.grp.wait.stalled then s.grp.stallAt else s.cycles } }

/-- The issuing group runs, in a running team of a launch of the device. -/
abbrev Issuer (s : State) : Prop :=
  s.grp.phase = .running ∧ s.team.key = tkeyOf s.grp.key ∧ s.team.phase = .running ∧ s.grid.id = s.grp.key.launch ∧ s.grid.id ≠ 0

/-- A synchronising operation of a deterministic launch takes effect at its point in the order D (R327); elsewhere at once. -/
abbrev AtPoint (s : State) : Prop := s.grid.det = false ∨ syncPoint s = true

/-- A communication operation of a deterministic launch takes effect at its point, behind the group's own earlier ones (R253, R326);
elsewhere at once. -/
abbrev AtCommPoint (s : State) : Prop := s.grid.det = false ∨ commReady s = true

/-- No operation of the issuing group of one of these kinds waits, or has waited, for the commit of the group's present quantum; or no attempt counts, as
outside a deterministic launch (R253, R328). -/
abbrev NoComm (ks : List CommKind) (s : State) : Prop := (counts s && ks.any s.grp.comm) = false

/-- No more than `n` operations that have raised S wait, or have waited, for that commit; or no attempt counts. -/
abbrev CommAtMost (n : Nat) (s : State) : Prop := counts s = true → s.grp.commS ≤ n

/-- The attempt of `i` ends without effect: it counts in CLK, and the group tries it again (R328). -/
abbrev Reattempts (i : Instr) (s : State) : Prop := exec i s = .next { s with grp := s.grp.goTo s.grp.pc }

/-- `t`, with the operation counted that a deterministic launch has performed: the count tells R205's idle launch from a working one. -/
def State.progressed (t : State) : State := if t.grid.det then { t with grid := { t.grid with progress := t.grid.progress + 1 } } else t

/-- What the checks of accesses leave of the device: all but the translation caches (R287) and new cells (R214) is as it was. -/
def SameButCaches (s u : State) : Prop :=
  ∃ tlb fresh cells, u = { s with tlb, fresh, cells }

/-- Whether a check lets its access be performed. -/
def AccRes.fine : AccRes → Bool
  | .ok _ _ _ => true
  | _ => false

/-- The group has a handler and is not in it (R46, R47). -/
abbrev HasHandler (g : Group) : Prop := g.tvec ≠ 0 ∧ g.intrap = false

/-- Whether a check ends in a fault that no reply of the host replays (R149). -/
def AccRes.hard : AccRes → Bool
  | .fault _ _ _ _ => true
  | _ => false

/-- No partition has a fault queue: a record that is reported stays with its unit (R289). -/
abbrev State.NoFaultQueue (s : State) : Prop := ∀ q ∈ s.parts, q.fqLog2 = none

/-- `i` is issued with some access that faults, `p` what the checks of its threads give, in ascending order (R149): the other threads' accesses are performed, which
`done` says of the state that is left, and counter `c`, which has risen, is held. Where every fault can be replayed the group parks, with the unfinished threads as its mask, and the
faults it waits for; else the lowest thread whose fault can not be traps, UNF the unfinished threads and REPLAY 1. `whole` is what stands for those of a scalar-class
instruction (R99). No access of an acting thread finds an uncorrectable page (R330), no watchpoint covers one that is made, and nothing that the accesses are ordered behind is outstanding.
A communication operation has its place in D (R326). -/
def FaultsAtIssue (i : Instr) (s : State) (c : CntClass) (whole : Option Word) (len : Nat) (rd wr : Bool) (p : State × List Got) (kind : OpKind) (rel comm : Bool)
    (done : State → Prop) : Prop :=
  Ready i s → p.2.all Got.fine = false → (∀ x ∈ p.2, x.res ≠ .uncorr) → watched s rd wr len p.2 = false → nowBlocked s kind rel = none → (comm = true → AtCommPoint s) →
    let unfinished := fun m : Word => match whole with
      | some l => m = l
      | none => ∀ t, t < 32 → m.getLsbD t = p.2.any fun x => x.thread = t && !x.fine
    let left := fun u : State => u.grp.cnt c = s.grp.cnt c + 1 ∧ u.grp.sregs = s.grp.sregs ∧ u.grp.masks = s.grp.masks ∧ u.grp.live = s.grp.live ∧ u.grp.cc = s.grp.cc ∧
      u.grp.alloc = s.grp.alloc ∧ u.grp.clk = s.grp.clk ∧ u.ops = s.ops ∧ done u
    (p.2.all (fun x => !x.res.hard) = true → ∃ u q, exec i s = .next u ∧ left u ∧ unfinished q.mask ∧ q.eligible = false ∧ q.fails = [] ∧
      q.recs.map (fun x => (x.1, x.2.2)) = p.2.filterMap (fun x => match x.res with | .park r => some (x.thread, r.va) | _ => none) ∧
      u.grp.park = some q ∧ u.grp.held = some c ∧ u.grp.wait = .stall .pagefault ∧ u.grp.set = .suspended ∧ u.grp.pc = s.grp.pc ∧ u.grp.priv = s.grp.priv ∧
      u.grp.intrap = s.grp.intrap) ∧
    (∀ x cause tval info ecc, p.2.find? (fun y => y.res.hard) = some x → x.res = .fault cause tval info ecc → HasHandler s.grp → ∃ u, exec i s = .next u ∧ left u ∧
      unfinished u.grp.unf ∧ u.grp.replay = true ∧ u.grp.tcause = cause ∧ u.grp.tval = tval ∧ u.grp.epc = s.grp.pc ∧ u.grp.pc = s.grp.tvec ∧ u.grp.priv = true ∧
      u.grp.ppriv = s.grp.priv ∧ u.grp.intrap = true ∧ u.grp.heldTrap = some c ∧ u.grp.held = none ∧ u.grp.park = none)

/-- What a completed load of `n` bytes leaves in element `t` of register `r` of the allocation, `d` its destination and `accs` the accesses that are made: a value of up to 4
bytes extended to 32 bits, 8 bytes as a pair (R148). Any other element keeps its value. -/
def loadedElem (s : State) (d n : Nat) (signed : Bool) (accs : List Access) (r t : Nat) : Word :=
  match accs.find? fun x => x.thread = t with
  | none => mget s.grp.vregs (r * 32 + t)
  | some x =>
    let v := rdNat s x.loc n
    if r = d then (if n = 8 || !signed then BitVec.ofNat 32 v else (BitVec.ofNat (8 * n) v).signExtend 32)
    else if n = 8 ∧ r = d + 1 then BitVec.ofNat 32 (v / 2 ^ 32)
    else mget s.grp.vregs (r * 32 + t)

/-- The 32-bit atomics, each with the new value of its location for the old one, the operand, and the register that a compare reads (R153, R154). -/
def wordAmos : List (AmoOp × (Word → Word → Word → Word)) :=
  let fp := fun x : Word => ofBits fp32 false x.toNat
  [(.add, fun x y _ => x + y), (.min, fun x y _ => if x.toInt < y.toInt then x else y), (.max, fun x y _ => if x.toInt < y.toInt then y else x),
    (.minu, fun x y _ => if x.toNat < y.toNat then x else y), (.maxu, fun x y _ => if x.toNat < y.toNat then y else x), (.and, fun x y _ => x &&& y),
    (.or, fun x y _ => x ||| y), (.xor, fun x y _ => x ^^^ y), (.cas, fun x y c => if x = c then y else x), (.xchg, fun _ y _ => y),
    (.fadd, fun x y _ => BitVec.ofNat 32 (fsum fp32 0 false [fp y, fp x])), (.fmin, fun x y _ => BitVec.ofNat 32 (toBits fp32 0 false (fminNum (fp x) (fp y)))),
    (.fmax, fun x y _ => BitVec.ofNat 32 (toBits fp32 0 false (fmaxNum (fp x) (fp y))))]

/-- What the 32-bit location of `x` holds once the threads of `accs` for which `p` holds and that name the same location have updated it, in ascending order (R152). -/
def amoCell (s : State) (f : Word → Word → Word → Word) (p : Nat → Bool) (accs : List (Access × Word × Word)) (x : Access) : Word :=
  (accs.filter fun y => y.1.loc.off = x.loc.off && p y.1.thread).foldl (fun v y => f v y.2.1 y.2.2) (BitVec.ofNat 32 (rdNat s x.loc 4))

/-- The accesses of a vector atomic whose updates the statements compute: of bytes of memory, written and read under one key (R373), of different threads, and of one
location, the lower thread first, or of locations that lie apart. -/
abbrev AmoAccs (s : State) (key : Nat) (accs : List (Access × Word × Word)) : Prop :=
  (∀ x ∈ accs, x.1.loc.space = .phys ∧ x.1.thread < 32 ∧ x.1.loc.gen = key ∧ ∀ j, j < 4 → (mget s.byteGen (x.1.loc.off + j)).toNat = key) ∧
  accs.Pairwise fun x y => x.1.thread ≠ y.1.thread ∧
    (x.1.loc.off + 4 ≤ y.1.loc.off ∨ y.1.loc.off + 4 ≤ x.1.loc.off ∨ (x.1.loc.off = y.1.loc.off ∧ x.1.thread < y.1.thread))

/-- What a vector atomic leaves of element `t` of register `r`, `d` its destination: the value that the thread found (R152). -/
def amoElem (s : State) (f : Word → Word → Word → Word) (d : Nat) (accs : List (Access × Word × Word)) (r t : Nat) : Word :=
  match accs.find? fun x => x.1.thread = t with
  | some x => if r = d then amoCell s f (fun u => decide (u < t)) accs x.1 else mget s.grp.vregs (r * 32 + t)
  | none => mget s.grp.vregs (r * 32 + t)

/-- Byte `j` of a value (R2). -/
def byteOf (v : DWord) (j : Nat) : Byte := v.extractLsb' (8 * j) 8

/-- Whether the `n` bytes at a place are bytes of memory and contain the one numbered `k`. -/
def Loc.covers (l : Loc) (n k : Nat) : Bool := l.space = .phys && decide (l.off ≤ k) && decide (k < l.off + n)

/-- The byte numbered `k` after stores of `n` bytes to places of memory: that of the highest thread that covers it (R148). -/
def storedByte (s : State) (n : Nat) (accs : List (Access × DWord)) (k : Nat) : Byte :=
  match accs.reverse.find? fun x => x.1.loc.covers n k with
  | some x => byteOf x.2 (k - x.1.loc.off)
  | none => mget s.mem k

/-- The byte numbered `k` after the updates of a vector atomic (R152). -/
def amoByte (s : State) (f : Word → Word → Word → Word) (accs : List (Access × Word × Word)) (k : Nat) : Byte :=
  match accs.find? fun x => x.1.loc.covers 4 k with
  | some x => byteOf ((amoCell s f (fun _ => true) accs x.1).setWidth 64) (k - x.1.loc.off)
  | none => mget s.mem k

/-- The copy engine reads the byte at `va`, which is at the place `l`: it passes its checks, without a new translation, and no link is paused. -/
abbrev EngReads (s : State) (e : Env) (va : DWord) (l : Loc) : Prop := access s e .copy va 1 true false true = .ok l false [] ∧ linkPaused s l = false

/-- Whether a place is in a cell of a context tag. -/
def Space.isCell : Space → Bool
  | .ctx _ _ => true
  | _ => false

/-- The copy engine writes the byte at `va`, which is at the place `l`, no cell of a context tag. -/
abbrev EngWrites (s : State) (e : Env) (va : DWord) (l : Loc) : Prop :=
  access s e .copy va 1 false true true = .ok l false [] ∧ linkPaused s l = false ∧ l.space.isCell = false

/-- The exponent that R89 gives the FP32 word `x`. -/
def r89Exponent (x : Nat) : Nat :=
  let f := x / 2 ^ 23 % 2 ^ 8
  if f = 255 then (if x % 2 ^ 23 = 0 then 254 else 0) else if x % 2 ^ 31 = 0 then 0 else max 1 f

/-- The first pass of R89 over FP32 words, with the threshold `thr`: the bitmap, and the exponents of the blocks. -/
def r89Pass (thr : Nat) (xs : List Nat) : List Bool × List Nat :=
  let r := xs.foldl (fun (p : List Bool × List Nat × Nat × Nat) x =>
    let k := r89Exponent x
    let emax := p.2.2.1
    let len := p.2.2.2
    if p.1 = [] ∨ len = 64 ∨ (k ≠ 0 ∧ emax ≠ 0 ∧ (thr + emax < k ∨ thr + k < emax)) then (p.1 ++ [true], p.2.1 ++ [k], k, 1)
    else (p.1 ++ [false], p.2.1.dropLast ++ [max emax k], max emax k, len + 1)) ([], [], 0, 0)
  (r.1, r.2.1)

/-- The mantissa of the FP32 word `x` in a block of exponent `e`, not above `lim` in magnitude (R89). -/
def r89Mantissa (w e : Nat) (lim : Int) (x : Nat) : Int :=
  let scaled := fun neg (m : Nat) (ex : Int) => toIntClamp 0 (-lim) lim (.fin neg m (ex - ((e : Int) - 127 - ((w : Int) - 2))))
  if e = 0 then 0
  else match ofBits fp32 false x with
  | .fin neg m ex => scaled neg m ex
  | .inf neg => scaled neg 0xFFFFFF 104
  | .nan => 0

/-- `i` completes and writes `v` to scalar register `d`; every other scalar register keeps its value, s127 reads 0 (R23), and nothing of the
group but its scalar registers, PC and CLK changes. -/
def WritesScalar (i : Instr) (s : State) (d : BitVec 7) (v : DWord) : Prop :=
  ∃ m, Completes i s { s.grp with sregs := m } ∧
    ∀ n, getS { s.grp with sregs := m } n = if n = 127 then 0 else if n = d.toNat then v else getS s.grp n

/-- `i` completes and writes `v` to mask `d`; every other mask keeps its value, and nothing of the group but its masks, PC and CLK
changes. -/
def WritesMask (i : Instr) (s : State) (d : BitVec 3) (v : Word) : Prop :=
  ∃ m, Completes i s { s.grp with masks := m } ∧
    ∀ n, getK { s.grp with masks := m } n = if n = d.toNat then v else getK s.grp n

/-- `i` completes and sets CC alone. -/
def WritesFlags (i : Instr) (s : State) (c : CC) : Prop := Completes i s { s.grp with cc := c }

/-- `i` completes and writes `f t` to element `t` of vector register `d` for the threads `t` of `act`; every other element of every
register of the allocation keeps its value, and nothing of the group but its vector registers, PC and CLK changes. -/
def WritesVector (i : Instr) (s : State) (act : Word) (d : Nat) (f : Nat → Word) : Prop :=
  ∃ m, Completes i s { s.grp with vregs := m } ∧
    ∀ r t, t < 32 → mget m (r * 32 + t) = if r = vreg s.grp d ∧ tbit act t then f t else mget s.grp.vregs (r * 32 + t)

/-- The same for a pair of registers (R21). -/
def WritesVector64 (i : Instr) (s : State) (act : Word) (d : Nat) (f : Nat → DWord) : Prop :=
  ∃ m, Completes i s { s.grp with vregs := m } ∧
    ∀ r t, t < 32 → mget m (r * 32 + t) =
      if r = vreg s.grp d ∧ tbit act t then (f t).extractLsb' 0 32
      else if r = vreg s.grp d + 1 ∧ tbit act t then (f t).extractLsb' 32 32
      else mget s.grp.vregs (r * 32 + t)

/-- `i` takes an exception (R46): the trapped group's registers are written, it is in privileged mode at its handler, and nothing else
changes. `epc` is the address that EPC takes. -/
def Traps (i : Instr) (s : State) (cause : BitVec 8) (tval epc : DWord) (unf : Word) (replay : Bool) : Prop :=
  ∃ g, exec i s = .next { s with grp := g } ∧
    g.pc = s.grp.tvec ∧ g.priv = true ∧ g.intrap = true ∧ g.ppriv = s.grp.priv ∧ g.epc = epc ∧ g.tcause = cause ∧ g.tval = tval ∧
    g.unf = unf ∧ g.replay = replay ∧ g.tgroup = BitVec.ofNat 5 s.grp.key.idx ∧
    g.sregs = s.grp.sregs ∧ g.vregs = s.grp.vregs ∧ g.masks = s.grp.masks ∧ g.live = s.grp.live ∧ g.cc = s.grp.cc ∧
    g.tvec = s.grp.tvec ∧ g.winbase = s.grp.winbase ∧ g.alloc = s.grp.alloc ∧ g.gang = s.grp.gang ∧ g.fpctl = s.grp.fpctl ∧
    g.ctx = s.grp.ctx ∧ g.bwto = s.grp.bwto ∧ g.wpHit = s.grp.wpHit ∧ g.wpEn = s.grp.wpEn

end Sys2Proof.Machine
end

