-- ==== Sys2Proof/Certificates/Slice0/Obligations.lean ====
section
/-! DEFINITION. The statements about this machine, each from a numbered rule of the specification. -/

open Sys2Proof Sys2Proof.Machine

/-- R51-R60: words written out bit by bit from the encoding tables decode to the instructions they stand for, and words outside the tables
(an unassigned major, an unused field that is not 0) to none. -/
def Obligations.WordsDecode : Prop :=
  (decode 0b000000_10001_0000001_0000011_0000000 = some (.haltgRes 3)) ∧
  (decode 0b000001_11011_0000011_0000100_0000101 = some (.sbfe 3 4 5)) ∧
  (decode 0b001010_00_0000111_0001000_10_10_10_0010 = some (.sst 7 8 2 2 2 2)) ∧
  (decode 0b111110_000000_111111_111111_111111_00 = some (.wait 0 63 63 63)) ∧
  (decode 0b001111_00001_0000001_0000010_0000011 = some (.kor 1 2 3)) ∧
  (decode 0b010000_00_000_0000001_0000010_0000011 = some (.vadd 0 1 2 3)) ∧
  (decode 0b111011_00011_000000000000000000000 = some .pfree) ∧
  (decode 0b111111_00000000000000000000000000 = none) ∧
  (decode 0b000000_00000_000000000000000000001 = none)

/-- R51-R60: no bit of an encoding is dropped. The word of an instruction decodes to that instruction, with every operand at every value
the encoding admits. -/
def Obligations.DecodeEncode : Prop :=
  ∀ (i : Instr) (w : Word), i.isWord = true → encode i = some w → decode w.toNat = some i

/-- R51-R60: each word has one meaning. A word that decodes to an instruction is the word of that instruction. -/
def Obligations.EncodeDecode : Prop :=
  ∀ (w : Word) (i : Instr), decode w.toNat = some i → encode i = some w

/-- R50, R315, R316: a step of a device whose agenda is empty, and whose issuing group holds its lane's active place, can issue and is the one
that R316 lets its quad's slot issue, runs the instruction that the group fetches. The step adds the counting of the issue slot (R319, R389)
and the cycles of its lane (R125) where the group has not stalled, and what follows every move at once (R273, R315, R322, R338, R345).
What an empty agenda stands for is the model's choice (log 2), and so are the clauses that an attempt which stalls takes no issue slot and that a
lane is charged in the step that issues (log 35). -/
def Obligations.StepRunsInstruction : Prop :=
  ∀ (s : State) (w : Word) (i : Instr),
    s.off = false → s.agenda = [] → Issuer s → (∀ g ∈ s.groups, g.key ≠ s.grp.key) → (∀ t ∈ s.teams, t.key ≠ s.team.key) → (∀ d ∈ s.grids, d.id ≠ s.grid.id) →
    eligible s s.grp = true → s.grp.set = .active → s.grp.park = none → s.grp.posted = none → s.grp.hits = none → s.grp.live ≠ 0 → bpMatches s = false →
    (∀ g ∈ allGroups s, g.eligCycles < 40960 ∧ (g.set = .pending → g.promoted = none)) → slotPick s s.team.spindle s.grp.quad = some (s.grp.key, false) →
    fetchWord s = some w → decode w.toNat = some i →
    step s = thenDo (fun t => settle (if onlyStalled t s.grp.key then t
      else slotIssued s.team.spindle s.grp.quad (slotBin s) s.grp.key (chargeFor s t))) (exec i s)

/-- R56, R63: ILLEGAL_WORD. The word at PC that no row of the opcode map has raises ILL with the word in TVAL; UNF is LIVE & guard for the majors from 0x10 to 0x26, whose
words have a guard field, and LIVE for the others. Where the group has a handler it enters it; without one, or inside it, its team ends (here with a dump armed or an
operation outstanding, so that it is not released at once). -/
def Obligations.IllegalWord : Prop :=
  ∀ (s : State) (w : Word), s.grp.phase = .running → s.grp.wait = .none → s.grp.Quiet → s.team.key = tkeyOf s.grp.key → s.team.phase = .running →
    fetchWord s = some w → decode w.toNat = none →
    let g := (w.toNat / 2 ^ 24) % 4
    let act := if 0x10 ≤ w.toNat / 2 ^ 26 ∧ w.toNat / 2 ^ 26 ≤ 0x26 ∧ g ≠ 0 then s.grp.live &&& getK s.grp g else s.grp.live
    (HasHandler s.grp → Traps (.illegalWord w) s 0x01 (w.setWidth 64) s.grp.pc act false) ∧
    (s.grp.tvec = 0 ∨ s.grp.intrap = true →
      (partOf s s.grid.part).dmpEn = true ∨ teamBusy s s.team.key = true →
      ∃ t, exec (.illegalWord w) s = .next t ∧ t.team.phase = .ended ∧ t.team.endRec = some ⟨s.grp.key.idx, 0x01, w.setWidth 64, s.grp.pc, s.now⟩ ∧
        t.grp.epc = s.grp.pc ∧ t.grp.tcause = 0x01 ∧ t.grp.unf = act ∧ t.grp.sregs = s.grp.sregs ∧ t.mem = s.mem)

/-- R63, R46, R65: decode. Of the checks that an instruction fails at its first attempt the first of the table is raised, with its cause and TVAL; EPC is the instruction's
address and UNF is LIVE & guard. The instruction changes nothing else. Two clauses are the model's choice (log 41): which operand TVAL names where an
accumulator and a tile both fail (the first operand, d), and UNF of VSEL (LIVE & guard, as of every guarded instruction). -/
def Obligations.DecodeFaults : Prop :=
  (∀ (s : State) (i : Instr) (w : Word), i.isWord = true → encode i = some w →
    s.grp.phase = .running → s.grp.wait = .none → s.grp.decoded = none → s.grp.Quiet → HasHandler s.grp →
    let act := match i.guard with | none => s.grp.live | some g => if g = 0 then s.grp.live else s.grp.live &&& getK s.grp g.toNat
    let user := privFault (checksOf i) s.grp = true
    let range := (i.operands.flatMap Opnd.names).find? fun n => !decide (vreg s.grp n < s.grp.alloc * 16)
    let tile := i.operands.findSome? (badTile s.team)
    let queue := i.operands.findSome? (badQueue s.team)
    (i.wf = false → Traps i s 0x01 (w.setWidth 64) s.grp.pc act false) ∧
    (i.wf = true → user → Traps i s 0x02 (w.setWidth 64) s.grp.pc act false) ∧
    (∀ n, i.wf = true → ¬ user → range = some n → Traps i s 0x04 (BitVec.ofNat 64 (s.grp.winbase.toNat * 16 + n)) s.grp.pc act true) ∧
    (∀ n, i.wf = true → ¬ user → range = none → tile = some n → Traps i s 0x05 (BitVec.ofNat 64 n) s.grp.pc act true) ∧
    (∀ n, i.wf = true → ¬ user → range = none → tile = none → queue = some n → Traps i s 0x06 (BitVec.ofNat 64 n) s.grp.pc act true) ∧
    (i.wf = true → ¬ user → range = none → tile = none → queue = none → gangInstr i = true → s.grp.gang.toNat % 8 ≠ 0 →
      gangBad s.team s.grp.key.idx s.grp.gang = true → Traps i s 0x07 s.grp.gang s.grp.pc act true))

/-- R93, R78-R80, R95: the three-operand functions of SALU, with a = s[a], b = s[b], the old s[d] where the function reads it, and nothing else of the machine changed. R93:
the one-source functions of SALU. SPOPC counts the 1 bits; SCLZ and SCTZ the zeros above the highest and below the lowest 1 (64 for 0); SBREV moves bit i to bit 63 − i.
R96, R57, R97: the immediate forms. imm12 is sign-extended; the shifts take 0-63; SLI puts 16 bits at position 16 × sh, after clearing the register where z is 1. -/
def Obligations.ScalarArithmetic : Prop :=
  (∀ (s : State) (d a b : BitVec 7),
    let x := getS s.grp a.toNat
    let y := getS s.grp b.toNat
    let z := getS s.grp d.toNat
    let len := min (fieldN y 8 7) 64
    let m : DWord := if len = 64 then 0xFFFFFFFFFFFFFFFF else (1 <<< len) - 1
    let pos := fieldN y 0 6
    ∀ p ∈ [
      (Instr.sadd d a b, x + y), (.ssub d a b, x - y), (.smul d a b, x * y),
      (.smulh d a b, BitVec.ofInt 64 (x.toInt * y.toInt / 2 ^ 64)), (.smulhu d a b, BitVec.ofNat 64 (x.toNat * y.toNat / 2 ^ 64)),
      (.sdiv d a b, if y = 0 then 0xFFFFFFFFFFFFFFFF else BitVec.ofInt 64 (x.toInt.tdiv y.toInt)),
      (.sdivu d a b, if y = 0 then 0xFFFFFFFFFFFFFFFF else BitVec.ofNat 64 (x.toNat / y.toNat)),
      (.srem d a b, if y = 0 then x else BitVec.ofInt 64 (x.toInt.tmod y.toInt)),
      (.sremu d a b, if y = 0 then x else BitVec.ofNat 64 (x.toNat % y.toNat)),
      (.sand d a b, x &&& y), (.sor d a b, x ||| y), (.sxor d a b, x ^^^ y), (.sandn d a b, x &&& ~~~y),
      (.sshl d a b, if 64 ≤ y.toNat then 0 else x <<< y.toNat), (.sshr d a b, if 64 ≤ y.toNat then 0 else x >>> y.toNat),
      (.ssra d a b, if 64 ≤ y.toNat then (if x.msb then 0xFFFFFFFFFFFFFFFF else 0) else x.sshiftRight y.toNat),
      (.smin d a b, if x.toInt < y.toInt then x else y), (.smax d a b, if x.toInt < y.toInt then y else x),
      (.sminu d a b, if x.toNat < y.toNat then x else y), (.smaxu d a b, if x.toNat < y.toNat then y else x),
      (.ssel d a b, if z ≠ 0 then x else y),
      (.sbfe d a b, (x >>> pos) &&& m), (.sbfi d a b, (z &&& ~~~(m <<< pos)) ||| ((x &&& m) <<< pos))],
      Ready p.1 s → WritesScalar p.1 s d p.2) ∧
  (∀ (s : State) (d a : BitVec 7),
    let x := getS s.grp a.toNat
    (Ready (.spopc d a) s → WritesScalar (.spopc d a) s d (BitVec.ofNat 64 ((List.range 64).countP fun i => x.getLsbD i))) ∧
    (Ready (.sclz d a) s → WritesScalar (.sclz d a) s d
      (BitVec.ofNat 64 ((List.range 64).takeWhile fun i => !x.getLsbD (63 - i)).length)) ∧
    (Ready (.sctz d a) s → WritesScalar (.sctz d a) s d (BitVec.ofNat 64 ((List.range 64).takeWhile fun i => !x.getLsbD i).length)) ∧
    (Ready (.sbrev d a) s → ∃ v : DWord, (∀ i, i < 64 → v.getLsbD i = x.getLsbD (63 - i)) ∧ WritesScalar (.sbrev d a) s d v)) ∧
  (∀ (s : State) (d a : BitVec 7) (im : BitVec 12) (n : BitVec 6) (z : BitVec 1) (h : BitVec 2) (i16 : BitVec 16),
    let x := getS s.grp a.toNat
    let k : DWord := im.signExtend 64
    let old : DWord := if z = 1 then 0 else getS s.grp d.toNat
    (∀ p ∈ [(Instr.saddi d a im, x + k), (.sandi d a im, x &&& k), (.sori d a im, x ||| k), (.sxori d a im, x ^^^ k),
        (.sshli d a n, x <<< n.toNat), (.sshri d a n, x >>> n.toNat), (.ssrai d a n, x.sshiftRight n.toNat)],
      Ready p.1 s → WritesScalar p.1 s d p.2) ∧
    (Ready (.sli d z h i16) s → ∃ v : DWord, WritesScalar (.sli d z h i16) s d v ∧
      ∀ j, j < 64 → v.getLsbD j = if j / 16 = h.toNat then i16.getLsbD (j % 16) else old.getLsbD j))

/-- R94, R57: SCMP, SCMPU, SCMPI and SCMPIU write all four flags and nothing else. -/
def Obligations.ScalarCompare : Prop :=
  ∀ (s : State) (a b : BitVec 7) (im : BitVec 12),
    let x := getS s.grp a.toNat
    let signed : DWord → CC := fun y =>
      ⟨x - y = 0, (x - y).msb, y.toNat ≤ x.toNat, x.msb != y.msb && (x - y).msb != x.msb⟩
    let unsigned : DWord → CC := fun y => ⟨x - y = 0, x.toNat < y.toNat, y.toNat ≤ x.toNat, false⟩
    ∀ p ∈ [(Instr.scmp a b, signed (getS s.grp b.toNat)), (.scmpu a b, unsigned (getS s.grp b.toNat)),
        (.scmpi a im, signed (im.signExtend 64)), (.scmpiu a im, unsigned (im.signExtend 64))],
      Ready p.1 s → WritesFlags p.1 s p.2

/-- R101: the mask functions. The logic functions act on all 32 bits, whatever LIVE holds; KPOPC and KFFS on live threads; KALL gives the
lowest n threads. -/
def Obligations.MaskResults : Prop :=
  ∀ (s : State) (d a b : BitVec 3) (sa sb sd : BitVec 7),
    let x := getK s.grp a.toNat
    let y := getK s.grp b.toNat
    let live := x &&& s.grp.live
    let sh := (getS s.grp sb.toNat).toNat
    (∀ p ∈ [(Instr.kand d a b, x &&& y), (.kor d a b, x ||| y), (.kxor d a b, x ^^^ y), (.kandn d a b, x &&& ~~~y), (.knot d a, ~~~x),
        (.kmov d a, x), (.kfroms d sa sb, if 64 ≤ sh then 0 else (getS s.grp sa.toNat >>> sh).extractLsb' 0 32),
        (.kall d sb, if sb = 32 then 0xFFFFFFFF else (1 <<< sb.toNat) - 1)],
      Ready p.1 s → WritesMask p.1 s d p.2) ∧
    (∀ p ∈ [(Instr.kpopc sd a, BitVec.ofNat 64 ((List.range 32).countP fun i => live.getLsbD i)),
        (.kffs sd a, BitVec.ofNat 64 ((List.range 32).takeWhile fun i => !live.getLsbD i).length),
        (.ktos sd a sb, if 64 ≤ sh then getS s.grp sd.toNat
          else (getS s.grp sd.toNat &&& ~~~((0xFFFFFFFF : DWord) <<< sh)) ||| (x.setWidth 64 <<< sh))],
      Ready p.1 s → WritesScalar p.1 s sd p.2)

/-- R100, R35, R36, R24: moves between scalars, special registers and masks. SMFS returns the
register zero-extended, every one of R35; SMTS writes the writable fields (BWTO 0 as 1, CC from bits [3:0], EPC and TVEC with bits [1:0] 0, TSHAPE and
TQUEUE of the team with their reserved bits 0); SMTS to LIVE clears bits alone, and a group without a live thread retires as at EXIT. TSTATUS stores in
TGROUP a group that the issuer holds halted, else the own index (R294); WPCTL's hit bits are cleared by the bits written (R293).
R294-R296: in a handler whose TGROUP names another group `q`, those of the registers of R294 and of masks act on `q`; those of the others, and TGROUP, on the issuer. EPC and TSTATUS of `q` read
and are written as the table of R295 says; a write of TCAUSE posts a trap; one that clears LIVE, or REPLAY of a parked group, abandons the parked instruction, whose counter falls.
What EPC shows of, and does to, a group that waits inside an instruction or is parked is the model's choice (log 30), and that PPRIV and INTRAP of a parked group stay (log 41). -/
def Obligations.SpecialMoves : Prop :=
  ∀ (s : State) (d a : BitVec 7) (ka kd : BitVec 3), s.grp.phase = .running →
    let x := getS s.grp a.toNat
    let g := s.grp
    let mine := targetKey s = g.key
    let other := (findGroup s { g.key with idx := fieldN x 8 5 }).any fun h => h.haltedBy.contains g.key.idx
    (∀ p ∈ [((0 : BitVec 7), BitVec.ofNat 64 (g.key.team * 32 + g.key.idx)), (1, BitVec.ofNat 64 s.team.key.team),
        (2, BitVec.ofNat 64 (s.team.spindle / 72 * 256 + s.team.spindle / 24 % 3 * 32 + s.team.spindle % 24)),
        (3, BitVec.ofNat 64 (g.laneSlot * 32 + g.quad * 8 + g.laneInQuad)), (4, g.role.setWidth 64), (5, s.team.pgidx.setWidth 64),
        (6, s.team.pstat.setWidth 64), (7, if s.team.slotFreed then 0 else BitVec.ofNat 64 (0x01E0400000000000 + s.team.slot * 0x4000)),
        (17, if s.grid.det then BitVec.ofNat 64 (g.clk.toNat / 4096) else 0), (18, if s.grid.det then 1 else 0),
        (19, if s.grid.det then g.clk else BitVec.ofNat 64 s.now)],
      Ready (.smfs d p.1) s → WritesScalar (.smfs d p.1) s d p.2) ∧
    (mine → ∀ p ∈ [((8 : BitVec 7), g.ctx.setWidth 64), (9, g.winbase.setWidth 64), (15, BitVec.ofNat 64 (g.cntL + g.cntS * 2 ^ 6 + g.cntC * 2 ^ 12 + g.cntT * 2 ^ 18)),
        (21, g.tcause.setWidth 64), (23, g.epc),
        (24, BitVec.ofNat 64 (bitOf g.intrap + 2 * bitOf g.ppriv + 4 * bitOf g.replay + 2 ^ 8 * g.tgroup.toNat + 2 ^ 32 * g.unf.toNat)),
        (26, BitVec.ofNat 64 (g.wpEn.toNat + 2 ^ 8 * g.wpHit.toNat)), (10, BitVec.ofNat 64 g.alloc), (11, g.gang),
        (12, g.fpctl.setWidth 64), (13, BitVec.ofNat 64 (8 * bitOf g.cc.z + 4 * bitOf g.cc.n + 2 * bitOf g.cc.c + bitOf g.cc.v)),
        (14, g.live.setWidth 64), (16, g.clk), (20, g.tvec), (22, g.tval), (25, g.bwto.setWidth 64)],
      Ready (.smfs d p.1) s → WritesScalar (.smfs d p.1) s d p.2) ∧
    (∀ n, n < 16 → ∀ p ∈ [(BitVec.ofNat 7 (32 + n), s.team.tshape.getD n 0), (BitVec.ofNat 7 (48 + n), s.team.tqueue.getD n 0)],
      Ready (.smfs d p.1) s → WritesScalar (.smfs d p.1) s d p.2) ∧
    (∀ n, n < 16 → ∀ p ∈ [(BitVec.ofNat 7 (32 + n), { s.team with tshape := s.team.tshape.set n (x &&& 0x3FF3F) }),
        (BitVec.ofNat 7 (48 + n), { s.team with tqueue := s.team.tqueue.set n (x &&& 0xF) })],
      Ready (.smts p.1 a) s → CompletesIn (.smts p.1 a) s { s with team := p.2 } g) ∧
    (mine → ∀ p ∈ [((11 : BitVec 7), { g with gang := x &&& 0x1FFFFFFFF }), (12, { g with fpctl := x.extractLsb' 0 3 }),
        (13, { g with cc := ⟨x.getLsbD 3, x.getLsbD 2, x.getLsbD 1, x.getLsbD 0⟩ }), (20, { g with tvec := x &&& ~~~3 }),
        (21, { g with tcause := x.extractLsb' 0 8 }), (22, { g with tval := x, posted := g.posted.map fun p => (p.1, x) }),
        (24, { g with
          unf := x.extractLsb' 32 32
          replay := x.getLsbD 2
          ppriv := x.getLsbD 1
          intrap := x.getLsbD 0
          tgroup := if other then x.extractLsb' 8 5 else BitVec.ofNat 5 g.key.idx }),
        (26, { g with wpHit := g.wpHit &&& ~~~(x.extractLsb' 8 8), wpEn := x.extractLsb' 0 8 }),
        (23, { g with epc := x &&& ~~~3 }), (25, { g with bwto := if x.extractLsb' 0 32 = 0 then 1 else x.extractLsb' 0 32 }),
        (14, { g with
          live := g.live &&& x.extractLsb' 0 32
          phase := if g.live &&& x.extractLsb' 0 32 = 0 then .exiting else g.phase })],
      Ready (.smts p.1 a) s → Completes (.smts p.1 a) s p.2) ∧
    (mine → Ready (.smfk d ka) s → WritesScalar (.smfk d ka) s d ((getK g ka.toNat).setWidth 64)) ∧
    (mine → Ready (.smtk kd a) s → WritesMask (.smtk kd a) s kd (x.extractLsb' 0 32)) ∧
    (∀ q : Group, findGroup s q.key = some q → q.key = { g.key with idx := g.tgroup.toNat } → q.key ≠ g.key → g.priv = true → g.intrap = true →
      let parked := q.park.isSome = true ∧ q.intrap = false
      let status := fun (low : Nat) (unf : Word) => BitVec.ofNat 64 (low + 2 ^ 8 * g.tgroup.toNat + 2 ^ 32 * unf.toNat)
      let writes := fun (i : Instr) (g' q' : Group) => Ready i s → ∃ t r, exec i s = .next t ∧ t.grp = g'.goTo (g.pc + 4) ∧ findGroup t q.key = some r ∧
        r = { q' with set := r.set, order := r.order } ∧ (q.set ≠ .suspended → r = q') ∧ t.mem = s.mem ∧ t.team = s.team ∧ t.ops = s.ops ∧
        ∀ k, k ≠ q.key → k ≠ g.key → findGroup t k = findGroup s k
      let dropped := fun (live : Word) => { q with
        live, park := none, replayMask := none, wait := .none, decoded := none, held := none, pc := q.pcNext.getD q.pc, pcNext := none
        cntL := if q.held = some CntClass.load then q.cntL - 1 else q.cntL
        cntS := if q.held = some CntClass.store then q.cntS - 1 else q.cntS
        cntC := if q.held = some CntClass.copy then q.cntC - 1 else q.cntC
        cntT := if q.held = some CntClass.tile then q.cntT - 1 else q.cntT }
      let v := x &&& ~~~3
      let live := q.live &&& x.extractLsb' 0 32
      let unf := x.extractLsb' 32 32
      let issuer := { g with tgroup := if other then x.extractLsb' 8 5 else BitVec.ofNat 5 g.key.idx }
      (∀ p ∈ [((8 : BitVec 7), q.ctx.setWidth 64), (9, q.winbase.setWidth 64), (10, BitVec.ofNat 64 q.alloc), (11, q.gang), (12, q.fpctl.setWidth 64),
          (13, BitVec.ofNat 64 (8 * bitOf q.cc.z + 4 * bitOf q.cc.n + 2 * bitOf q.cc.c + bitOf q.cc.v)), (14, q.live.setWidth 64),
          (15, BitVec.ofNat 64 (q.cntL + q.cntS * 2 ^ 6 + q.cntC * 2 ^ 12 + q.cntT * 2 ^ 18)), (16, q.clk), (20, q.tvec), (21, q.tcause.setWidth 64), (22, q.tval),
          (23, if q.intrap then q.epc else q.pcNext.getD q.pc), (25, q.bwto.setWidth 64), (26, BitVec.ofNat 64 (q.wpEn.toNat + 2 ^ 8 * q.wpHit.toNat))],
        Ready (.smfs d p.1) s → WritesScalar (.smfs d p.1) s d p.2) ∧
      (Ready (.smfs d 24) s → ¬ parked → WritesScalar (.smfs d 24) s d (status (bitOf q.intrap + 2 * bitOf q.ppriv + 4 * bitOf q.replay) q.unf)) ∧
      (∀ p, q.park = some p → q.intrap = false → Ready (.smfs d 24) s → WritesScalar (.smfs d 24) s d (status (2 * bitOf q.ppriv + 4) p.mask)) ∧
      (∀ p ∈ [((11 : BitVec 7), { q with gang := x &&& 0x1FFFFFFFF }), (12, { q with fpctl := x.extractLsb' 0 3 }),
          (13, { q with cc := ⟨x.getLsbD 3, x.getLsbD 2, x.getLsbD 1, x.getLsbD 0⟩ }), (20, { q with tvec := v }),
          (21, if q.intrap then { q with tcause := x.extractLsb' 0 8 } else { q with posted := some (x.extractLsb' 0 8, q.tval) }),
          (22, { q with tval := x, posted := q.posted.map fun p => (p.1, x) }), (25, { q with bwto := if x.extractLsb' 0 32 = 0 then 1 else x.extractLsb' 0 32 }),
          (26, { q with wpHit := q.wpHit &&& ~~~(x.extractLsb' 8 8), wpEn := x.extractLsb' 0 8 }),
          (14, if live = 0 ∧ q.park.isSome = true then dropped 0 else { q with live }),
          (23, if q.intrap then { q with epc := v } else if q.wait.begun || q.park.isSome then { q with pcNext := if v = q.pc then none else some v }
            else { q with pc := v, wait := .none, decoded := none, eccPend := q.eccPend.map EccDue.unnamed })],
        writes (.smts p.1 a) g p.2) ∧
      (¬ parked → writes (.smts 24 a) issuer { q with unf, replay := x.getLsbD 2, ppriv := x.getLsbD 1, intrap := x.getLsbD 0 }) ∧
      (∀ p, q.park = some p → q.intrap = false → writes (.smts 24 a) issuer
        (if x.getLsbD 2 then { q with park := some { p with mask := p.mask &&& unf }, replayMask := q.replayMask.map fun m => m &&& unf } else dropped q.live)) ∧
      (Ready (.smfk d ka) s → WritesScalar (.smfk d ka) s d ((getK q ka.toNat).setWidth 64)) ∧
      (Ready (.smtk kd a) s → ∃ t r, exec (.smtk kd a) s = .next t ∧ t.grp = g.goTo (g.pc + 4) ∧ findGroup t q.key = some r ∧ r = { q with masks := r.masks } ∧
        (∀ n, getK r n = if n = kd.toNat then x.extractLsb' 0 32 else getK q n) ∧ t.mem = s.mem ∧ t.team = s.team ∧ t.ops = s.ops))

/-- R61, R62, R102: the branch conditions, the targets of B, CALL, JR, CALLR and RET, and the link. CALLR reads its target before LR is
written. Nothing but PC, LR and CLK changes.
R62, R102: a jump to an address with either of bits [1:0] set raises ALIGN with TVAL the target and EPC its own address; LR keeps its value. R99: an SLD or SST whose
address is no multiple of its width raises ALIGN with TVAL the address: no counter rises, nothing is written, UNF holds LIVE, and ERET executes the instruction again.
That UNF holds LIVE for the trap of a jump, for which no rule gives it, is the model's reading (log 38). -/
def Obligations.BranchesAndMisalignment : Prop :=
  (∀ (s : State) (c : BitVec 5) (f : BitVec 21) (g : BitVec 26) (a : BitVec 7),
    let z := s.grp.cc.z
    let n := s.grp.cc.n
    let cy := s.grp.cc.c
    let v := s.grp.cc.v
    let k := fun j => getK s.grp j &&& s.grp.live
    let holds := [true, z, !z, n != v, n == v, z || n != v, !z && n == v, !cy, cy, !cy || z, cy && !z, v, !v, n, !n, false,
      k 0 = 0, k 1 = 0, k 2 = 0, k 3 = 0, k 4 = 0, k 5 = 0, k 6 = 0, k 7 = 0,
      k 0 ≠ 0, k 1 ≠ 0, k 2 ≠ 0, k 3 ≠ 0, k 4 ≠ 0, k 5 ≠ 0, k 6 ≠ 0, k 7 ≠ 0]
    let link := setS 126 (s.grp.pc + 4) s.grp
    (Ready (.b c f) s → exec (.b c f) s = .next { s with
      grp := s.grp.goTo (if holds.getD c.toNat false then s.grp.pc + 4 * f.signExtend 64 else s.grp.pc + 4) }) ∧
    (Ready (.call g) s → exec (.call g) s = .next { s with grp := link.goTo (s.grp.pc + 4 * g.signExtend 64) }) ∧
    (Ready (.jr a) s → (getS s.grp a.toNat).toNat % 4 = 0 → exec (.jr a) s = .next { s with grp := s.grp.goTo (getS s.grp a.toNat) }) ∧
    (Ready (.callr a) s → (getS s.grp a.toNat).toNat % 4 = 0 → exec (.callr a) s = .next { s with grp := link.goTo (getS s.grp a.toNat) }) ∧
    (Ready .ret s → (getS s.grp 126).toNat % 4 = 0 → exec .ret s = .next { s with grp := s.grp.goTo (getS s.grp 126) })) ∧
  (∀ (s : State) (a : BitVec 7), HasHandler s.grp → ∀ p ∈ [(Instr.jr a, getS s.grp a.toNat), (.callr a, getS s.grp a.toNat), (.ret, getS s.grp 126)],
    Ready p.1 s → p.2.toNat % 4 ≠ 0 → Traps p.1 s 0x03 p.2 s.grp.pc s.grp.live false) ∧
  (∀ (s : State) (w o sc : BitVec 2) (d a : BitVec 7) (n : BitVec 4), HasHandler s.grp →
    let va := getS s.grp a.toNat + n.signExtend 64 * BitVec.ofNat 64 (2 ^ w.toNat)
    va.toNat % 2 ^ w.toNat ≠ 0 →
    ∀ i ∈ [Instr.sld d a w o sc n, .sst d a w o sc n], Ready i s → Traps i s 0x03 va s.grp.pc s.grp.live true)

/-- R128, R129, R78, R79: the integer vector functions on x = a[t], y = b[t] and the old z = v[d][t] of each acting thread; other threads keep their elements. R130, R57: the
vector immediate forms; imm10 is sign-extended to 32 bits, and a shift takes 0-31. -/
def Obligations.VectorInteger : Prop :=
  (∀ (s : State) (g : BitVec 2) (d a b : BitVec 7),
    let len := fun y : Word => min (y.toNat / 256 % 64) 32
    let m := fun y : Word => if len y = 32 then (0xFFFFFFFF : Word) else (1 <<< len y) - 1
    let pos := fun y : Word => y.toNat % 32
    let f := fun x y : Word => (x >>> pos y) &&& m y
    ∀ p ∈ [
      (Instr.vadd g d a b, fun _ x y : Word => x + y), (.vsub g d a b, fun _ x y => x - y), (.vmul g d a b, fun _ x y => x * y),
      (.vmulh g d a b, fun _ x y => BitVec.ofInt 32 (x.toInt * y.toInt / 2 ^ 32)),
      (.vmulhu g d a b, fun _ x y => BitVec.ofNat 32 (x.toNat * y.toNat / 2 ^ 32)),
      (.vmin g d a b, fun _ x y => if x.toInt < y.toInt then x else y), (.vmax g d a b, fun _ x y => if x.toInt < y.toInt then y else x),
      (.vminu g d a b, fun _ x y => if x.toNat < y.toNat then x else y), (.vmaxu g d a b, fun _ x y => if x.toNat < y.toNat then y else x),
      (.vand g d a b, fun _ x y => x &&& y), (.vor g d a b, fun _ x y => x ||| y), (.vxor g d a b, fun _ x y => x ^^^ y),
      (.vandn g d a b, fun _ x y => x &&& ~~~y),
      (.vshl g d a b, fun _ x y => if 32 ≤ y.toNat then 0 else x <<< y.toNat), (.vshr g d a b, fun _ x y => if 32 ≤ y.toNat then 0 else x >>> y.toNat),
      (.vsra g d a b, fun _ x y => if 32 ≤ y.toNat then (if x.msb then 0xFFFFFFFF else 0) else x.sshiftRight y.toNat),
      (.vbfeu g d a b, fun _ x y => f x y),
      (.vbfe g d a b, fun _ x y => if len y = 0 then 0 else if (f x y).getLsbD (len y - 1) then f x y ||| ~~~(m y) else f x y),
      (.vbfi g d a b, fun z x y => (z &&& ~~~(m y <<< pos y)) ||| ((x &&& m y) <<< pos y)),
      (.vbrev g d a, fun _ x _ => x.reverse), (.vpopc g d a, fun _ x _ => BitVec.ofNat 32 ((List.range 32).countP fun i => x.getLsbD i)),
      (.vclz g d a, fun _ x _ => BitVec.ofNat 32 ((List.range 32).takeWhile fun i => !x.getLsbD (31 - i)).length),
      (.vctz g d a, fun _ x _ => BitVec.ofNat 32 ((List.range 32).takeWhile fun i => !x.getLsbD i).length),
      (.vabs g d a, fun _ x _ => if x.msb then 0 - x else x),
      (.vmov g d a, fun _ x _ => x), (.vmerge g d a b, fun _ x y => (y <<< 16) ||| (x &&& 0xFFFF))],
      Ready p.1 s → WritesVector p.1 s (actOf s.grp g) d.toNat fun t =>
        p.2 (getV s.grp d.toNat t) (opnd32 s.grp a.toNat t) (opnd32 s.grp b.toNat t)) ∧
  (∀ (s : State) (g : BitVec 2) (d a : BitVec 7) (im : BitVec 10) (n : BitVec 5),
    let k : Word := im.signExtend 32
    ∀ p ∈ [(Instr.vaddi g d a im, fun x : Word => x + k), (.vandi g d a im, fun x => x &&& k), (.vori g d a im, fun x => x ||| k),
        (.vxori g d a im, fun x => x ^^^ k), (.vshli g d a n, fun x => x <<< n.toNat), (.vshri g d a n, fun x => x >>> n.toNat),
        (.vsrai g d a n, fun x => x.sshiftRight n.toNat)],
      Ready p.1 s → WritesVector p.1 s (actOf s.grp g) d.toNat fun t => p.2 (opnd32 s.grp a.toNat t))

/-- R131, R71-R76, R67-R70: the FP32 functions on the values that x, y and the old z of each acting thread stand for (FTZ applied), each narrowed once in FPCTL.rm but for
those that the rules round to nearest even. R132, R71-R74: the FP64 functions on register pairs. -/
def Obligations.VectorFloat : Prop :=
  (∀ (s : State) (g : BitVec 2) (d a b : BitVec 7),
    let rm := s.grp.fpctl.extractLsb' 0 2
    let ftz := s.grp.fpctl.getLsbD 2
    let v := fun x : Word => ofBits fp32 ftz x.toNat
    (∀ p ∈ [
      (Instr.vfadd g d a b, fun _ x y : FVal => fsum fp32 rm ftz [x, y]), (.vfsub g d a b, fun _ x y => fsum fp32 rm ftz [x, y.neg]),
      (.vfmul g d a b, fun _ x y => toBits fp32 rm ftz (x.mul y)), (.vfma g d a b, fun z x y => fsum fp32 rm ftz [z, x.mul y]),
      (.vfms g d a b, fun z x y => fsum fp32 rm ftz [z, (x.mul y).neg]), (.vfmin g d a b, fun _ x y => toBits fp32 0 ftz (fminNum x y)),
      (.vfmax g d a b, fun _ x y => toBits fp32 0 ftz (fmaxNum x y)), (.vfdiv g d a b, fun _ x y => fdiv fp32 rm ftz x y),
      (.vfsqrt g d a, fun _ x _ => fsqrt fp32 rm ftz x), (.vfrcp g d a, fun _ x _ => fdiv fp32 0 ftz (.fin false 1 0) x),
      (.vfrsq g d a, fun _ x _ => frsq fp32 ftz x), (.vfexp2 g d a, fun _ x _ => fexp2 fp32 ftz x), (.vflog2 g d a, fun _ x _ => flog2 fp32 ftz x),
      (.vffloor g d a, fun _ x _ => toBits fp32 0 ftz (roundInt 2 x)), (.vfrint g d a, fun _ x _ => toBits fp32 0 ftz (roundInt rm x))],
      Ready p.1 s → WritesVector p.1 s (actOf s.grp g) d.toNat fun t =>
        BitVec.ofNat 32 (p.2 (v (getV s.grp d.toNat t)) (v (opnd32 s.grp a.toNat t)) (v (opnd32 s.grp b.toNat t)))) ∧
    (Ready (.vfabs g d a) s → WritesVector (.vfabs g d a) s (actOf s.grp g) d.toNat fun t =>
      let x := opnd32 s.grp a.toNat t
      if ofBits fp32 false x.toNat = .nan then 0x7FC00000 else x &&& 0x7FFFFFFF)) ∧
  (∀ (s : State) (g : BitVec 2) (d a b : BitVec 7),
    let rm := s.grp.fpctl.extractLsb' 0 2
    let ftz := s.grp.fpctl.getLsbD 2
    let v := fun x : DWord => ofBits fp64 ftz x.toNat
    ∀ p ∈ [
      (Instr.vdadd g d a b, fun _ x y : FVal => fsum fp64 rm ftz [x, y]), (.vdsub g d a b, fun _ x y => fsum fp64 rm ftz [x, y.neg]),
      (.vdmul g d a b, fun _ x y => toBits fp64 rm ftz (x.mul y)), (.vdfma g d a b, fun z x y => fsum fp64 rm ftz [z, x.mul y]),
      (.vddiv g d a b, fun _ x y => fdiv fp64 rm ftz x y), (.vdsqrt g d a, fun _ x _ => fsqrt fp64 rm ftz x),
      (.vdmin g d a b, fun _ x y => toBits fp64 0 ftz (fminNum x y)), (.vdmax g d a b, fun _ x y => toBits fp64 0 ftz (fmaxNum x y))],
      Ready p.1 s → WritesVector64 p.1 s (actOf s.grp g) d.toNat fun t =>
        BitVec.ofNat 64 (p.2 (v (getV64 s.grp d.toNat t)) (v (opnd64 s.grp a.toNat t)) (v (opnd64 s.grp b.toNat t))))

/-- R81-R83: every conversion code. A 64-bit destination takes a pair of registers.
R133, R77: a compare writes the whole mask: its result for a thread that acts, 0 for every other. A NaN operand makes a floating-point
compare unordered. -/
def Obligations.VectorConvertAndCompare : Prop :=
  (∀ (s : State) (g : BitVec 2) (d a c : BitVec 7),
    let rm := s.grp.fpctl.extractLsb' 0 2
    let ftz := s.grp.fpctl.getLsbD 2
    let x := fun t => (opnd32 s.grp a.toNat t).toNat
    let y := fun t => (opnd64 s.grp a.toNat t).toNat
    let toF := fun (src dst : Fmt) (n : Nat) => toBits dst rm ftz (ofBits src ftz n)
    let toI := fun (rm : BitVec 2) (src : Fmt) (lo hi : Int) (n : Nat) => toIntClamp rm lo hi (ofBits src ftz n)
    Ready (.vcvt g d a c) s →
      (∀ p ∈ [((0x01 : BitVec 7), fun t => toF fp64 fp32 (y t)), (0x02, fun t => toF fp32 bf16 (x t)), (0x03, fun t => toF bf16 fp32 (x t % 2 ^ 16)),
          (0x04, fun t => toF fp32 fp16 (x t)), (0x05, fun t => toF fp16 fp32 (x t % 2 ^ 16)),
          (0x0C, fun t => toBits fp32 rm ftz (ofInt (opnd32 s.grp a.toNat t).toInt)), (0x0D, fun t => toBits fp32 rm ftz (ofInt (x t : Int))),
          (0x1A, fun t => toBits fp32 rm ftz (ofInt (BitVec.ofNat 8 (x t)).toInt)), (0x1B, fun t => toBits fp32 rm ftz (ofInt (x t % 2 ^ 8 : Nat)))],
        c = p.1 → WritesVector (.vcvt g d a c) s (actOf s.grp g) d.toNat fun t => BitVec.ofNat 32 (p.2 t)) ∧
      (∀ p ∈ [((0x08 : BitVec 7), fun t => toI rm fp32 (-2 ^ 31) (2 ^ 31 - 1) (x t)), (0x09, fun t => toI rm fp32 0 (2 ^ 32 - 1) (x t)),
          (0x0A, fun t => toI 1 fp32 (-2 ^ 31) (2 ^ 31 - 1) (x t)), (0x0B, fun t => toI 1 fp32 0 (2 ^ 32 - 1) (x t)),
          (0x16, fun t => toI rm fp64 (-2 ^ 31) (2 ^ 31 - 1) (y t)), (0x18, fun t => toI rm fp32 (-128) 127 (x t)), (0x19, fun t => toI rm fp32 0 255 (x t))],
        c = p.1 → WritesVector (.vcvt g d a c) s (actOf s.grp g) d.toNat fun t => BitVec.ofInt 32 (p.2 t)) ∧
      (∀ p ∈ [((0x00 : BitVec 7), fun t => toF fp32 fp64 (x t)), (0x14, fun t => toBits fp64 rm ftz (ofInt (opnd64 s.grp a.toNat t).toInt)),
          (0x15, fun t => toBits fp64 rm ftz (ofInt (y t : Int))), (0x17, fun t => toBits fp64 rm ftz (ofInt (opnd32 s.grp a.toNat t).toInt))],
        c = p.1 → WritesVector64 (.vcvt g d a c) s (actOf s.grp g) d.toNat fun t => BitVec.ofNat 64 (p.2 t)) ∧
      (∀ p ∈ [((0x10 : BitVec 7), fun t => toI rm fp64 (-2 ^ 63) (2 ^ 63 - 1) (y t)), (0x11, fun t => toI rm fp64 0 (2 ^ 64 - 1) (y t)),
          (0x12, fun t => toI 1 fp64 (-2 ^ 63) (2 ^ 63 - 1) (y t)), (0x13, fun t => toI 1 fp64 0 (2 ^ 64 - 1) (y t))],
        c = p.1 → WritesVector64 (.vcvt g d a c) s (actOf s.grp g) d.toNat fun t => BitVec.ofInt 64 (p.2 t))) ∧
  (∀ (s : State) (g : BitVec 2) (d : BitVec 3) (a b : BitVec 7),
    let ftz := s.grp.fpctl.getLsbD 2
    let x := fun t => opnd32 s.grp a.toNat t
    let y := fun t => opnd32 s.grp b.toNat t
    let c := fun t => fcmp (ofBits fp32 ftz (x t).toNat) (ofBits fp32 ftz (y t).toNat)
    let e := fun t => fcmp (ofBits fp64 ftz (opnd64 s.grp a.toNat t).toNat) (ofBits fp64 ftz (opnd64 s.grp b.toNat t).toNat)
    ∀ p ∈ [
      (Instr.vceq g d a b, fun t => decide (x t = y t)), (.vcne g d a b, fun t => decide (x t ≠ y t)),
      (.vclt g d a b, fun t => decide ((x t).toInt < (y t).toInt)), (.vcle g d a b, fun t => decide ((x t).toInt ≤ (y t).toInt)),
      (.vcltu g d a b, fun t => decide ((x t).toNat < (y t).toNat)), (.vcleu g d a b, fun t => decide ((x t).toNat ≤ (y t).toNat)),
      (.vfceq g d a b, fun t => decide (c t = some .eq)), (.vfcne g d a b, fun t => decide (c t ≠ some .eq)),
      (.vfclt g d a b, fun t => decide (c t = some .lt)), (.vfcle g d a b, fun t => decide (c t = some .lt ∨ c t = some .eq)),
      (.vfcun g d a b, fun t => decide (c t = none)), (.vdceq g d a b, fun t => decide (e t = some .eq)),
      (.vdclt g d a b, fun t => decide (e t = some .lt)), (.vdcle g d a b, fun t => decide (e t = some .lt ∨ e t = some .eq))],
      Ready p.1 s → ∃ m : Word, (∀ t, t < 32 → m.getLsbD t = ((actOf s.grp g).getLsbD t && p.2 t)) ∧ WritesMask p.1 s d m)

/-- R134-R138, R141: the cross-thread functions and VMFS. A shuffle takes the element of thread j, or the own one where j is not in 0-31;
VSEL acts on every live thread and selects by its guard; VBALLOT writes one scalar even where no thread acts. -/
def Obligations.VectorCrossThread : Prop :=
  ∀ (s : State) (g : BitVec 2) (d a b : BitVec 7) (b5 d5 : BitVec 5),
    let x := opnd32 s.grp a.toNat
    let y := fun t => (opnd32 s.grp b.toNat t).toNat
    let pick := fun (t : Nat) (j : Int) => if 0 ≤ j ∧ j ≤ 31 then x j.toNat else x t
    let act := actOf s.grp g
    (∀ p ∈ [(Instr.vshfl g d a b, fun t => pick t (y t)), (.vshflx g d a b, fun t => pick t ((t ^^^ y t : Nat) : Int)),
        (.vshflu g d a b, fun t => pick t ((t : Int) - y t)), (.vshfld g d a b, fun t => pick t ((t : Int) + y t)),
        (.vbcast g d a b5, fun t => pick t ((getS s.grp b5.toNat).toNat % 2 ^ 32 : Nat)), (.vtid g d, fun t => BitVec.ofNat 32 t),
        (.vmfs g d a 0, fun _ => (getS s.grp a.toNat).extractLsb' 0 32)],
      Ready p.1 s → WritesVector p.1 s act d.toNat p.2) ∧
    (Ready (.vmfs g d a 1) s → WritesVector64 (.vmfs g d a 1) s act d.toNat fun _ => getS s.grp a.toNat) ∧
    (Ready (.vsel g d a b) s → WritesVector (.vsel g d a b) s s.grp.live d.toNat fun t =>
      if g = 0 ∨ (getK s.grp g.toNat).getLsbD t then x t else opnd32 s.grp b.toNat t) ∧
    (Ready (.vballot g d5 a) s → ∃ m : Word, (∀ t, t < 32 → m.getLsbD t = (act.getLsbD t && decide (x t ≠ 0))) ∧
      WritesScalar (.vballot g d5 a) s (d5.setWidth 7) (m.setWidth 64))

/-- R139, R91: the reductions over the acting threads, written to one scalar even where no thread acts. VREDFADD sums 32 values in a tree of five levels, +0 for a thread that
does not act. R140: the scans, in ascending order over the acting threads: thread t takes the running value of the acting threads up to it. -/
def Obligations.VectorReduceAndScan : Prop :=
  (∀ (s : State) (g : BitVec 2) (d : BitVec 5) (a : BitVec 7),
    let x := opnd32 s.grp a.toNat
    let xs := ((List.range 32).filter fun t => (actOf s.grp g).getLsbD t).map x
    let sum := (xs.map BitVec.toNat).sum
    let least := (xs.map BitVec.toInt).foldl min (2 ^ 31 - 1)
    let most := (xs.map BitVec.toInt).foldl max (-2 ^ 31)
    let ftz := s.grp.fpctl.getLsbD 2
    let add := fun u v : Nat => fsum fp32 (s.grp.fpctl.extractLsb' 0 2) ftz [ofBits fp32 ftz u, ofBits fp32 ftz v]
    let lane := fun t => if (actOf s.grp g).getLsbD t then (x t).toNat else 0
    let l1 := fun t => add (lane (2 * t)) (lane (2 * t + 1))
    let l2 := fun t => add (l1 (2 * t)) (l1 (2 * t + 1))
    let l3 := fun t => add (l2 (2 * t)) (l2 (2 * t + 1))
    let l4 := fun t => add (l3 (2 * t)) (l3 (2 * t + 1))
    ∀ p ∈ [(Instr.vredadd g d a, (BitVec.ofNat 32 sum).signExtend 64), (.vredmin g d a, BitVec.ofInt 64 least), (.vredmax g d a, BitVec.ofInt 64 most),
        (.vredminu g d a, BitVec.ofNat 64 ((xs.map BitVec.toNat).foldl min (2 ^ 32 - 1))),
        (.vredmaxu g d a, BitVec.ofNat 64 ((xs.map BitVec.toNat).foldl max 0)), (.vredfadd g d a, BitVec.ofNat 64 (add (l4 0) (l4 1)))],
      Ready p.1 s → WritesScalar p.1 s (d.setWidth 7) p.2) ∧
  (∀ (s : State) (g : BitVec 2) (d a : BitVec 7),
    let x := opnd32 s.grp a.toNat
    let rm := s.grp.fpctl.extractLsb' 0 2
    let ftz := s.grp.fpctl.getLsbD 2
    let v := fun y : Word => ofBits fp32 ftz y.toNat
    let upTo := fun t => (List.range (t + 1)).filter fun u => (actOf s.grp g).getLsbD u
    let run := fun acc u => match acc with
      | none => some (BitVec.ofNat 32 (toBits fp32 0 ftz (v (x u))))
      | some y => some (BitVec.ofNat 32 (fsum fp32 rm ftz [v y, v (x u)]))
    (Ready (.vscan g d a) s → WritesVector (.vscan g d a) s (actOf s.grp g) d.toNat fun t => ((upTo t).map x).foldl (· + ·) 0) ∧
    (Ready (.vscanf g d a) s → WritesVector (.vscanf g d a) s (actOf s.grp g) d.toNat fun t => ((upTo t).foldl run none).getD 0))

/-- R68, R39: rounding. For a positive number m × 2^(−149 − k) that rounds below ∞, the FP32 bits `r` of round to nearest even are those of
the nearest value, the even one of two that are equally near; toward zero takes the largest value that is not above it. A value is counted
in units of 2^−149. -/
def Obligations.RoundsCorrectly : Prop :=
  let val := fun r : Nat => if r < 2 ^ 23 then r else (r % 2 ^ 23 + 2 ^ 23) * 2 ^ (r / 2 ^ 23 - 1)
  ∀ (m k : Nat), 0 < m →
    (let r := roundFin fp32 0 false false m (-149 - k) false
     r < 0x7F800000 → ∀ q, q < 0x7F800000 → q ≠ r →
      ((val r * 2 ^ k : Nat) - (m : Int)).natAbs < ((val q * 2 ^ k : Nat) - (m : Int)).natAbs ∨
      (((val r * 2 ^ k : Nat) - (m : Int)).natAbs = ((val q * 2 ^ k : Nat) - (m : Int)).natAbs ∧ r % 2 = 0)) ∧
    (let r := roundFin fp32 1 false false m (-149 - k) false
     val r * 2 ^ k ≤ m ∧ (r + 1 < 0x7F800000 → m < val (r + 1) * 2 ^ k))

/-- R98, R99, R147-R151, R244: a load whose accesses all pass their checks is issued: it becomes the youngest outstanding operation, with the place of each thread's bytes,
OCNT.L rises, and the group goes on at the next instruction; its destination and memory are as they were. `p` is what the checks of the threads, in ascending order, give.
With no acting thread there is no access and no counter changes. R98, R99, R147-R150, R244: a store whose accesses all pass their checks is issued: the youngest
outstanding operation holds the place of each thread's bytes and the data as they are at issue, OCNT.S rises, and the group goes on; memory is as it was.
No link that it takes to a peer is paused (R338). R149: where some accesses fault, the others are performed when the instruction issues, and the group parks or traps
(`FaultsAtIssue`), its counter one higher: a loaded thread's registers and a storing thread's bytes hold their values, every other register and byte what it held.
That the accesses of an instruction are performed at one completion is the model's choice (log 1). -/
def Obligations.LoadStoreIssue : Prop :=
  (∀ (s : State) (g w o sc : BitVec 2) (w1 : BitVec 1) (f : BitVec 3) (d a : BitVec 7) (b5 : BitVec 5) (n : BitVec 4),
    s.grp.cntL ≠ 63 →
    let issued := fun (i : Instr) (ctx : BitVec 16) (len : Nat) (vas : List (Nat × DWord)) (acq rel : Bool) (kind : List Access → OpKind) =>
      let p := gather (fun s => threadAcc s { envOf s with ctx := ctx } .ls len true false) false len vas s
      Ready i s → p.2.all Got.fine = true → watched s true false len p.2 = false → (s.grid.det && anyDet p.2) = false →
        (kind (fineAccs p.2)).paused s = false →
        IssuesOp i s p.1 (kind (fineAccs p.2)) .load acq rel false ∧ SameButCaches s p.1
    let faults := fun (i : Instr) (ctx : BitVec 16) (len : Nat) (vas : List (Nat × DWord)) (signed rel : Bool) =>
      let p := gather (fun s => threadAcc s { envOf s with ctx := ctx } .ls len true false) false len vas s
      let r := vreg s.grp d.toNat
      FaultsAtIssue i s .load none len true false p (.load r len signed (fineAccs p.2)) rel (s.grid.det && anyDet p.2) fun u =>
        (∀ n t, t < 32 → mget u.grp.vregs (n * 32 + t) = loadedElem s r len signed (fineAccs p.2) n t) ∧ (s.NoFaultQueue → u.mem = s.mem)
    let acq := o = 1 || o = 3
    let rel := o = 3
    let act := actOf s.grp g
    let vas := fun len off => (threads act).map fun t => (t, opnd64 s.grp a.toNat t + off * BitVec.ofNat 64 len)
    let len := 2 ^ w.toNat
    let va := getS s.grp a.toNat + n.signExtend 64 * BitVec.ofNat 64 len
    let fx := if f = 5 then 8 else if f = 4 then 4 else if f = 3 then 2 else if f = 2 then 2 else 1
    (va.toNat % len = 0 → ∀ l dt fill, threadAcc s (envOf s) .ls len true false 0 va = .ok l dt fill →
      issued (.sld d a w o sc n) s.grp.ctx len [(0, va)] acq rel fun _ => .sload d.toNat len ⟨0, va, l⟩) ∧
    (va.toNat % len = 0 → FaultsAtIssue (.sld d a w o sc n) s .load (some s.grp.live) len true false
      (gather (fun s => threadAcc s (envOf s) .ls len true false) false len [(0, va)] s) (.load 0 len false []) rel false fun u =>
        u.grp.vregs = s.grp.vregs ∧ (s.NoFaultQueue → u.mem = s.mem)) ∧
    (act ≠ 0 → faults (.vld g d a w o sc n) s.grp.ctx len (vas len (n.signExtend 64)) true rel ∧
      faults (.vldu g d a w1 o sc n) s.grp.ctx (2 ^ w1.toNat) (vas (2 ^ w1.toNat) (n.signExtend 64)) false rel ∧
      faults (.vldx g f d a b5) ((getS s.grp b5.toNat).extractLsb' 0 16) fx (vas fx 0) (f = 0 || f = 2) false) ∧
    (act ≠ 0 → issued (.vld g d a w o sc n) s.grp.ctx len (vas len (n.signExtend 64)) acq rel (.load (vreg s.grp d.toNat) len true)) ∧
    (act ≠ 0 → let len1 := 2 ^ w1.toNat
      issued (.vldu g d a w1 o sc n) s.grp.ctx len1 (vas len1 (n.signExtend 64)) acq rel (.load (vreg s.grp d.toNat) len1 false)) ∧
    (act ≠ 0 → issued (.vldx g f d a b5) ((getS s.grp b5.toNat).extractLsb' 0 16) fx (vas fx 0) false false
      (.load (vreg s.grp d.toNat) fx (f = 0 || f = 2))) ∧
    (act = 0 → ∀ i ∈ [Instr.vld g d a w o sc n, .vldu g d a w1 o sc n, .vldx g f d a b5, .vst g d a w o sc n], Ready i s → Completes i s s.grp)) ∧
  (∀ (s : State) (g w o sc : BitVec 2) (d a : BitVec 7) (n : BitVec 4),
    s.grp.cntS ≠ 63 → CommAtMost 62 s →
    let len := 2 ^ w.toNat
    let check := fun s => threadAcc s (envOf s) .ls len false true
    let acq := o = 3
    let rel := o = 2 || o = 3
    let issued := fun (i : Instr) (vas : List (Nat × DWord)) (data : Nat → DWord) =>
      let p := gather check true len vas s
      let kind : OpKind := .store len ((fineAccs p.2).map fun x => (x, data x.thread)) sc
      Ready i s → p.2.all Got.fine = true → watched s false true len p.2 = false → kind.paused s = false →
        (s.grid.det = true → anyDet p.2 = true → o ≠ 3) → IssuesOp i s p.1 kind .store acq rel (anyDet p.2) ∧ SameButCaches s p.1
    let faults := fun (i : Instr) (whole : Option Word) (vas : List (Nat × DWord)) (data : Nat → DWord) =>
      let p := gather check true len vas s
      let accs := (fineAccs p.2).map fun x => (x, data x.thread)
      FaultsAtIssue i s .store whole len false true p (.store len accs sc) rel (anyDet p.2) fun u => u.grp.vregs = s.grp.vregs ∧
        ((∀ x ∈ accs, x.1.loc.space = .phys) → s.NoFaultQueue → ∀ k, mget u.mem k = storedByte s len accs k)
    let act := actOf s.grp g
    let off := n.signExtend 64 * BitVec.ofNat 64 len
    let vas := (threads act).map fun t => (t, opnd64 s.grp a.toNat t + off)
    let data := fun t => if w = 3 then opnd64 s.grp d.toNat t else (opnd32 s.grp d.toNat t).setWidth 64
    ((getS s.grp a.toNat + off).toNat % len = 0 →
      issued (.sst d a w o sc n) [(0, getS s.grp a.toNat + off)] (fun _ => getS s.grp d.toNat) ∧
      faults (.sst d a w o sc n) (some s.grp.live) [(0, getS s.grp a.toNat + off)] fun _ => getS s.grp d.toNat) ∧
    (act ≠ 0 → issued (.vst g d a w o sc n) vas data ∧ faults (.vst g d a w o sc n) none vas data))

/-- R99, R148, R149: LOAD_COMPLETION of the issuing group's load. SLD zero-extends its value; a vector load extends each thread's value to 32 bits, or fills a pair of
registers for 8 bytes. OCNT.L falls, the operation is gone, and nothing else of the machine changes. R99, R148: STORE_PERFORMED of a store to memory. Each byte of memory
that some thread's bytes cover holds the byte of the highest such thread, and every other byte is as it was; OCNT.S falls, the operation is gone, and the group's
registers keep their values.
That the accesses of an instruction are performed at one completion is the model's choice (log 1). -/
def Obligations.LoadStoreEffect : Prop :=
  (∀ (s : State) (o : Op) (d n : Nat),
    readyOp s o.id = some o → o.owner = .group s.grp.key → s.grp.phase = .running → (∀ n, s.grp.wait ≠ .yieldc n ∨ n < s.grp.cntC) →
    s.team.key = tkeyOf s.grp.key → s.team.phase = .running →
    n = 1 ∨ n = 2 ∨ n = 4 ∨ n = 8 →
    let s' := { s with ops := s.ops.filter fun x => x.id ≠ o.id }
    (∀ acc, o.kind = .sload d n acc → ∃ m, exec (.loadCompletion o.id) s = .next { s' with grp := { s.grp with sregs := m, cntL := s.grp.cntL - 1 } } ∧
      ∀ j, getS { s.grp with sregs := m } j = if j = 127 then 0 else if j = d then BitVec.ofNat 64 (rdNat s acc.loc n) else getS s.grp j) ∧
    (∀ signed accs, o.kind = .load d n signed accs → (accs.map Access.thread).Nodup → (∀ x ∈ accs, x.thread < 32) →
      ∃ m, exec (.loadCompletion o.id) s = .next { s' with grp := { s.grp with vregs := m, cntL := s.grp.cntL - 1 } } ∧
        ∀ r t, t < 32 → mget m (r * 32 + t) = loadedElem s d n signed accs r t)) ∧
  (∀ (s : State) (o : Op) (n : Nat) (accs : List (Access × DWord)) (sc : BitVec 2),
    readyOp s o.id = some o → o.owner = .group s.grp.key → s.grp.phase = .running → s.grp.wait = .none → s.team.key = tkeyOf s.grp.key →
    s.team.phase = .running → o.kind = .store n accs sc → n ≤ 8 → (∀ x ∈ accs, x.1.loc.space = .phys) →
    ∃ t, exec (.storePerformed o.id) s = .next t ∧ t.ops = s.ops.filter (fun x => x.id ≠ o.id) ∧
      t.grp = { s.grp with cntS := s.grp.cntS - 1 } ∧
      ∀ k, mget t.mem k = storedByte s n accs k)

/-- R152-R155: a word atomic whose accesses all pass their checks, none of them to host memory, is issued: it becomes the youngest outstanding
operation with its operands as they are at issue, OCNT.S rises, and the group goes on, where no link that it takes to a peer is paused (R338). A
scalar atomic acts whatever LIVE holds. R156: one with an access to home 10 is issued as such an operation too, and holds its group until its completions
return; where it is not one of the add, exchange and compare-and-swap that the link carries, or the hub may not send it (R357), the thread takes HOST_AMO_UNSUP, for which EXIT does
not wait (R383). R149: where some accesses fault, the others are performed when the instruction issues, and the group parks or traps (`FaultsAtIssue`): a performed thread's register takes the old
value and its location the new one, every other register and byte keeps what it held. -/
def Obligations.AtomicIssue : Prop :=
  ∀ (s : State) (g : BitVec 2) (d a b : BitVec 7),
    s.grp.cntS ≠ 63 → CommAtMost 62 s →
    let issued := fun (i : Instr) (op : AmoOp) (len : Nat) (vas : List (Nat × DWord)) (kind : List Access → OpKind) =>
      let p := gather (fun s => threadAmo s (envOf s) op len) true len vas s
      Ready i s → p.2.all Got.fine = true → toHost p.2 = false → watched s true true len p.2 = false → (kind (fineAccs p.2)).paused s = false →
        IssuesOp i s p.1 (kind (fineAccs p.2)) .store false false true ∧ SameButCaches s p.1
    let hostIssued := fun (i : Instr) (op : AmoOp) (len : Nat) (vas : List (Nat × DWord)) (kind : List Access → OpKind) =>
      let p := gather (fun s => threadAmo s (envOf s) op len) true len vas s
      Ready i s → p.2.all Got.fine = true → toHost p.2 = true → (kind (fineAccs p.2)).paused s = false → AtCommPoint s →
        SameButCaches s p.1 ∧ exec i s = .next { p.1 with
          ops := s.ops ++ [newOp s (kind (fineAccs p.2)) false false (some ⟨[], []⟩) false]
          nextOp := s.nextOp + 1
          grp := { cntUp .store s.grp with held := some .store, wait := .hostAtomic s.nextOp, stallAt := s.cycles } }
    let unsent := fun (op : AmoOp) => op ∉ [AmoOp.add, .xchg, .cas] ∨ (s.grid.hub ∈ s.atomicsOff ∧ s.grid.hub ∉ s.cxl)
    let act := actOf s.grp g
    (∀ op n t va l dt fill, threadAcc s (envOf s) .amo n true true t va = .ok l dt fill → threadAmo s (envOf s) op n t va =
      if va.toNat / 2 ^ 53 = 10 ∧ unsent op then .fault 0x50 va none none else .ok l dt fill) ∧
    (act ≠ 0 → ∀ p ∈ [(Instr.vamoadd g d a b, AmoOp.add), (.vamomin g d a b, .min), (.vamomax g d a b, .max), (.vamominu g d a b, .minu),
        (.vamomaxu g d a b, .maxu), (.vamoand g d a b, .and), (.vamoor g d a b, .or), (.vamoxor g d a b, .xor), (.vcas g d a b, .cas),
        (.vxchg g d a b, .xchg), (.vamofadd g d a b, .fadd), (.vamofmin g d a b, .fmin), (.vamofmax g d a b, .fmax)],
      issued p.1 p.2 4 ((threads act).map fun t => (t, opnd64 s.grp a.toNat t)) fun accs =>
        .amo p.2 (vreg s.grp d.toNat) (accs.map fun x => (x, opnd32 s.grp b.toNat x.thread, getV s.grp d.toNat x.thread))) ∧
    (act ≠ 0 → ∀ p ∈ [(Instr.vamoadd g d a b, AmoOp.add), (.vamomin g d a b, .min), (.vamomax g d a b, .max), (.vamominu g d a b, .minu),
        (.vamomaxu g d a b, .maxu), (.vamoand g d a b, .and), (.vamoor g d a b, .or), (.vamoxor g d a b, .xor), (.vcas g d a b, .cas),
        (.vxchg g d a b, .xchg), (.vamofadd g d a b, .fadd), (.vamofmin g d a b, .fmin), (.vamofmax g d a b, .fmax)],
      let vas := (threads act).map fun t => (t, opnd64 s.grp a.toNat t)
      let r := vreg s.grp d.toNat
      let ops := fun (accs : List Access) => accs.map fun x => (x, opnd32 s.grp b.toNat x.thread, getV s.grp d.toNat x.thread)
      let q := gather (fun s => threadAmo s (envOf s) p.2 4) true 4 vas s
      hostIssued p.1 p.2 4 vas (fun accs => .amo p.2 r (ops accs)) ∧
      (toHost q.2 = false → ∀ x ∈ wordAmos, x.1 = p.2 → FaultsAtIssue p.1 s .store none 4 true true q (.amo p.2 r (ops (fineAccs q.2))) false true fun u =>
        ∀ key, AmoAccs s key (ops (fineAccs q.2)) →
          (∀ n t, t < 32 → mget u.grp.vregs (n * 32 + t) = amoElem s x.2 r (ops (fineAccs q.2)) n t) ∧
          (s.NoFaultQueue → ∀ k, mget u.mem k = amoByte s x.2 (ops (fineAccs q.2)) k))) ∧
    (∀ p ∈ [(Instr.samoadd d a b, AmoOp.add), (.samomin d a b, .min), (.samomax d a b, .max), (.samoand d a b, .and), (.samoor d a b, .or),
        (.samoxor d a b, .xor), (.scas d a b, .cas), (.sxchg d a b, .xchg)],
      let va := getS s.grp a.toNat
      (∀ l dt fill, threadAmo s (envOf s) p.2 8 0 va = .ok l dt fill →
        let kind := fun _ => OpKind.samo p.2 d.toNat ⟨0, va, l⟩ (getS s.grp b.toNat) (getS s.grp d.toNat)
        issued p.1 p.2 8 [(0, va)] kind ∧ hostIssued p.1 p.2 8 [(0, va)] kind) ∧
      FaultsAtIssue p.1 s .store (some s.grp.live) 8 true true (gather (fun s => threadAmo s (envOf s) p.2 8) true 8 [(0, va)] s) (.amo p.2 0 []) false true
        (fun u => u.grp.vregs = s.grp.vregs ∧ (s.NoFaultQueue → u.mem = s.mem)) ∧
      (∀ l dt fill, Ready p.1 s → va.toNat / 2 ^ 53 = 10 → unsent p.2 → threadAcc s (envOf s) .amo 8 true true 0 va = .ok l dt fill →
        nowBlocked s (.amo p.2 0 []) false = none → AtCommPoint s → HasHandler s.grp →
        ∃ u, exec p.1 s = .next u ∧ u.grp.pc = s.grp.tvec ∧ u.grp.tcause = 0x50 ∧ u.grp.tval = va ∧ u.grp.epc = s.grp.pc ∧ u.grp.unf = s.grp.live ∧ u.grp.replay = true ∧
          u.grp.heldTrap = some .store ∧ u.grp.heldFree = true ∧ u.grp.cntS = s.grp.cntS + 1 ∧ u.grp.sregs = s.grp.sregs ∧ u.mem = s.mem ∧ u.ops = s.ops))

/-- R152-R155: ATOMIC_COMPLETION. A scalar atomic writes the new 64-bit value of its location, and the old one to its register. A vector atomic
does so per thread with 32 bits, in ascending order: a thread finds what the lower threads that name its location have left there. The locations of two threads are the same or
lie apart, and are written and read under one key (R373). S falls.
That the threads' updates are one step is the model's choice (log 1). -/
def Obligations.AtomicCompletes : Prop :=
  ∀ (s : State) (o : Op) (d : Nat),
    readyOp s o.id = some o → o.host = none → o.owner = .group s.grp.key → s.grp.phase = .running → s.grp.wait = .none →
    s.team.key = tkeyOf s.grp.key → s.team.phase = .running →
    (∀ x : Access, x.loc.space = .phys → ∀ y c : DWord,
      let old : DWord := BitVec.ofNat 64 (rdNat s x.loc 8)
      ∀ p ∈ [(AmoOp.add, old + y), (.min, if old.toInt < y.toInt then old else y), (.max, if old.toInt < y.toInt then y else old), (.and, old &&& y),
          (.or, old ||| y), (.xor, old ^^^ y), (.cas, if old = c then y else old), (.xchg, y)],
        o.kind = .samo p.1 d x y c → ∃ t m, exec (.atomicCompletion o.id) s = .next t ∧
          t.grp = { s.grp with sregs := m, cntS := s.grp.cntS - 1 } ∧ t.ops = s.ops.filter (fun x => x.id ≠ o.id) ∧
          (∀ j, getS t.grp j = if j = 127 then 0 else if j = d then old else getS s.grp j) ∧
          ∀ k, mget t.mem k = if x.loc.covers 8 k then byteOf p.2 (k - x.loc.off) else mget s.mem k) ∧
    (∀ (accs : List (Access × Word × Word)) (op : AmoOp) (key : Nat), o.kind = .amo op d accs → o.into = none → AmoAccs s key accs →
      ∀ p ∈ wordAmos, op = p.1 → ∃ t m, exec (.atomicCompletion o.id) s = .next t ∧
          t.grp = { s.grp with vregs := m, cntS := s.grp.cntS - 1 } ∧ t.ops = s.ops.filter (fun x => x.id ≠ o.id) ∧
          (∀ r u, u < 32 → mget m (r * 32 + u) = amoElem s p.2 d accs r u) ∧ ∀ k, mget t.mem k = amoByte s p.2 accs k)

/-- R165, R166: the tag table. A slot index is read unsigned; a key is bits 56 to 12 of an address; CC as the table of R165 says, the flags
not named 0. The instruction waits only for the group's acquires. -/
def Obligations.TagTable : Prop :=
  ∀ (s : State) (d a b : BitVec 7), (ownOps s).all (fun o => !o.acq) = true →
    let ok : CC := ⟨true, false, false, false⟩
    let no : CC := ⟨false, false, true, false⟩
    let slot := (getS s.grp a.toNat).toNat
    let keyA := (getS s.grp a.toNat).extractLsb' 12 45
    let keyB := (getS s.grp b.toNat).extractLsb' 12 45
    let team := fun tags => { s with team := { s.team with tags := tags } }
    (Ready (.tlook d a) s → (∀ p ∈ s.team.tags, p.2 ≠ keyA) → Completes (.tlook d a) s { setS d.toNat (0 - 1) s.grp with cc := no }) ∧
    (Ready (.tlook d a) s → ∀ n, (n, keyA) ∈ s.team.tags → (∀ p ∈ s.team.tags, p.2 = keyA → p.1 = n) →
      Completes (.tlook d a) s { setS d.toNat (BitVec.ofNat 64 n) s.grp with cc := ok }) ∧
    (Ready (.tset a b) s → slot < s.team.tagSlots →
      CompletesIn (.tset a b) s (team ((s.team.tags.filter fun p => p.1 ≠ slot ∧ p.2 ≠ keyB) ++ [(slot, keyB)])) { s.grp with cc := ok }) ∧
    (Ready (.tset a b) s → s.team.tagSlots ≤ slot → Completes (.tset a b) s { s.grp with cc := no }) ∧
    (Ready (.tinv a) s → CompletesIn (.tinv a) s (team (s.team.tags.filter fun p => p.2 ≠ keyA))
      { s.grp with cc := if s.team.tags.any fun p => p.2 = keyA then ok else no }) ∧
    (Ready .tclr s → CompletesIn .tclr s (team []) { s.grp with cc := ok }) ∧
    (Ready (.tslot d a) s → slot < s.team.tagSlots → Completes (.tslot d a) s
      { setS d.toNat (0x01E0000000000000 + BitVec.ofNat 64 s.team.scratchBytes - BitVec.ofNat 64 ((s.team.tagSlots - slot) * 4096)) s.grp with cc := ok }) ∧
    (Ready (.tslot d a) s → s.team.tagSlots ≤ slot → Completes (.tslot d a) s { setS d.toNat 0 s.grp with cc := no })

/-- R103, R105, R106, R115-R117: what an instruction that waits does once nothing is left to wait for. WAIT never waits for a counter at or below its bound, and never for 63.
A deferred memory error is taken at such an instruction instead (R179), so there is none here. R103, R105, R115, R116: the stall and its reason. The first class in
the order L, S, C, T whose counter exceeds its bound gives the reason of WAIT. A stalled instruction changes nothing and stays at PC. R328, R253: in a deterministic launch an
attempt of an instruction that waits for an operation of the group's present quantum ends without effect and counts in CLK; which instructions do so is the model's reading
(log 12). -/
def Obligations.Waits : Prop :=
  (∀ (s : State) (l sc c t : BitVec 6) (n : BitVec 3) (o x : BitVec 2) (p q : BitVec 3), s.grp.eccPend = [] →
    (s.grp.cntL ≤ l.toNat ∧ s.grp.cntS ≤ sc.toNat ∧ s.grp.cntC ≤ c.toNat ∧ s.grp.cntT ≤ t.toNat → CommAtMost sc.toNat s → Ready (.wait l sc c t) s →
      Completes (.wait l sc c t) s s.grp) ∧
    (Ready (.mbatch n) s → Completes (.mbatch n) s { s.grp with batchOpen := s.grp.batchOpen ||| (1 <<< n.toNat), curBatch := some n.toNat }) ∧
    (mget s.grp.batchPend n.toNat = 0 → Ready (.mwait n) s → Completes (.mwait n) s { s.grp with
      batchOpen := s.grp.batchOpen &&& ~~~((1 : BitVec 8) <<< n.toNat)
      curBatch := if s.grp.curBatch = some n.toNat then none else s.grp.curBatch }) ∧
    ((ownOps s).all (fun e => !(e.kind.atomic || e.kind.vec = some true || (e.kind.vec = some false && o != 1))) = true → NoComm [.store, .atomic] s → Ready (.fence o x) s →
      Completes (.fence o x) s s.grp) ∧
    (pathPending p.toNat s = none → NoComm (commOn p.toNat) s → Ready (.fencex p q x) s → Completes (.fencex p q x) s s.grp) ∧
    (Ready .nop s → Completes .nop s s.grp)) ∧
  (∀ (s : State) (l sc c t : BitVec 6) (n : BitVec 3) (o x : BitVec 2) (p q : BitVec 3),
    (∀ r, (if l.toNat < s.grp.cntL then some Reason.load else if sc.toNat < s.grp.cntS then some .store else if c.toNat < s.grp.cntC then some .copy
        else if t.toNat < s.grp.cntT then some .tile else none) = some r → CommAtMost sc.toNat s → Ready (.wait l sc c t) s → Stalls (.wait l sc c t) s s r) ∧
    (mget s.grp.batchPend n.toNat ≠ 0 → Ready (.mwait n) s → Stalls (.mwait n) s s .tile) ∧
    ((ownOps s).any (fun e => e.kind.vec = some true) = true → NoComm [.store, .atomic] s → Ready (.fence o x) s → Stalls (.fence o x) s s .load) ∧
    ((ownOps s).any (fun e => e.kind.vec = some true) = false → (ownOps s).any (fun e => e.kind.atomic || (e.kind.vec = some false && o != 1)) = true →
      o ≠ 0 → NoComm [.store, .atomic] s → Ready (.fence o x) s → Stalls (.fence o x) s s .store) ∧
    (∀ r, pathPending p.toNat s = some r → NoComm (commOn p.toNat) s → Ready (.fencex p q x) s → Stalls (.fencex p q x) s s r)) ∧
  (∀ (s : State) (l sc c t : BitVec 6) (o x : BitVec 2) (p q : BitVec 3), s.grid.det = true → s.grp.priv = false →
    (sc.toNat < s.grp.commS → Ready (.wait l sc c t) s → Reattempts (.wait l sc c t) s) ∧
    (s.grp.comm .atomic = true ∨ (2 ≤ o.toNat ∧ s.grp.comm .store = true) → Ready (.fence o x) s → Reattempts (.fence o x) s) ∧
    ((p = 0 ∧ s.grp.comm .store = true) ∨ (p = 3 ∧ (s.grp.comm .atomic = true ∨ s.grp.comm .drain = true)) ∨ (p = 5 ∧ s.grp.comm .send = true) →
      Ready (.fencex p q x) s → Reattempts (.fencex p q x) s))

/-- R106: YIELD gives the active place to the first eligible pending group of the lane and goes behind the lane's other groups; with none it has no effect. YIELDC does the
same where OCNT.C ≤ n; else the group gives its place up and waits with reason COPY. R107, R20, R120: WINDOW sets WINBASE where n lies in the allocation, and else raises
REGRANGE with TVAL n × 16. MARK has no effect where the group's launch is not traced, and leaves one BLOCK record where it is and staging has room (R391,
R392); dt counts whole arithmetic cycles since the spindle's previous record (R393). How the clock of the power state counts in dt (log 30), and that UNF of
WINDOW's trap holds LIVE (log 38), are the model's readings. -/
def Obligations.YieldWindowMark : Prop :=
  (∀ (s : State) (n : BitVec 6),
    let back := { s.grp with set := .pending, order := lastOrder s + 1 }
    let is : List Instr := if s.grp.cntC ≤ n.toNat then [.yield, .yieldc n] else [.yield]
    s.grp.phase ≠ .absent →
    (∀ i ∈ is, Ready i s → nextPending s s.grp = none → Completes i s s.grp) ∧
    (∀ i ∈ is, ∀ x, Ready i s → nextPending s s.grp = some x → x.key ≠ s.grp.key →
      CompletesIn i s (updGroup x.key (fun g => { g with set := .active }) s) back) ∧
    (n.toNat < s.grp.cntC → Ready (.yieldc n) s → ∃ u, exec (.yieldc n) s = .next u ∧ u.mem = s.mem ∧
      u.grp = { back with wait := .yieldc n.toNat })) ∧
  (∀ (s : State) (n : BitVec 3) (i : BitVec 14),
    (Ready (.window n) s → n.toNat < s.grp.alloc → Completes (.window n) s { s.grp with winbase := n }) ∧
    (Ready (.window n) s → s.grp.alloc ≤ n.toNat → HasHandler s.grp →
      Traps (.window n) s 0x04 (BitVec.ofNat 64 (n.toNat * 16)) s.grp.pc s.grp.live true) ∧
    (Ready (.mark i) s → tracedSlot s s.grp.key = none → Completes (.mark i) s s.grp) ∧
    (∀ k t, Ready (.mark i) s → tracedSlot s s.grp.key = some k → findTeam s (tkeyOf s.grp.key) = some t →
      (dbgOf s t.spindle).staged.length < 64 → s.team.spindle = t.spindle → (dbgOf s t.spindle).lost = 0 →
      cyclesSince s (dbgOf s t.spindle) < 2 ^ 15 →
      ∃ u, exec (.mark i) s = .next u ∧ u.grp = s.grp.goTo (s.grp.pc + 4) ∧ u.mem = s.mem ∧
        (dbgOf u t.spindle).staged = (dbgOf s t.spindle).staged ++ [BitVec.ofNat 128 (1 + k % 16 * 2 ^ 4 +
          cyclesSince s (dbgOf s t.spindle) * 2 ^ 8 + codeOff s s.grp.key s.grp.pc % 2 ^ 22 * 2 ^ 23 + i.toNat * 2 ^ 45 +
          gidOf s.grp.key % 2 ^ 37 * 2 ^ 59 + s.grp.live.toNat * 2 ^ 96)]))

/-- R109, R110: an arrival returns the phase it found and, where it is the last that the phase needs, ends the phase; the count of the first
arrival governs. BARA returns the token. BAR goes on where its own arrival ended the phase, and else waits until the phase has. BARW goes on where
the phase differs from its token. No earlier load, store or word atomic of the group is outstanding at an arrival. -/
def Obligations.Barriers : Prop :=
  ∀ (s : State) (d : BitVec 7) (n : BitVec 4) (c b : BitVec 7), vecPending true true s = none → NoComm [.store, .atomic] s →
    let x := barrierOf s n.toNat
    let need := if x.arrivals = 0 then c.toNat else x.need
    let last := x.arrivals + 1 = need
    let after : Barrier := if last then ⟨x.phase + 1, need, 0, 0⟩ else ⟨x.phase, need, x.arrivals + 1, x.arrived ||| (1 <<< s.grp.key.idx)⟩
    let arrived := { s with team := { s.team with barriers := s.team.barriers.modify n.toNat fun _ => after } }
    n.toNat < s.team.barriers.length →
    (Ready (.bara d n c) s → AtPoint s → CompletesIn (.bara d n c) s arrived.progressed (setS d.toNat (x.phase.setWidth 64) s.grp)) ∧
    (Ready (.bar n c) s → AtPoint s → last → CompletesIn (.bar n c) s arrived.progressed s.grp) ∧
    (Ready (.bar n c) s → s.grid.det = false → ¬ last → exec (.bar n c) s = .next { arrived with grp := { s.grp with wait := .barrier n.toNat x.phase } }) ∧
    (∀ tok, s.grp.phase = .running → s.grp.wait = .barrier n.toNat tok → s.grp.Quiet → AtPoint s → x.phase ≠ tok →
      CompletesIn (.bar n c) s s.progressed { s.grp with wait := .none }) ∧
    (Ready (.barw n b) s → AtPoint s → x.phase ≠ (getS s.grp b.toNat).extractLsb' 0 32 → CompletesIn (.barw n b) s s.progressed s.grp) ∧
    (Ready (.barw n b) s → s.grid.det = false → x.phase = (getS s.grp b.toNat).extractLsb' 0 32 → Stalls (.barw n b) s s .bar)

/-- R111-R113: WAITA. A home without a monitor is answered C; a word that differs from the last seen answers no flag; an equal word puts the group to
sleep on its line; a wake ends the sleep with Z and the timer of BWTO with V. Homes 12 to 14, and what lies past home 15, raise ADDR; with 32 groups of the
spindle asleep the answer is C in every home. WAKEA wakes the groups of the device that sleep on the line; in a context-tagged region that is the line in
the caller's own tag, the model's choice (log 41). -/
def Obligations.Monitors : Prop :=
  ∀ (s : State) (a b : BitVec 7), s.grid.det = false →
    let va := getS s.grp a.toNat
    let home := va.toNat / 2 ^ 53
    let i := Instr.waita a b
    (Ready i s → va.toNat % 8 = 0 → 8 ≤ home ∧ home ≤ 11 → Completes i s { s.grp with cc := ⟨false, false, true, false⟩ }) ∧
    (Ready i s → va.toNat % 8 = 0 → home ≤ 11 ∨ home = 15 → 32 ≤ sleepers s → Completes i s { s.grp with cc := ⟨false, false, true, false⟩ }) ∧
    (Ready i s → HasHandler s.grp → va.toNat % 8 = 0 → (12 ≤ home ∧ home ≤ 14) ∨ 16 ≤ home → Traps i s 0x11 va s.grp.pc s.grp.live true) ∧
    (∀ l dt fill, Ready i s → va.toNat % 8 = 0 → home < 8 ∨ home = 15 → sleepers s < 32 → access s (envOf s) .ls va 8 true false false = .ok l dt fill →
      vecPending false true s = none → nowBlocked s (.sload 0 8 ⟨0, va, l⟩) false = none → (List.range 8).any (fun w => watchHits s w true false va 8) = false →
      (rdNat s l 8 ≠ (getS s.grp b.toNat).toNat → ∃ u, SameButCaches s u ∧ CompletesIn i s u { s.grp with cc := ⟨false, false, false, false⟩ }) ∧
      (rdNat s l 8 = (getS s.grp b.toNat).toNat → ∃ u, SameButCaches s u ∧
        exec i s = .next { u with grp := { s.grp with wait := .monitor { l with off := l.off / 64 * 64, gen := 0 } s.now false } })) ∧
    (∀ l since, s.grp.phase = .running → s.grp.Quiet → s.grp.wait = .monitor l since true →
      Completes i s { s.grp with wait := .none, cc := ⟨true, false, false, false⟩ }) ∧
    (∀ l since, s.grp.phase = .running → s.grp.Quiet → s.grp.wait = .monitor l since false → s.team.key = tkeyOf s.grp.key → s.team.phase = .running →
      s.grid.id = s.grp.key.launch → s.grid.id ≠ 0 → (∀ g ∈ s.groups, g.key ≠ s.grp.key) → (∀ t ∈ s.teams, t.key ≠ s.team.key) →
      (∀ d ∈ s.grids, d.id ≠ s.grid.id) → s.grp.bwto.toNat * 2000 ≤ s.now - since →
      Completes (.waitaTimeout s.grp.key) s { s.grp with wait := .none, cc := ⟨false, false, false, true⟩ }) ∧
    (∀ l dt fill, Ready (.wakea a) s → vecPending false true s = none → access s (envOf s) .ls va 1 false false false = .ok l dt fill →
      ∃ u, exec (.wakea a) s = .next u ∧ u.grp = s.grp.goTo (s.grp.pc + 4) ∧ u.mem = s.mem ∧
        ∀ g ∈ s.groups, ∀ m since, g.wait = .monitor m since false → overlaps l.line 1 m.line 64 = true → { g with wait := .monitor m since true } ∈ u.groups) ∧
    (Ready (.wakea a) s → vecPending false true s = none → access s (envOf s) .ls va 1 false false false ≠ .uncorr →
      (access s (envOf s) .ls va 1 false false false).fine = false → Completes (.wakea a) s s.grp)

/-- R118, R46: TRAP and BRK retire and enter the handler: EPC is PC + 4, TVAL is n, UNF and REPLAY are 0, PC is TVEC, the mode privileged. Where the debugger has armed the
stop on BRK, BRK stops the group at PC + 4 and enters no handler. R119, R149: ERET returns to EPC in the mode PPRIV names and leaves the handler; with REPLAY the
instruction there acts for the threads of UNF alone; the halts that the group held end. No register, mask, flag or byte of memory changes. With INTRAP 0 it raises ILL. -/
def Obligations.TrapAndReturn : Prop :=
  (∀ (s : State) (n : BitVec 7), HasHandler s.grp →
    let d := dbgOf s s.team.spindle
    (Ready (.trap n) s → Traps (.trap n) s 0x22 (n.setWidth 64) (s.grp.pc + 4) 0 false) ∧
    (Ready (.brk n) s → (d.brkStop && d.part = s.grid.part) = false → Traps (.brk n) s 0x20 (n.setWidth 64) (s.grp.pc + 4) 0 false) ∧
    (Ready (.brk n) s → (d.brkStop && d.part = s.grid.part) = true → s.grp.stopped = false →
      ∃ t, exec (.brk n) s = .next t ∧ t.grp = { s.grp.goTo (s.grp.pc + 4) with stopped := true } ∧ t.mem = s.mem)) ∧
  (∀ (s : State), Ready .eret s → s.grp.heldTrap = none → s.grp.hitsTrap = none →
    (s.grp.intrap = true → ∃ t, exec .eret s = .next t ∧ t.grp = { s.grp with
        pc := s.grp.epc
        priv := s.grp.ppriv
        intrap := false
        replay := false
        replayMask := if s.grp.replay then some s.grp.unf else none
        haltedBy := s.grp.haltedBy.filter fun i => i ≠ s.grp.key.idx
        heldFree := false
        decoded := none
        eccPend := s.grp.eccPend.map (EccDue.returned s.grp.epc) } ∧
      t.mem = s.mem ∧ t.ops = s.ops ∧ t.team = s.team ∧
      ∀ g ∈ t.groups, tkeyOf g.key = tkeyOf s.grp.key → s.grp.key.idx ∉ g.haltedBy) ∧
    (s.grp.intrap = false → HasHandler s.grp → Traps .eret s 0x01 (wordVal .eret) s.grp.pc s.grp.live false))

/-- R64, R36: what user mode may not do raises PRIV: ERET, HALTG, a privileged special register, a write of TCAUSE or TVAL. In privileged mode none
of these does. -/
def Obligations.Privileged : Prop :=
  ∀ (s : State) (d a : BitVec 7), s.grp.phase = .running → s.grp.wait = .none → s.grp.decoded = none → s.grp.Quiet → HasHandler s.grp →
    let is : List Instr := [.eret, .haltg a, .haltgRes a, .smts 21 a, .smts 22 a] ++
      ([20, 23, 24, 26] : List (BitVec 7)).flatMap fun n => [Instr.smfs d n, .smts n a]
    (s.grp.priv = false → ∀ i ∈ is, ∀ w, encode i = some w → Traps i s 0x02 (w.setWidth 64) s.grp.pc s.grp.live false) ∧
    (s.grp.priv = true → ∀ i ∈ is, decodeFault (checksOf i) s = none)

/-- R47, R298, R403: a trap without a handler, or inside one, ends the team: no group of it issues again, the cause is recorded, the trapped group
stays in its mode, and a dump is taken where the partition's dump is armed, which disarms it. Here the team is not released at once: a dump is
armed, or an operation of the team is outstanding. -/
def Obligations.TeamEnds : Prop :=
  ∀ (s : State) (n : BitVec 7), Ready (.trap n) s → s.grp.tvec = 0 ∨ s.grp.intrap = true → s.team.key = tkeyOf s.grp.key → s.team.phase = .running →
    (partOf s s.grid.part).dmpEn = true ∨ teamBusy s s.team.key = true →
    ∃ t, exec (.trap n) s = .next t ∧ t.team.phase = .ended ∧ t.team.dumping = ((partOf s s.grid.part).dmpEn || s.team.dumping) ∧
      t.team.endRec = some ⟨s.grp.key.idx, 0x22, n.setWidth 64, s.grp.pc + 4, s.now⟩ ∧
      t.grp.epc = s.grp.pc + 4 ∧ t.grp.tcause = 0x22 ∧ t.grp.tval = n.setWidth 64 ∧ t.grp.unf = 0 ∧ t.grp.priv = s.grp.priv ∧
      t.grp.sregs = s.grp.sregs ∧ t.grp.vregs = s.grp.vregs ∧ t.mem = s.mem ∧ t.ops = s.ops ∧ (partOf t s.grid.part).dmpEn = false ∧
      ∀ g ∈ allGroups t, tkeyOf g.key = s.team.key → mayIssue t g = false

/-- R44, R117, R179, R204, R246, R248: EXIT stops the group's issue. GROUP_RETIRE then retires a group whose counters are 0 and whose batches have nothing pending: it
holds no register any more, its halts on others end, and where it is the last of its team to retire, and neither a tier move that the team asked for nor a ring write of its sends
is on its way, the team's page is DONE. An error that an engine deferred is taken at EXIT.
That a team completes behind its own tier moves and ring writes is read from the specification (log 42). -/
def Obligations.ExitAndRetire : Prop :=
  ∀ (s : State),
    (Ready .exit s → s.grp.eccPend = [] →
      exec .exit s = .next { s with grp := { s.grp with phase := .exiting, decoded := none, stallAt := s.cycles } }) ∧
    (Ready .exit s → HasHandler s.grp → ∀ e rest, s.grp.eccPend = e :: rest → ∃ t, exec .exit s = .next t ∧ t.grp.pc = s.grp.tvec ∧ t.grp.tcause = 0x70 ∧
      t.grp.tval = e.va ∧ t.grp.epc = s.grp.pc ∧ t.grp.eccPend = rest.map (EccDue.inHandler s.grp.pc) ∧ t.grp.sregs = s.grp.sregs) ∧
    (s.grp.phase = .exiting → s.grp.held = none → s.grp.heldTrap = none → s.grp.cntL = 0 → s.grp.cntS = 0 → s.grp.cntC = 0 → s.grp.cntT = 0 →
      s.grp.batchPend.all (fun p => p.2 = 0) = true → s.grp.eccPend = [] →
      s.team.key = tkeyOf s.grp.key → s.team.phase = .running → (∀ l ∈ s.team.latches, s.grp.key.idx ∉ l.members ∨ s.grp.key.idx ∈ l.arrived) →
      donateWaiters s s.grp.key = [] → s.grid.id = s.grp.key.launch → s.grid.id ≠ 0 →
      let e := Instr.groupRetire s.grp.key
      ((∃ g ∈ s.groups, tkeyOf g.key = tkeyOf s.grp.key ∧ g.phase ≠ .retired) →
        ∃ t, exec e s = .next t ∧ t.grp = { s.grp with phase := .retired, alloc := 0, wait := .none, haltedBy := s.grp.haltedBy.filter fun i => i ≠ s.grp.key.idx } ∧
          t.mem = s.mem ∧ t.team = s.team ∧ t.grid = s.grid ∧
          ∀ g ∈ t.groups, tkeyOf g.key = tkeyOf s.grp.key → s.grp.key.idx ∉ g.haltedBy) ∧
      ((∀ g ∈ s.groups, tkeyOf g.key = tkeyOf s.grp.key → g.phase = .retired) → tierBusy s s.team.key = true ∨ fabBusy s s.team.key = true →
        ∃ t, exec e s = .next t ∧ t.grp.phase = .retired ∧ t.grp.alloc = 0 ∧ t.mem = s.mem ∧ t.team = s.team ∧ t.grid.pages = s.grid.pages) ∧
      ((∀ g ∈ s.groups, tkeyOf g.key = tkeyOf s.grp.key → g.phase = .retired) → (∀ x ∈ s.tensors, ∀ m ∈ x.movers, tkeyOf m ≠ s.team.key) →
        fabBusy s s.team.key = false →
        ∃ t, exec e s = .next t ∧ t.grp.phase = .retired ∧ t.grp.alloc = 0 ∧ t.mem = s.mem ∧ t.team.phase = .gone ∧
          (t.grid.pages[s.team.key.team]?).map (fun p => p.st) = (s.grid.pages[s.team.key.team]?).map fun _ => PageSt.done))

/-- R121, R122, R297: HALTG marks its targets halted by the issuer, and HALTG.res clears that mark; CC is Z. The target is the group that the index names, or with 32 every
other resident group of the team. An index above 32, the group's own, or that of no resident group answers C and changes nothing; so does a HALTG of a group with a lower
index that holds the issuer halted or stands in a HALTG of it. A halted group does not issue. In a deterministic launch a group that has retired is seen so from the point of its
end on (log 12). -/
def Obligations.HaltResume : Prop :=
  ∀ (s : State) (a : BitVec 7), AtPoint s → s.team.key = tkeyOf s.grp.key → (∀ g ∈ s.groups, g.key ≠ s.grp.key) → (s.groups.map fun g => g.key).Nodup →
    let i := (getS s.grp a.toNat).toNat % 64
    let me := s.grp.key.idx
    let ok : CC := ⟨true, false, false, false⟩
    let no : CC := ⟨false, false, true, false⟩
    let target := fun g : Group => decide (tkeyOf g.key = tkeyOf s.grp.key) && !seenRetired s g && (i = 32 || g.key.idx = i)
    let named := i ≤ 32 ∧ i ≠ me ∧ (i = 32 ∨ ∃ g ∈ s.groups, target g = true)
    let back := ∃ g ∈ s.groups, target g = true ∧ g.key.idx < me ∧ (g.key.idx ∈ s.grp.haltedBy ∨ haltsBack s g.key = true)
    let halted := fun g : Group => if target g then { g with haltedBy := if g.haltedBy.contains me then g.haltedBy else g.haltedBy ++ [me] } else g
    let resumed := fun g : Group => if target g then { g with haltedBy := g.haltedBy.filter fun j => j ≠ me } else g
    (Ready (.haltg a) s → ¬ named ∨ back → CompletesIn (.haltg a) s s.progressed { s.grp with cc := no }) ∧
    (Ready (.haltg a) s → named → ¬ back → CompletesIn (.haltg a) s { s with groups := s.groups.map halted }.progressed { s.grp with cc := ok }) ∧
    (Ready (.haltgRes a) s → ¬ named → CompletesIn (.haltgRes a) s s.progressed { s.grp with cc := no }) ∧
    (Ready (.haltgRes a) s → named → CompletesIn (.haltgRes a) s { s with groups := s.groups.map resumed }.progressed { s.grp with cc := ok }) ∧
    (∀ u g, target g = true → mayIssue u (halted g) = false)

/-- R45, R108: DONATE. A partner that is the group itself, or none, or a count that ALLOC does not allow fails at once with C, and nothing changes. With
no DONATE of the partner yet the group waits, for a partner at EXIT that has not retired as well. The partner's matching DONATE moves the top k blocks of the donor to the top of the recipient.
Two that name each other with one direction, or with unequal counts, both fail; and a waiting one fails when its partner retires (R117). -/
def Obligations.Donate : Prop :=
  ∀ (s : State) (dir : BitVec 1) (p : BitVec 5) (k : BitVec 3), s.grid.det = false →
    let i := Instr.donate dir p k
    let give := dir = 0
    let no : CC := ⟨false, false, true, false⟩
    (Ready i s → s.groups = [] ∨ p.toNat = s.grp.key.idx ∨ (give ∧ s.grp.alloc ≤ k.toNat) ∨ (¬ give ∧ 8 < s.grp.alloc + k.toNat) →
      Completes i s { s.grp with cc := no }) ∧
    (∀ q : Group, s.groups = [q] → q.key = { s.grp.key with idx := p.toNat } → p.toNat ≠ s.grp.key.idx → q.phase = .running ∨ q.phase = .exiting →
      q.quad = s.grp.quad → q.laneInQuad = s.grp.laneInQuad → (give → k.toNat < s.grp.alloc) → (¬ give → s.grp.alloc + k.toNat ≤ 8) → q.wait = .none → Ready i s →
      exec i s = .next { s with grp := { s.grp with wait := .donate (decide give) p.toNat k.toNat } }) ∧
    (∀ q : Group, s.groups = [q] → q.key = { s.grp.key with idx := p.toNat } → p.toNat ≠ s.grp.key.idx → q.phase = .running → q.quad = s.grp.quad →
      q.laneInQuad = s.grp.laneInQuad → give → k.toNat < s.grp.alloc → q.wait = .donate false s.grp.key.idx k.toNat → s.grp.cntL = 0 →
      q.Quiet → s.team.key = tkeyOf s.grp.key → s.team.phase = .running → s.grid.id = s.grp.key.launch → s.grid.id ≠ 0 →
      mwf s.grp.vregs → (∀ n, q.alloc * 512 ≤ n → mget q.vregs n = 0) → Ready i s →
      ∃ t q', exec i s = .next t ∧ t.mem = s.mem ∧ t.groups = [q'] ∧
        t.grp.alloc = s.grp.alloc - k.toNat ∧ q'.alloc = q.alloc + k.toNat ∧ t.grp.pc = s.grp.pc + 4 ∧ q'.pc = q.pc + 4 ∧
        t.grp.cc = ⟨true, false, false, false⟩ ∧ q'.cc = ⟨true, false, false, false⟩ ∧ q'.wait = .none ∧
        ∀ r u, r < k.toNat * 16 → u < 32 →
          mget q'.vregs ((q.alloc * 16 + r) * 32 + u) = mget s.grp.vregs (((s.grp.alloc - k.toNat) * 16 + r) * 32 + u)) ∧
    (∀ (q : Group) (dir' : Bool) (n : Nat), s.groups = [q] → tkeyOf q.key = tkeyOf s.grp.key → q.key ≠ s.grp.key → q.phase = .running → q.Quiet →
      q.wait = .donate dir' s.grp.key.idx n → s.team.key = tkeyOf s.grp.key → s.team.phase = .running → s.grid.id = s.grp.key.launch → s.grid.id ≠ 0 →
      let failed := fun (g g' : Group) => g'.pc = g.pc + 4 ∧ g'.cc = no ∧ g'.wait = .none ∧ g'.alloc = g.alloc ∧ g'.vregs = g.vregs ∧ g'.winbase = g.winbase
      (q.key.idx = p.toNat → q.quad = s.grp.quad → q.laneInQuad = s.grp.laneInQuad → (give → k.toNat < s.grp.alloc) → (¬ give → s.grp.alloc + k.toNat ≤ 8) →
        dir' = decide give ∨ n ≠ k.toNat → Ready i s →
        ∃ t q', exec i s = .next t ∧ t.mem = s.mem ∧ t.ops = s.ops ∧ t.groups = [q'] ∧ failed s.grp t.grp ∧ failed q q') ∧
      (s.grp.phase = .exiting → s.grp.held = none → s.grp.heldTrap = none → s.grp.cntL = 0 → s.grp.cntS = 0 → s.grp.cntC = 0 → s.grp.cntT = 0 →
        s.grp.batchPend.all (fun p => p.2 = 0) = true → s.grp.eccPend = [] → (∀ l ∈ s.team.latches, s.grp.key.idx ∉ l.members ∨ s.grp.key.idx ∈ l.arrived) →
        ∃ t q', exec (.groupRetire s.grp.key) s = .next t ∧ t.mem = s.mem ∧ t.ops = s.ops ∧ t.groups = [q'] ∧ t.grp.phase = .retired ∧ failed q q'))

/-- R325-R328, R122: in a deterministic launch a synchronising operation whose point has not come waits with reason DET and changes nothing; so does a
communication operation whose value the group needs at once. SYNC_OP_EFFECT ends the wait at the point. An operation
that waits for its commit is performed at QUANTUM_END once its point in the order D has come.
That the stores of a quantum are performed one event at a time is the model's choice (log 29). -/
def Obligations.DeterministicWaits : Prop :=
  ∀ (s : State) (d a b c : BitVec 7) (n : BitVec 4) (d1 r1 : BitVec 1) (p5 : BitVec 5) (k3 : BitVec 3), s.grid.det = true →
    (syncPoint s = false → (ownOps s).all (fun o => !o.acq) = true → ∀ i ∈ [Instr.bar n c, .bara d n c, .barw n b, .waita a b, .wakea a, .haltg a, .haltgRes a, .donate d1 p5 k3, .pstatr d a,
        .bwait d a, .btry d a], Ready i s → Stalls i s s .det) ∧
    (commPoint s = false → ∀ i ∈ [Instr.qinit n b, .qpop d n, .qpopt d n, .qallow n b, .osend d a b, .usend d a b, .trroot d a r1, .trdesc d a,
        .trback a b, .trreuse d a, .trfree a r1, .trstat d a k3], Ready i s → Stalls i s s .det) ∧
    (s.grp.wait = .stall .det → s.grp.phase ≠ .absent → s.team.key = tkeyOf s.grp.key → s.team.phase = .running → syncPoint (checkout s.grp.key s) = true →
      exec (.syncOpEffect s.grp.key) s = .next { s with grp := { s.grp with wait := .none } }) ∧
    (∀ o len accs sc q, s.ops = [o] → o.owner = .group s.grp.key → o.quantum = some q → o.kind = .store len accs sc → quantReached s s.grp.key q = true →
      Issuer s → s.grp.wait = .none → len ≤ 8 → (∀ x ∈ accs, x.1.loc.space = .phys) →
      ∃ t, exec (.quantumEnd s.grid.id) s = .next t ∧ t.ops = [] ∧ t.grp = { s.grp with cntS := s.grp.cntS - 1 } ∧ t.grid = s.grid ∧
        ∀ k, mget t.mem k = storedByte s len accs k)

/-- R158-R164: a copy whose operands pass the checks at issue is handed to the engine with its operands, and its parameter block, as they are at issue; OCNT.C rises and the
group goes on. A CPY of length 0 makes no access and completes at issue. R157, R158: COPY_COMPLETION. `r` is the engine's work: the bytes it writes in order, and what
ended it. Each byte of memory holds the last byte written to it, and every other is as it was. A failure counts once in the copy status, up to 255, with its code and
address; OCNT.C falls. R158-R164: what the engine writes where every byte of the source and of the destination passes its checks: a plain copy the bytes of the source as
they were before any was written, in ascending order; CPYS row by row, CPYG element by element of its list, CPYM to each target that has a team, with code 5 for the lowest that has none; CPYD the
BF16 values of R86 and R88, or code 1 for a stream that R87 refuses; CPYC the stream that the two passes of R89 make, or code 2 where it is larger than the capacity. A parameter block outside its
limits ends the copy with code 4 and nothing written (R157).
That the engine works whole, and what it leaves where it stops, are the model's choices (log 8, 9), and so is the order of rows that go down (log 41). -/
def Obligations.Copies : Prop :=
  (∀ (s : State) (d a b : BitVec 7),
    s.grp.cntC ≠ 63 →
    let x := getS s.grp d.toNat
    let y := getS s.grp a.toNat
    let z := getS s.grp b.toNat
    let len := z.toNat % 2 ^ 32
    let dst := fun al sels => (operandFault s x al true sels).fine = true
    let src := fun al sels => (operandFault s y al false sels).fine = true
    let q := gather (fun s => threadAcc s (envOf s) .ls 8 true false) false 8 [(0, z), (0, z + 8)] s
    let block : BitVec 128 := BitVec.ofNat 64 (rdNat s ((fineAccs q.2).getD 1 ⟨0, 0, physLoc 0 0⟩).loc 8) ++ BitVec.ofNat 64 (rdNat s ((fineAccs q.2).getD 0 ⟨0, 0, physLoc 0 0⟩).loc 8)
    let readable := q.2.all Got.fine = true ∧ regionWaits s (anyDet q.2) = false ∧ nowBlocked s (.load 0 8 false (fineAccs q.2)) false = none
    let goes := fun i (u : State) j => Ready i s → IssuesOp i s u (.copy j) .copy false false false
    (dst 1 none → src 1 none → len = 0 → Ready (.cpy d a b) s → Completes (.cpy d a b) s s.grp) ∧
    (dst 1 none → src 1 none → len ≠ 0 → goes (.cpy d a b) s (.cpy x y len)) ∧
    (dst 1 (some fun n => n = 0) → src 1 none → readable → goes (.cpym d a b) q.1 (.cpym x y z block) ∧ SameButCaches s q.1) ∧
    (dst 2 (some fun n => n ≤ 0x18 || n = 0x20) → src 8 none → goes (.cpyd d a b) s (.cpyd x y (z.extractLsb' 0 32))) ∧
    (dst 8 none → src 1 (some fun n => n = 0 || n = 0x20) → readable →
      (let et := block.toNat / 2 ^ 48 % 4; et < 2 → y.toNat % (if et = 0 then 2 else 4) = 0) → goes (.cpyc d a b) q.1 (.cpyc x y z block)) ∧
    (dst 1 none → src 1 none → readable → goes (.cpyg d a b) q.1 (.cpyg x y z block) ∧ goes (.cpys d a b) q.1 (.cpys x y z block))) ∧
  (∀ (s : State) (o : Op) (j : CopyJob),
    readyOp s o.id = some o → o.kind = .copy j → awaitsRecord s o = false → o.owner = .group s.grp.key → s.grp.phase = .running →
    s.grp.wait = .none → s.team.key = tkeyOf s.grp.key → s.team.phase = .running →
    let r := copyRun (opEnv s o) o.failedAt j s
    (∀ p ∈ r.out, p.1.space = .phys) → r.s.mem = s.mem →
    let done := fun (t : State) (g : Group) => exec (.copyCompletion o.id) s = .next t ∧ t.grp = g ∧ t.ops = s.ops.filter (fun x => x.id ≠ o.id) ∧
      ∀ k, mget t.mem k = match r.out.reverse.find? fun p => p.1.off = k with
        | some p => p.2
        | none => mget s.mem k
    (r.stop = none → ∃ t, done t { s.grp with cntC := s.grp.cntC - 1 }) ∧
    (∀ code va, r.stop = some (.ended code va none none false) → code ≠ 0 → ∃ t, done t { s.grp with
      cntC := s.grp.cntC - 1
      copyCount := if s.grp.copyCount = 255 then 255 else s.grp.copyCount + 1
      copyCode := code
      copyWhere := va })) ∧
  (∀ (e : Env) (d a block : DWord) (n : Nat) (p : BitVec 128) (scale : Word) (s : State) (src dst : Nat → Loc) (src2 dst2 idx : Nat → Nat → Loc) (bs : List Byte),
    let run := fun j => copyRun e none j s
    let writes := fun j (out : List (Loc × Byte)) => (run j).stop = none ∧ (run j).out = out
    let ends := fun j (code : BitVec 8) (at_ : DWord) (out : List (Loc × Byte)) => (run j).stop = some (.ended code at_ none none false) ∧ (run j).out = out
    let num := fun lo len => (p.extractLsb' lo len).toNat
    let off := fun (base : DWord) i => base + BitVec.ofNat 64 i
    let reads := fun n => ∀ i, i < n → EngReads s e (off a i) (src i)
    let puts := fun n => ∀ i, i < n → EngWrites s e (off d i) (dst i)
    (reads n → puts n → writes (.cpy d a n) ((List.range n).map fun i => (dst i, rdByte s (src i)))) ∧
    (let n := num 0 32
     let rows := num 32 32
     let row := fun (base : DWord) lo j => base + BitVec.ofNat 64 j * (p.extractLsb' lo 32).signExtend 64
     let js := if p.getLsbD 127 then (List.range rows).reverse else List.range rows
     (1 ≤ n → n ≤ 2 ^ 24 → 1 ≤ rows →
       (∀ j i, j < rows → i < n → EngReads s e (off (row a 64 j) i) (src2 j i) ∧ EngWrites s e (off (row d 96 j) i) (dst2 j i)) →
       writes (.cpys d a block p) (js.flatMap fun j => (List.range n).map fun i => (dst2 j i, rdByte s (src2 j i)))) ∧
     (n = 0 ∨ 2 ^ 24 < n ∨ rows = 0 → ends (.cpys d a block p) 4 block [])) ∧
    (let n := num 0 32
     let size := 2 ^ num 32 2
     let list := BitVec.ofNat 64 (num 64 64)
     let elem := fun i => a + BitVec.ofNat 64 (ofBytes ((List.range 4).map fun k => rdByte s (idx i k)) * size)
     let fine := fun m => ∀ i k, i < m → (k < 4 → EngReads s e (off list (4 * i + k)) (idx i k)) ∧
       (k < size → EngReads s e (off (elem i) k) (src2 i k) ∧ EngWrites s e (off d (i * size + k)) (dst2 i k))
     let out := fun m => (List.range m).flatMap fun i => (List.range size).map fun k => (dst2 i k, rdByte s (src2 i k))
     (n ≠ 0 → num 34 30 = 0 → list.toNat % 4 = 0 →
       (fine n → (∀ i, i < n → (elem i).toNat % size = 0) → writes (.cpyg d a block p) (out n)) ∧
       (∀ m, m < n → fine m → (∀ i, i < m → (elem i).toNat % size = 0) → (∀ k, k < 4 → EngReads s e (off list (4 * m + k)) (idx m k)) → (elem m).toNat % size ≠ 0 →
         ends (.cpyg d a block p) 3 (elem m) (out m))) ∧
     (n = 0 ∨ num 34 30 ≠ 0 ∨ list.toNat % 4 ≠ 0 → ends (.cpyg d a block p) 4 block [])) ∧
    (let n := num 0 32
     let targets := (List.range 24).filter fun t => p.getLsbD (32 + t)
     let team := fun t => (neighbour s e.grid.id (e.team.spindle / 24 * 24 + t)).isSome
     let at_ := fun t => BitVec.ofNat 64 (0x01E0000000000000 + (t + 1) * 2 ^ 40 + d.toNat % 2 ^ 40)
     let out := (targets.filter team).flatMap fun t => (List.range n).map fun i => (dst2 t i, rdByte s (src i))
     (n ≠ 0 → targets ≠ [] → num 56 72 = 0 → reads n → (∀ t ∈ targets, team t = true → ∀ i, i < n → EngWrites s e (off (at_ t) i) (dst2 t i)) →
       match targets.find? fun t => !team t with
       | none => writes (.cpym d a block p) out
       | some t => ends (.cpym d a block p) 5 (at_ t) out) ∧
     (n = 0 ∨ targets = [] ∨ num 56 72 ≠ 0 → ends (.cpym d a block p) 4 block [])) ∧
    (let n := ofBytes (bs.take 4)
     let w := (bs.getD 4 0).toNat
     let blocks := ofBytes ((bs.drop 8).take 4)
     let pad := fun n => (n + 7) / 8 * 8
     let exps := 16 + pad ((n + 7) / 8)
     let mants := exps + pad blocks
     let bit := fun i => (bs.getD (16 + i / 8) 0).getLsbD (i % 8)
     let valid := n ≠ 0 ∧ 2 ≤ w ∧ w ≤ 8 ∧ bs.getD 5 0 = 0 ∧ (bs.getD 7 0).toNat < 8 ∧ ofBytes ((bs.drop 12).take 4) = 0 ∧ bit 0 = true ∧ (List.range n).countP bit = blocks
     let value : Nat → FVal := fun i =>
       let ex := (bs.getD (exps + (List.range (i + 1)).countP bit - 1) 0).toNat
       let m := (BitVec.ofNat w (ofBytes (bs.drop mants) / 2 ^ (i * w))).toInt
       if ex = 255 then .nan else if ex = 0 then .fin false 0 0 else .fin (decide (m < 0)) m.natAbs ((ex : Int) - 127 - ((w : Int) - 2))
     let word := fun i => toBits bf16 0 false (if scale = 0 then value i else (value i).mul (ofBits fp32 false scale.toNat))
     bs.length = mants + pad ((n * w + 7) / 8) → reads bs.length → (∀ i, i < bs.length → rdByte s (src i) = bs.getD i 0) →
       (valid → puts (2 * n) → writes (.cpyd d a scale) ((List.range (2 * n)).map fun i => (dst i, BitVec.ofNat 8 (word (i / 2) / 2 ^ (8 * (i % 2)))))) ∧
       (¬ valid → ends (.cpyd d a scale) 1 a [])) ∧
    (let n := num 0 32
     let w := num 32 8
     let thr := num 40 8
     let et := num 48 2
     let factor := num 64 32
     let eb := if et = 0 then 2 else 4
     let raw := fun i => ofBytes ((List.range eb).map fun k => rdByte s (src (i * eb + k))) * (if et = 0 then 2 ^ 16 else 1)
     let xs := (List.range n).map fun i => if factor = 0 then raw i else toBits fp32 0 false ((ofBits fp32 false (raw i)).mul (ofBits fp32 false factor))
     let first := r89Pass thr xs
     let exp := fun i => first.2.getD (((List.range (i + 1)).countP fun j => first.1.getD j false) - 1) 0
     let lim : Int := 2 ^ (w - 1) - 1
     let flag := fun (f : Nat → Bool) b => if (List.range n).any f then 2 ^ b else 0
     let word := fun i => xs.getD i 0
     let exps := 16 + (((n + 7) / 8 + 7) / 8 * 8)
     let mants := exps + (first.2.length + 7) / 8 * 8
     let size := mants + ((n * w + 7) / 8 + 7) / 8 * 8
     let bad := n = 0 ∨ w < 2 ∨ 8 < w ∨ 2 ≤ et ∨ num 50 14 ≠ 0
     (bad → ends (.cpyc d a block p) 4 block []) ∧
     (¬ bad → reads (n * eb) → num 96 32 < size → ends (.cpyc d a block p) 2 d []) ∧
     (¬ bad → reads (n * eb) → size ≤ num 96 32 → puts size → ∃ out : List Byte, out.length = size ∧
       writes (.cpyc d a block p) ((List.range size).map fun i => (dst i, out.getD i 0)) ∧
       ofBytes (out.take 16) = n + w * 2 ^ 32 + thr * 2 ^ 48 + flag (fun i => word i / 2 ^ 23 % 256 = 255 && word i % 2 ^ 23 != 0) 56 +
         flag (fun i => word i / 2 ^ 23 % 256 = 255 && word i % 2 ^ 23 = 0) 57 +
         flag (fun i => decide (lim < (r89Mantissa w (exp i) (lim + 1) (word i)).natAbs)) 58 + first.2.length * 2 ^ 64 ∧
       let bit := fun at_ i => (out.getD (at_ + i / 8) 0).getLsbD (i % 8)
       (∀ i, i < 8 * (exps - 16) → bit 16 i = first.1.getD i false) ∧
       (∀ j, j < mants - exps → out.getD (exps + j) 0 = BitVec.ofNat 8 (first.2.getD j 0)) ∧
       (∀ i t, i < n → t < w → bit mants (i * w + t) = (BitVec.ofInt w (r89Mantissa w (exp i) lim (word i))).getLsbD t) ∧
       (∀ i, n * w ≤ i → i < 8 * (size - mants) → bit mants i = false))))

/-- R167-R169: queues. A push needs an allowance and fewer than 63 entries, spends one allowance and appends its entry; a pop takes the oldest entry and
returns no allowance; QINIT discards the entries; QALLOW stops at 63. A push waits for the group's loads, stores and word atomics, QPUSHT for
its tile operations too, each with reason QUEUE. A push without an allowance, or with 63 entries before it, stalls with that reason too, in the line of those that push; in a deterministic
launch its attempt ends without effect (R328). Every other queue of the team, every register but a pop's destination and all of memory keep their values. -/
def Obligations.Queues : Prop :=
  ∀ (s : State) (n m : BitVec 4) (v b : BitVec 7), AtCommPoint s → s.team.queues.length = 16 →
    let q := queueOf s n.toNat
    let done := fun i (g : Group) (init : Bool) (allowance : Nat) (entries : List DWord) =>
      ∃ t, exec i s = .next t ∧ t.grp = g.goTo (s.grp.pc + 4) ∧ t.mem = s.mem ∧ t.groups = s.groups ∧ t.ops = s.ops ∧
        (queueOf t n.toNat).init = init ∧ (queueOf t n.toNat).allowance = allowance ∧ (queueOf t n.toNat).entries = entries ∧
        ∀ j, j ≠ n.toNat → (queueOf t j).init = (queueOf s j).init ∧ (queueOf t j).allowance = (queueOf s j).allowance ∧
          (queueOf t j).entries = (queueOf s j).entries
    let room := 1 ≤ q.allowance ∧ q.entries.length < 63 ∧ firstInLine s .queue (lineKeys s q.pushers) = true ∧ vecPending true true s = none ∧ NoComm [.store, .atomic] s
    (Ready (.qinit n b) s → done (.qinit n b) s.grp true b.toNat []) ∧
    (Ready (.qallow n b) s → done (.qallow n b) s.grp q.init (min 63 (q.allowance + b.toNat)) q.entries) ∧
    (Ready (.qpush n v) s → room → done (.qpush n v) s.grp q.init (q.allowance - 1) (q.entries ++ [getS s.grp v.toNat])) ∧
    (Ready (.qpusht n m) s → room → pathPending 2 s = none → done (.qpusht n m) s.grp q.init (q.allowance - 1) (q.entries ++ [m.setWidth 64])) ∧
    (vecPending true true s ≠ none → NoComm [.store, .atomic] s → (Ready (.qpush n v) s → Stalls (.qpush n v) s s .queue) ∧ (Ready (.qpusht n m) s → Stalls (.qpusht n m) s s .queue)) ∧
    (vecPending true true s = none → NoComm [.store, .atomic] s → pathPending 2 s ≠ none → Ready (.qpusht n m) s → Stalls (.qpusht n m) s s .queue) ∧
    (q.allowance = 0 ∨ 63 ≤ q.entries.length → vecPending true true s = none → NoComm [.store, .atomic] s → ∀ i, i = .qpush n v ∨ (i = .qpusht n m ∧ pathPending 2 s = none) → Ready i s →
      (s.grid.det = true → Reattempts i s) ∧
      (s.grid.det = false → ∃ t, exec i s = .next t ∧
        t.grp = { s.grp with wait := .stall .queue, decoded := some { readAtDecode s with reason := some .queue }, stallAt := s.cycles } ∧ s.grp.key.idx ∈ (queueOf t n.toNat).pushers ∧
        (queueOf t n.toNat).allowance = q.allowance ∧ (queueOf t n.toNat).entries = q.entries ∧ t.mem = s.mem ∧ t.ops = s.ops)) ∧
    (∀ x rest, q.entries = x :: rest → firstInLine s .queue (lineKeys s q.poppers) = true → ∀ i ∈ [Instr.qpop v n, .qpopt v n], Ready i s →
      done i (setS v.toNat x s.grp) q.init q.allowance rest) ∧
    (q.entries = [] → s.grid.det = false → ∀ i ∈ [Instr.qpop v n, .qpopt v n], Ready i s → ∃ t, exec i s = .next t ∧
      t.grp = { s.grp with wait := .stall .queue, decoded := some { readAtDecode s with reason := some .queue }, stallAt := s.cycles } ∧ (queueOf t n.toNat).entries = [] ∧
        t.mem = s.mem)

/-- R170-R172, R272: tensor requests. Each writes a status code to s[d] and sets Z for 0 and C for 4 and above.
A move into HBM that finds no room leaves what the hank learns on the way to the ranges (`noteRoom`, R257). A move without a copy to read from starts and fails (log 10). A move down of a RESIDENT tensor to a tier that holds its copy is DONE: of two rows of R272
that match, the model takes that of the held copy (log 41). -/
def Obligations.Tensors : Prop :=
  ∀ (s : State) (d a b : BitVec 7),
    let h := (getS s.grp a.toNat).extractLsb' 0 32
    let home := (getS s.grp b.toNat).toNat % 16
    let ends := fun i (t : State) (code : Nat) =>
      CompletesIn i s t { setS d.toNat (BitVec.ofNat 64 code) s.grp with cc := ⟨code = 0, false, decide (4 ≤ code), false⟩ }
    let put := fun t' => { s with tensors := updFirst (fun t => t.part = s.grid.part ∧ t.handle = h) (fun _ => t') s.tensors }
    let free := (ownOps s).all (fun o => !o.acq) = true
    (findTensor s s.grid.part h = none → (∀ i ∈ [Instr.tnpin d a, .tnunpin d a, .tnwait d a], Ready i s → ends i s 6) ∧
      (free → ∀ i ∈ [Instr.tnmov d a b, .tnevict d a], Ready i s → ends i s 6)) ∧
    (findTensor s s.grid.part h = none → Ready (.tnstat d a) s →
      Completes (.tnstat d a) s { setS d.toNat 6 s.grp with cc := ⟨false, false, true, false⟩ }) ∧
    (∀ t, findTensor s s.grid.part h = some t →
      (Ready (.tnpin d a) s → if t.pins = 65535 then ends (.tnpin d a) s 7 else ends (.tnpin d a) (put { t with pins := t.pins + 1 }) 0) ∧
      (Ready (.tnunpin d a) s → if t.pins = 0 then ends (.tnunpin d a) s 8
        else if t.pins = 1 ∧ t.st = .resident ∧ t.defer = true then ends (.tnunpin d a) (put { t with pins := 0, st := .evicting, defer := false }) 0
        else ends (.tnunpin d a) (put { t with pins := t.pins - 1 }) 0) ∧
      (Ready (.tnwait d a) s → t.st ≠ .moving → t.st ≠ .evicting → ends (.tnwait d a) s t.last) ∧
      (Ready (.tnwait d a) s → t.st = .moving ∨ t.st = .evicting → s.grp.phase ≠ .absent →
        exec (.tnwait d a) s = .next { put { t with watchers := joinLine s.grp.key t.watchers } with grp := { s.grp with
          wait := .stall .tensor, set := .suspended, decoded := some { readAtDecode s with reason := some .tensor }, stallAt := s.cycles } }) ∧
      (Ready (.tnstat d a) s → Completes (.tnstat d a) s { setS d.toNat
          (BitVec.ofNat 64 (t.pins * 2 ^ 32 + t.last * 2 ^ 24 + (match t.st with | .absent => 0 | .moving => 1 | .resident => 2 | .evicting => 3) * 2 ^ 16 +
            (if t.st = .moving then t.target else 15) * 2 ^ 12 + bitOf t.board * 2 ^ 11 + bitOf t.flash * 2 ^ 10 + bitOf t.hbm * 2 ^ 9 +
            bitOf t.defer * 2 ^ 8)) s.grp with cc := ⟨true, false, false, false⟩ }) ∧
      (t.waiters = [] → free →
        let done := fun i code t' => ends i (put { t' with waiters := [] }) code
        (Ready (.tnmov d a b) s → t.hasTier home = false → done (.tnmov d a b) 9 t) ∧
        (Ready (.tnmov d a b) s → t.hasTier home = true → t.st = .resident ∨ t.st = .absent → t.held home = true →
          done (.tnmov d a b) 0 { t with defer := false }) ∧
        (Ready (.tnmov d a b) s → t.hasTier home = true → t.st = .resident ∨ t.st = .absent → t.held home = false → home ≤ 7 → hbmRoom s t = false →
          ends (.tnmov d a b) { noteRoom t s with tensors := (put { t with waiters := [] }).tensors } 4) ∧
        (Ready (.tnmov d a b) s → t.hasTier home = true → t.st = .resident ∨ t.st = .absent → t.held home = false → 7 < home ∨ hbmRoom s t = true →
          ∃ u, exec (.tnmov d a b) s = .next u ∧ u.grp = { setS d.toNat 1 s.grp with cc := ⟨false, false, false, false⟩ }.goTo (s.grp.pc + 4) ∧
            findTensor u s.grid.part h = some { t with
              st := .moving, target := home, source := t.sourceFor home, records := [], broken := false, movers := [s.grp.key] }) ∧
        (Ready (.tnmov d a b) s → t.hasTier home = true → t.st = .moving → t.target = home → home = 8 ∨ home = 9 →
          done (.tnmov d a b) 2 { t with movers := joinLine s.grp.key t.movers }) ∧
        (Ready (.tnmov d a b) s → t.hasTier home = true → t.st = .evicting →
          Stalls (.tnmov d a b) s (put { t with waiters := [.group s.grp.key] }) .tensor) ∧
        (Ready (.tnevict d a) s → t.st = .resident → t.board = false → t.flash = false → done (.tnevict d a) 9 t) ∧
        (Ready (.tnevict d a) s → t.st = .resident → t.board = true ∨ t.flash = true → t.pins ≠ 0 → done (.tnevict d a) 3 { t with defer := true }) ∧
        (Ready (.tnevict d a) s → t.st = .resident → t.board = true ∨ t.flash = true → t.pins = 0 →
          done (.tnevict d a) 0 { t with st := .evicting, defer := false, movers := joinLine s.grp.key t.movers })))

/-- R206-R208: CXNEW and CXTNEW allocate the lowest FREE tag as a child of a live tag of the partition whose depth is below 4, where the quota has room.
CXTNEW answers V for a bad parent and C where there is no tag; CXNEW traps CTXBAD, and waits until it has a tag: it tests its parent once, before it waits, and in a
deterministic launch an attempt that finds no tag counts in CLK (log 12). -/
def Obligations.ContextAllocate : Prop :=
  ∀ (s : State) (d a : BitVec 7) (n : Nat),
    let p := (getS s.grp a.toNat).extractLsb' 0 16
    let ok := tagLive s s.grid.part p = true ∧ tagDepth s p ≠ 4
    let ends := fun i (v : DWord) c => Completes i s { setS d.toNat v s.grp with cc := c }
    (1 ≤ n → n < 65536 → (∀ m, 1 ≤ m → m < n → ∃ t ∈ s.tags, t.tag.toNat = m) → (∀ t ∈ s.tags, t.tag.toNat ≠ n) → ok → tagRoom s s.grid.part = true →
      let t := { s with
        tags := s.tags ++ [⟨BitVec.ofNat 16 n, s.grid.part, s.grid.asid, p, tagDepth s p + 1, 0, false⟩]
        ctxWaiters := s.ctxWaiters.filter fun k => k ≠ s.grp.key }
      let g := { setS d.toNat (BitVec.ofNat 64 n) s.grp with cc := ⟨true, false, false, false⟩ }
      (Ready (.cxnew d a) s → firstForTag s = true → CompletesIn (.cxnew d a) s t g) ∧ (Ready (.cxtnew d a) s → CompletesIn (.cxtnew d a) s t g)) ∧
    (1 ≤ n → n < 65536 → (∀ m, 1 ≤ m → m < n → ∃ t ∈ s.tags, t.tag.toNat = m) → (∀ t ∈ s.tags, t.tag.toNat ≠ n) → tagRoom s s.grid.part = true →
      s.grp.phase = .running → s.grp.Quiet → s.grp.wait = .cxnew → firstForTag s = true →
      CompletesIn (.cxnew d a) s { s with
          tags := s.tags ++ [⟨BitVec.ofNat 16 n, s.grid.part, s.grid.asid, p, tagDepth s p + 1, 0, false⟩]
          ctxWaiters := s.ctxWaiters.filter fun k => k ≠ s.grp.key }
        { setS d.toNat (BitVec.ofNat 64 n) s.grp with cc := ⟨true, false, false, false⟩, wait := .none }) ∧
    (ok → tagRoom s s.grid.part = false → (Ready (.cxtnew d a) s → ends (.cxtnew d a) 0 ⟨false, false, true, false⟩) ∧
      (Ready (.cxnew d a) s → exec (.cxnew d a) s = .next { s with
        ctxWaiters := if s.ctxWaiters.contains s.grp.key then s.ctxWaiters else s.ctxWaiters ++ [s.grp.key]
        grp := { s.grp with wait := .cxnew, stallAt := s.cycles, clk := if counts s then s.grp.clk + 1 else s.grp.clk } })) ∧
    (¬ ok → (Ready (.cxtnew d a) s → ends (.cxtnew d a) 0 ⟨false, false, false, true⟩) ∧
      (Ready (.cxnew d a) s → HasHandler s.grp →
        Traps (.cxnew d a) s 0x15 (p.setWidth 64 + if (findTag s p).map (·.depth) = some 4 then 0x10000 else 0) s.grp.pc s.grp.live true))

/-- R209, R210: CXRET retires a tag that nothing but the group itself holds, and that has no live child; it tests this and then waits until the group's counters are 0. Any
other has C, as has one that the wait has brought about (the model's choice, log 41). CTX becomes its parent, and its holders 0, where CTX named the tag. CXSET moves the group from its tag to another live one, and raises CTXBAD for any other. R211, R212: CXGET returns a tag's state word, 0 for a FREE tag and
for another partition's; Z for a LIVE tag, else C. Tag 0 is LIVE, without a parent; that its holders are the groups in it of the issuer's own partition is the model's choice (log 41). CXPAR returns the one to four ancestors of a live tag, nearest first. -/
def Obligations.ContextRetireSetQuery : Prop :=
  (∀ (s : State) (a : BitVec 7) (t : Tag),
    let n := (getS s.grp a.toNat).extractLsb' 0 16
    let z : CC := ⟨true, false, false, false⟩
    let quiet := s.grp.cntL = 0 ∧ s.grp.cntS = 0 ∧ s.grp.cntC = 0 ∧ s.grp.cntT = 0 ∧ CommAtMost 0 s
    let waits := s.grp.phase = .running ∧ s.grp.Quiet ∧ s.grp.wait = .cxret
    let bad := findTag s n = none ∨ (findTag s n = some t ∧ (t.part ≠ s.grid.part ∨ t.retiring = true ∨ (∃ c ∈ s.tags, c.parent = n ∧ c.retiring = false) ∨
        (if s.grp.ctx = n then 1 else 0) < t.holders))
    let hold := fun (by_ : Nat → Nat) (m : BitVec 16) (ts : List Tag) => ts.map fun x => if x.tag = m then { x with holders := by_ x.holders } else x
    let retire := fun (mine : Bool) (ts : List Tag) => ts.map fun x =>
      if x.tag = n then { x with retiring := true, holders := if mine then 0 else x.holders } else x
    let left := s.ctxWaiters.filter fun k => k ≠ s.grp.key
    (n ≠ 0 → findTag s n = some t → t.part = s.grid.part → t.retiring = false → (∀ c ∈ s.tags, c.parent = n → c.retiring = true) →
      (quiet → Ready (.cxret a) s ∨ waits → s.grp.ctx ≠ n → t.holders = 0 →
        CompletesIn (.cxret a) s { s with tags := retire false s.tags, ctxWaiters := left } { s.grp with wait := .none, cc := z }) ∧
      (quiet → Ready (.cxret a) s ∨ waits → s.grp.ctx = n → t.holders ≤ 1 →
        CompletesIn (.cxret a) s { s with tags := retire true (hold (· + 1) t.parent s.tags), ctxWaiters := left }
          { s.grp with wait := .none, ctx := t.parent, cc := z }) ∧
      (¬ quiet → Ready (.cxret a) s → s.grid.det = false → t.holders ≤ (if s.grp.ctx = n then 1 else 0) →
        exec (.cxret a) s = .next { s with ctxWaiters := left, grp := { s.grp with wait := .cxret, stallAt := s.cycles } })) ∧
    ((Ready (.cxret a) s ∧ (n = 0 ∨ bad)) ∨ (waits ∧ quiet ∧ bad) →
      CompletesIn (.cxret a) s { s with ctxWaiters := left } { s.grp with wait := .none, cc := ⟨false, false, true, false⟩ }) ∧
    (tagLive s s.grid.part n = true → Ready (.cxset a) s →
      CompletesIn (.cxset a) s { s with tags := hold (· + 1) n (hold (· - 1) s.grp.ctx s.tags) } { s.grp with ctx := n }) ∧
    (tagLive s s.grid.part n = false → Ready (.cxset a) s → HasHandler s.grp → Traps (.cxset a) s 0x15 (n.setWidth 64) s.grp.pc s.grp.live true)) ∧
  (∀ (s : State) (d a : BitVec 7) (t : Tag),
    let n := (getS s.grp a.toNat).extractLsb' 0 16
    let ends := fun i (v : DWord) ok => Completes i s { setS d.toNat v s.grp with cc := ⟨ok, false, !ok, false⟩ }
    (n ≠ 0 → findTag s n = some t → t.part = s.grid.part → Ready (.cxget d a) s → ends (.cxget d a)
      (BitVec.ofNat 64 (min t.holders 65535 * 2 ^ 48 + min (s.cells.filter fun c => c.tag = n && c.made).length (2 ^ 24 - 1) * 2 ^ 24 +
        (if t.retiring then 2 else 1) * 2 ^ 20 + t.depth * 2 ^ 16 + t.parent.toNat)) (!t.retiring)) ∧
    (n ≠ 0 → findTag s n = none ∨ (findTag s n = some t ∧ t.part ≠ s.grid.part) →
      (Ready (.cxget d a) s → ends (.cxget d a) 0 false) ∧ (Ready (.cxpar d a) s → ends (.cxpar d a) 0 false)) ∧
    (n = 0 → Ready (.cxget d a) s →
      let inside := (allGroups s).countP fun g => g.phase != .retired && g.ctx = 0 && partOfKey s g.key = s.grid.part
      ends (.cxget d a) (BitVec.ofNat 64 (min inside 65535 * 2 ^ 48 + 2 ^ 20)) true) ∧
    (n = 0 → findTag s 0 = none → Ready (.cxpar d a) s → ends (.cxpar d a) 0 true) ∧
    (n ≠ 0 → findTag s n = some t → t.retiring = true → Ready (.cxpar d a) s → ends (.cxpar d a) 0 false) ∧
    (n ≠ 0 → findTag s n = some t → t.part = s.grid.part → t.retiring = false → Ready (.cxpar d a) s →
      (findTag s t.parent = none → ends (.cxpar d a) (t.parent.setWidth 64) true) ∧
      (∀ u, findTag s t.parent = some u →
        (findTag s u.parent = none → ends (.cxpar d a) (BitVec.ofNat 64 (t.parent.toNat + 2 ^ 16 * u.parent.toNat)) true) ∧
        (∀ v, findTag s u.parent = some v →
          (findTag s v.parent = none →
            ends (.cxpar d a) (BitVec.ofNat 64 (t.parent.toNat + 2 ^ 16 * u.parent.toNat + 2 ^ 32 * v.parent.toNat)) true) ∧
          (∀ w, findTag s v.parent = some w → ends (.cxpar d a)
            (BitVec.ofNat 64 (t.parent.toNat + 2 ^ 16 * u.parent.toNat + 2 ^ 32 * v.parent.toNat + 2 ^ 48 * w.parent.toNat)) true)))))

/-- R199-R203: PSTATR, BTRY, BWAIT and PFREE. A target beyond the page count has V, or is BADTEAM; so is the group's own team for BWAIT and BTRY.
That BWAIT suspends its group while the page has no team is read from the specification (log 28), and so is which end of a team a group of a deterministic launch sees
(`pageAt`, log 12). -/
def Obligations.PageStatus : Prop :=
  ∀ (s : State) (d a : BitVec 7), AtPoint s → s.grp.set ≠ .suspended → (ownOps s).all (fun o => !o.acq) = true →
    let i := (getS s.grp a.toNat).toNat % 2 ^ 32
    let me := s.team.key.team
    let ends := fun x (v : DWord) c => CompletesIn x s s.progressed { setS d.toNat v s.grp with cc := c }
    let both : List Instr := [.bwait d a, .btry d a]
    (s.grid.pages[i]? = none → (Ready (.pstatr d a) s → ends (.pstatr d a) 0 ⟨false, false, false, true⟩) ∧
      ∀ x ∈ both, Ready x s → ends x 3 ⟨false, false, true, true⟩) ∧
    (i = me → ∀ x ∈ both, Ready x s → ends x 3 ⟨false, false, true, true⟩) ∧
    (∀ p, pageAt s i = some p →
      let phase := match p.st with | .waiting => 0 | .issued _ _ _ => 0 | .landed _ _ _ => 1 | .running => 1 | .done => 2 | .failed => 3
      (Ready (.pstatr d a) s → ends (.pstatr d a) (BitVec.ofNat 64 (p.pgidx.toNat * 2 ^ 32 + phase * 2 ^ 18 + if phase = 0 then 0 else p.pstat.toNat))
        ⟨phase = 2, phase = 0, phase = 3, false⟩) ∧
      (i ≠ me → p.st = .done → ∀ x ∈ both, Ready x s → ends x 0 ⟨true, false, false, false⟩) ∧
      (i ≠ me → p.st = .failed → ∀ x ∈ both, Ready x s → ends x 1 ⟨false, false, true, false⟩) ∧
      (i ≠ me → phase < 2 → (Ready (.btry d a) s → ends (.btry d a) 4 ⟨false, true, false, false⟩) ∧
        (Ready (.bwait d a) s → s.grid.det = false → s.grp.phase ≠ .absent → ∃ t, exec (.bwait d a) s = .next t ∧ t.mem = s.mem ∧
          t.grp = { s.grp with wait := .bwait i s.now false, set := if phase = 0 then .suspended else s.grp.set }))) ∧
    (s.grp.cntL = 0 ∧ s.grp.cntS = 0 ∧ s.grp.cntC = 0 ∧ s.grp.cntT = 0 → CommAtMost 0 s → Ready .pfree s →
      if s.team.slotFreed then Completes .pfree s { s.grp with cc := ⟨false, false, true, false⟩ }
      else ∃ t, exec .pfree s = .next t ∧ t.grp = { s.grp with cc := ⟨true, false, false, false⟩ }.goTo (s.grp.pc + 4) ∧ t.team = { s.team with slotFreed := true } ∧
        t.mem = s.mem ∧ t.groups = s.groups ∧ (s.team.slot ≤ 256 → findSlot t (clusterOf s.team.spindle) s.team.slot = none) ∧
        ∀ c n, n ≤ 256 → ¬ (c = clusterOf s.team.spindle ∧ n = s.team.slot) → findSlot t c n = findSlot s c n)

/-- R231, R232, R235, R342, R343: sends. A header with reserved bits or a bad length answers BADHDR, a device without a live route NOROUTE. A message that
is injected carries the payload as it is at issue; an ordered one takes the stamp F, after which F is one higher, and its port's next seq.
The seq of a send to the own device is the model's choice (log 14), and so is that a bad header is found first and a missing route last (log 41). -/
def Obligations.Sends : Prop :=
  ∀ (s : State) (d a b : BitVec 7), s.grid.det = false → vecPending true true s = none →
    let h := (getS s.grp b.toNat).toNat
    let n := h / 2 ^ 16 % 2 ^ 9
    let dst := h % 2 ^ 8
    let good := h / 2 ^ 25 = 0 ∧ 1 ≤ n ∧ n ≤ 256
    let ends := fun i (v : DWord) c => Completes i s { setS d.toNat v s.grp with cc := c }
    let both : List Instr := [.osend d a b, .usend d a b]
    let q := gather (rangeAcc true false 1) false 1 ((List.range n).map fun i => (0, getS s.grp a.toNat + BitVec.ofNat 64 (1 * i))) s
    let payload := (fineAccs q.2).map fun x => rdByte q.1 x.loc
    let f := max s.floor s.now
    let sent := fun (t : State) (stamp : DWord) =>
      t.grp = { setS d.toNat 0 s.grp with cc := ⟨true, false, false, false⟩, lastSend := stamp }.goTo (s.grp.pc + 4) ∧ t.mem = s.mem
    let message := fun cls stamp port seq => (⟨cls, dst, stamp, s.devId, port, seq, h / 2 ^ 8 % 2 ^ 8, payload⟩ : Msg)
    (¬ good → ∀ i ∈ both, Ready i s → ends i 1 ⟨false, false, false, true⟩) ∧
    (good → q.2.all Got.fine = true → dst ≠ s.devId → liveRoutes s dst = [] → ∀ i ∈ both, Ready i s →
      CompletesIn i s q.1 { setS d.toNat 2 s.grp with cc := ⟨false, false, true, false⟩ } ∧ SameButCaches s q.1) ∧
    (good → q.2.all Got.fine = true → dst = s.devId → s.holdBuf.length < 4096 → s.ports.length = 16 → Ready (.osend d a b) s →
      ∃ t, exec (.osend d a b) s = .next t ∧ sent t (BitVec.ofNat 64 f) ∧ t.floor = f + 1 ∧ (portOf t 0).seq = ((portOf s 0).seq + 1) % 2 ^ 32 ∧
        t.holdBuf = s.holdBuf ++ [⟨16, message .ordered f 0 (portOf s 0).seq, some s.grp.key⟩]) ∧
    (∀ p, good → q.2.all Got.fine = true → dst ≠ s.devId → p < 16 → s.ports.length = 16 → outPort s dst .ordered = some (some p) → Ready (.osend d a b) s →
      ∃ t, exec (.osend d a b) s = .next t ∧ sent t (BitVec.ofNat 64 f) ∧ t.floor = f + 1 ∧ (portOf t p).seq = ((portOf s p).seq + 1) % 2 ^ 32 ∧
        (⟨16, p, message .ordered f p (portOf s p).seq, some s.grp.key⟩ ∈ t.outBuf ∨ .message p (message .ordered f p (portOf s p).seq) ∈ t.egress)) ∧
    (∀ p, good → q.2.all Got.fine = true → dst ≠ s.devId → outPort s dst .unordered = some (some p) → Ready (.usend d a b) s →
      ∃ t, exec (.usend d a b) s = .next t ∧ sent t s.grp.lastSend ∧ t.floor = s.floor ∧
        (⟨16, p, message .unordered 0 p (portOf s p).seq, some s.grp.key⟩ ∈ t.outBuf ∨ .message p (message .unordered 0 p (portOf s p).seq) ∈ t.egress) ∧
        (s.outBuf = [] → t.outBuf = [] ∧ t.egress = s.egress ++ [.message p (message .unordered 0 p (portOf s p).seq)]))

/-- R233, R234: receives and stamps. ORECV takes the oldest entry of a ring of the partition: its payload goes to memory, its header word to s[d]; OPEEK
leaves it. An s[b] whose 256 bytes break the homes or windows of a receive traps at issue, whatever the ring holds (R197). A ring that is not the partition's answers C and V; an empty one makes ORECV wait and answers OPEEK with C. That OWM's watermark of selector 16 is
the least of F and of the LIVE and the STALLED ports is read from R234 and R346 (log 15), and that a ring which is not the partition's comes before a bad s[b] is the model's
choice (log 41). -/
def Obligations.Receives : Prop :=
  ∀ (s : State) (d a b : BitVec 7) (k : BitVec 2), s.grid.det = false →
    let n := (getS s.grp a.toNat).toNat % 2 ^ 8
    let sel := (getS s.grp a.toNat).toNat % 2 ^ 5
    let ends := fun i (v : DWord) c => Completes i s { setS d.toNat v s.grp with cc := c }
    let left := s.rings.map fun r => { r with waiters := r.waiters.filter fun k => k ≠ s.grp.key }
    let fits := receiveFault s (getS s.grp b.toNat) = none
    (findRing s n = none ∨ (∃ r, findRing s n = some r ∧ r.part ≠ s.grid.part) →
      (Ready (.orecv d a b) s → CompletesIn (.orecv d a b) s { s with rings := left } { setS d.toNat 0 s.grp with cc := ⟨false, false, true, true⟩ }) ∧
      (Ready (.opeek d a) s → ends (.opeek d a) 0 ⟨false, false, true, true⟩)) ∧
    (∀ r, findRing s n = some r → r.part = s.grid.part →
      (∀ e rest, r.entries = e :: rest →
        (Ready (.opeek d a) s → ends (.opeek d a) (e.header.extractLsb' 0 64) ⟨true, false, false, false⟩) ∧
        (let q := gather (rangeAcc false true 1) true 1 ((List.range 256).map fun i => (0, getS s.grp b.toNat + BitVec.ofNat 64 (1 * i))) s
         let ls := (fineAccs q.2).map fun x => x.loc
         Ready (.orecv d a b) s → fits → firstReceiver s r = true → q.2.all Got.fine = true → e.payload.length ≤ 256 → (∀ l ∈ ls, l.space = .phys) →
          nowBlocked q.1 (.store 1 (ls.map fun l => (⟨0, 0, l⟩, 0)) 0) false = none →
          ∃ t, exec (.orecv d a b) s = .next t ∧
            t.grp = { setS d.toNat (e.header.extractLsb' 0 64) s.grp with
              cc := ⟨true, false, false, false⟩, lastRecv := e.header.extractLsb' 64 64 }.goTo (s.grp.pc + 4) ∧
            (∃ r', findRing t n = some r' ∧ r'.entries = rest) ∧
            ∀ j, mget t.mem j = match (ls.zip e.payload).reverse.find? fun p => p.1.off = j with
              | some p => p.2
              | none => mget s.mem j)) ∧
      (r.entries = [] → ordStalled s = false →
        (Ready (.opeek d a) s → ends (.opeek d a) 0 ⟨false, false, true, false⟩) ∧
        (Ready (.orecv d a b) s → fits → ∃ t, exec (.orecv d a b) s = .next t ∧ t.grp = { s.grp with wait := .orecv s.now } ∧ t.mem = s.mem)) ∧
      (r.entries = [] → ordStalled s = true →
        (Ready (.opeek d a) s → ends (.opeek d a) 0x60 ⟨false, false, false, true⟩) ∧
        (Ready (.orecv d a b) s → fits →
          CompletesIn (.orecv d a b) s { s with rings := left } { setS d.toNat 0x60 s.grp with cc := ⟨false, false, false, true⟩ })) ∧
      (∀ f, receiveFault s (getS s.grp b.toNat) = some f → HasHandler s.grp → Ready (.orecv d a b) s →
        Traps (.orecv d a b) s f.1 f.2 s.grp.pc s.grp.live true)) ∧
    (Ready (.ostamp d k) s → Completes (.ostamp d k) s
      (setS d.toNat (if k = 0 then s.grp.lastSend else if k = 1 then s.grp.lastRecv else BitVec.ofNat 64 (max s.floor s.now)) s.grp)) ∧
    (Ready (.owm d a) s →
      (sel < 16 → ends (.owm d a) (BitVec.ofNat 64 (portOf s sel).w) ⟨true, false, false, (portOf s sel).st = .stalled⟩) ∧
      (sel = 16 → ends (.owm d a) (BitVec.ofNat 64 (s.ports.foldl (fun m p => if p.st = .live ∨ p.st = .stalled then min m p.w else m) (max s.floor s.now)))
        ⟨true, false, false, s.ports.any fun p => p.st = .stalled⟩) ∧
      (16 < sel → ends (.owm d a) 0 ⟨false, false, true, false⟩))

/-- R197, R217-R228, R220: a reel instruction is handed to its reel with its operands as they are at issue, and its group waits for the reel's last
step with reason REEL; no register and no byte of memory changes. TRNEW's block, TREXP's record and TRLEAF's output range are checked first. That a TRLEAF of no
leaves makes no check of its address is the model's choice (log 41). -/
def Obligations.ReelIssue : Prop :=
  ∀ (s : State) (d a b : BitVec 7) (f : BitVec 1) (k : BitVec 3), s.grid.det = false →
    let x := getS s.grp a.toNat
    let y := getS s.grp b.toNat
    let z := getS s.grp d.toNat
    let dieOf := fun v : DWord => v.toNat / 2 ^ 8 % 2 ^ 3
    let goes := fun i (u : State) die dst j => exec i s = .next { u with
      ops := s.ops ++ [newOp s (.reel die dst j) false false none false]
      nextOp := s.nextOp + 1
      grp := { s.grp with wait := .reel s.nextOp } }
    let words := fun s va n => gather (fun s => threadAcc s (envOf s) .ls 8 true false) false 8 ((List.range n).map fun i => (0, va + BitVec.ofNat 64 (8 * i))) s
    let value := fun (q : State × List Got) s => (fineAccs q.2).foldr (fun c n => rdNat s c.loc 8 + 2 ^ 64 * n) 0
    let readable := fun (q : State × List Got) s => q.2.all Got.fine = true ∧ nowBlocked s (.load 0 8 false (fineAccs q.2)) false = none
    (∀ p ∈ [(Instr.trroot d a f, x, d.toNat, ReelJob.root x (f = 1)), (.trdesc d a, x, d.toNat, .desc x .start none),
        (.trback a b, x, 127, .back x (y.extractLsb' 0 32) (y.getLsbD 32) none none), (.trreuse d a, x, d.toNat, .reuse x), (.trfree a f, x, 127, .free x (f = 1)),
        (.trstat d a k, x, d.toNat, .stat x k.toNat)],
      Ready p.1 s → goes p.1 s (dieOf p.2.1) p.2.2.1 p.2.2.2) ∧
    (let q := words s x 4
     Ready (.trnew d a) s → x.toNat % 8 = 0 → readable q s →
      goes (.trnew d a) q.1 (value q s / 2 ^ 53 % 2 ^ 4) d.toNat (.new (BitVec.ofNat 256 (value q s))) ∧ SameButCaches s q.1) ∧
    (let q := words s z 1
     let n := value q s
     let r := words q.1 (z + 8) n
     let word := fun i => BitVec.ofNat 32 (value r q.1 / 2 ^ (32 * i))
     Ready (.trexp d a f) s → z.toNat % 8 = 0 → readable q s → n < 256 → readable r q.1 →
      goes (.trexp d a f) r.1 (dieOf x) d.toNat
        (.exp x n ((List.range n).map word) ((List.range n).map fun i => word (n + i)) (f = 1)) ∧ SameButCaches s r.1) ∧
    (let n := z.toNat % 2 ^ 8
     let q := gather (rangeAcc false true 8) true 8 ((List.range n).map fun i => (0, y + BitVec.ofNat 64 (8 * i))) s
     Ready (.trleaf d a b) s → q.2.all Got.fine = true →
      goes (.trleaf d a b) q.1 (dieOf x) d.toNat (.leaf x n ((fineAccs q.2).map fun c => c.loc)) ∧ SameButCaches s q.1)

/-- R217-R228, R335: the steps of the reels on a tree of the group's partition. `v` is where the bytes of the pool that a step reads lie, and `v'` where those it writes
lie. A step that ends its instruction gives the status's flags and s[d], and the group goes on; any other leaves the group waiting. A handle or a reference that names
no live tree or no index below cap raises TREE_BADNODE, and no room in an `.f` form TREE_NOSPACE. That a descent or a back-up whose tree has ended raises TREE_BADNODE
too is the model's choice (log 41). -/
def Obligations.ReelSteps : Prop :=
  ∀ (s u : State) (o : Op) (t : Tree) (v : PoolView) (die d n : Nat) (h : DWord) (j : ReelJob),
    findOp s o.id = some o → o.kind = .reel die d j → awaitsRecord s o = false → blockers s o = [] → o.owner = .group s.grp.key → Issuer s → s.grid.det = false →
    s.grp.Quiet → s.grp.wait = .reel o.id →
    let ends := fun (s' : State) (x : DWord) (c : CC) => ∃ w, exec (.reelStep o.id) s = .next w ∧ w.mem = s'.mem ∧ w.trees = s'.trees ∧
      w.ops = s.ops.filter (fun p => p.id ≠ o.id) ∧ w.grp = { setS d x s.grp with cc := c, wait := .none }.goTo (s.grp.pc + 4)
    let goes := fun (s' : State) (k : ReelJob) => ∃ w, exec (.reelStep o.id) s = .next w ∧ w.mem = s'.mem ∧ w.trees = s'.trees ∧ w.grp = s.grp ∧
      findOp w o.id = some { o with kind := .reel die d k, failed := none }
    let bad := fun cause => HasHandler s.grp → ∃ w, exec (.reelStep o.id) s = .next w ∧ w.grp.pc = s.grp.tvec ∧ w.grp.tcause = cause ∧ w.grp.tval = h ∧
      w.grp.replay = true ∧ w.grp.epc = s.grp.pc ∧ w.grp.sregs = s.grp.sregs ∧ w.mem = s.mem ∧ w.trees = s.trees
    let failed := o.failed.map fun c => (o.awaitVa, c)
    let reach := fun rd wr cs => poolView t.part t.asid t.die rd wr failed cs s = (u, v, none)
    let writing := fun is (p : State → PoolView → Prop) =>
      ∀ u' v', poolView t.part t.asid t.die false true failed (is.flatMap (nodeRun t)) u = (u', v', none) → p u' v'
    let x := rdNode u t v n
    let ok : CC := ⟨true, false, false, false⟩
    let busy : CC := ⟨false, true, false, true⟩
    let full : CC := ⟨false, true, true, false⟩
    let tree := fun (f : Tree → Tree) (s' : State) => { s' with trees := updFirst (fun y => y.die = t.die ∧ y.slot = t.slot) f s'.trees }
    let release := tree fun y => { y with reserved := y.reserved - 1 }
    let ref := fun i : Nat => BitVec.ofNat 64 (i * 2 ^ 16 + t.die * 2 ^ 8 + t.slot)
    let free := fun i => (rdNode u t v i).used = false
    let held := fun i => (rdNode u t v i).used = true ∧ ((rdNode u t v i).pend = true ∨ (rdNode u t v i).vl ≠ 0)
    let mine := fun k : Option Nat => k = none ∨ k = some t.id
    let downTo := fun c path => if t.novl then DescSt.at c (path ++ [c]) else .lose c (path ++ [c])
    ((∀ y ∈ s.trees, y.part = s.grid.part → y.die * 256 + y.slot ≠ h.toNat) →
      (∀ st k f m out, j ∈ [ReelJob.root h f, .desc h st k, .leaf h m out, .free h true] → bad 0x41)) ∧
    (refOf s s.grid.part h = none →
      (∀ c ps as f y neg at_ k w, w ≠ 4 → j ∈ [ReelJob.exp h c ps as f, .back h y neg at_ k, .reuse h, .free h false, .stat h w] → bad 0x41)) ∧
    (treeOf s s.grid.part h.toNat = some t →
      (∀ st k, k ≠ t.id → j = .desc h st (some k) → bad 0x41) ∧
      (∀ k, mine k → j = .desc h .start k →
        (t.root = none → ends s 0 ⟨false, false, true, true⟩) ∧
        (t.root = some n → t.bcap ≤ t.batch.length + t.reserved → ends s 0 ⟨false, false, false, true⟩) ∧
        (t.root = some n → t.batch.length + t.reserved < t.bcap →
          let begun := tree fun y => { y with reserved := y.reserved + 1 }
          (t.novl = true → goes (begun s) (.desc h (.at n [n]) (some t.id))) ∧
          (t.novl = false → reach true true (nodeRun t n) →
            goes (wrNode t v n { x with vl := min (x.vl + 1) 65535 } (begun u)) (.desc h (.at n [n]) (some t.id))))) ∧
      (∀ k path, mine k → j = .desc h (.lose n path) k → reach true true (nodeRun t n) →
        goes (wrNode t v n { x with vl := min (x.vl + 1) 65535 } u) (.desc h (.at n path) (some t.id))) ∧
      (∀ k path, mine k → j = .desc h (.at n path) k → reach true false (nodeRun t n) →
        (x.exp = true → x.nch = 0 → goes s (.desc h (downTo x.first path) (some t.id))) ∧
        (x.exp = true → x.nch ≠ 0 → goes s (.desc h (.pick x.first x.nch (parentTerm x) 0 none path) (some t.id))) ∧
        (x.exp = false → x.term = true → ends (release s) (ref n) ⟨false, true, false, false⟩) ∧
        (x.exp = false → x.term = false → x.pend = false → writing [n] fun u' v' =>
          ends (tree (fun y => { y with batch := y.batch ++ [n], reserved := y.reserved - 1 }) (wrNode t v' n { x with pend := true } u')) (ref n) ok) ∧
        (x.exp = false → x.term = false → x.pend = true → t.novl = true → ends (release s) (ref n) ⟨false, false, true, false⟩) ∧
        (x.exp = false → x.term = false → x.pend = true → t.novl = false → goes (release s) (.desc h (.undo path.reverse n) (some t.id)))) ∧
      (∀ k first nch sq i best path, mine k → j = .desc h (.pick first nch sq i best path) k → n = first + i → reach true false (nodeRun t n) →
        (i + 1 < nch → goes s (.desc h (.pick first nch sq (i + 1) (some (better best n (score t sq x))) path) (some t.id))) ∧
        (nch ≤ i + 1 → goes s (.desc h (downTo (better best n (score t sq x)).1 path) (some t.id)))) ∧
      (∀ k rest leaf, mine k → j = .desc h (.undo (n :: rest) leaf) k → reach true true (nodeRun t n) →
        let z := wrNode t v n { x with vl := x.vl - 1 } u
        if rest = [] then ends z (ref leaf) ⟨false, false, true, false⟩ else goes z (.desc h (.undo rest leaf) (some t.id))) ∧
      (∀ f, j = .root h f → reach true false (poolRuns t) →
        (t.root = some n → ends s (ref n) ok) ∧
        (t.root = none → n < t.cap → free n → (∀ i, i < n → ¬ free i) → writing [n] fun u' v' => ends (tree (fun y => { y with root := some n })
          (wrNode t v' n ⟨0, 0, 0x3F800000, 0, 0, false, false, false, true, 0, 0xFFFFFFFF, 0⟩ u')) (ref n) ok) ∧
        (t.root = none → (∀ i, i < t.cap → ¬ free i) → if f then bad 0x40 else ends s 0 full)) ∧
      (∀ most out, j = .leaf h most out → ends
        (tree (fun y => { y with batch := y.batch.drop most }) ((out.zip (t.batch.take most)).foldl (fun s p => wrBytes p.1 (toBytes (ref p.2).toNat 8) s) s))
        (BitVec.ofNat 64 (min most t.batch.length)) ⟨min most t.batch.length ≠ 0, false, min most t.batch.length = 0, false⟩) ∧
      (j = .free h true → reach true false (poolRuns t) →
        (t.reserved ≠ 0 ∨ (∃ i, i < t.cap ∧ held i) → ends s 0 busy) ∧
        (t.reserved = 0 → (∀ i, i < t.cap → ¬ held i) → ends { s with trees := s.trees.filter fun y => ¬ (y.die = t.die ∧ y.slot = t.slot) } 0 ok))) ∧
    (treeOf s s.grid.part (h.toNat % 2 ^ 16) = none → j = .stat h 4 → bad 0x41) ∧
    (treeOf s s.grid.part (h.toNat % 2 ^ 16) = some t → j = .stat h 4 → reach true false (poolRuns t) →
      ends s (BitVec.ofNat 64 (t.root.getD 0xFFFFFFFF + min ((List.range t.cap).filter fun i => !(rdNode u t v i).used).length (2 ^ 24 - 1) * 2 ^ 32 +
        t.batch.length * 2 ^ 56)) ok) ∧
    (∀ leaf, refOf s s.grid.part h = some (t, leaf) →
      (∀ y neg at_ k, k ≠ t.id → j = .back h y neg at_ (some k) → bad 0x41) ∧
      (∀ y neg at_ k, mine k → j = .back h y neg at_ k → at_.getD leaf = n → reach true false (nodeRun t n) →
        (at_ = none → x.used = false → bad 0x41) ∧
        (at_ ≠ none ∨ x.used = true → writing [n] fun u' v' =>
          let z := wrNode t v' n { x with pend := x.pend && at_.isSome, n := min (x.n + 1) (2 ^ 32 - 1), w := radd x.w y, vl := x.vl - 1 } u'
          if x.parent = 0xFFFFFFFF then ends z 0 ok
          else goes z (.back h (if neg then y ^^^ 0x80000000 else y) neg (some x.parent) (some t.id))))) ∧
    (refOf s s.grid.part h = some (t, n) →
      (∀ c ps as f, j ∈ [ReelJob.exp h c ps as f, .reuse h, .free h false] → reach true false (poolRuns t) → x.used = false → bad 0x41) ∧
      (∀ c ps as f, j = .exp h c ps as f → reach true false (poolRuns t) → x.used = true →
        let room := fun i => i + c ≤ t.cap ∧ ∀ k, k < c → free (i + k)
        (x.exp = true → ends s (ref x.first) ⟨false, true, false, false⟩) ∧
        (x.exp = false → x.term = true → ends s (ref n) ⟨false, true, false, false⟩) ∧
        (x.exp = false → x.term = false → c = 0 → writing [n] fun u' v' => ends (wrNode t v' n { x with term := true } u') (ref n) ok) ∧
        (∀ i, x.exp = false → x.term = false → c ≠ 0 → room i → (∀ k, k < i → ¬ room k) → writing (n :: (List.range c).map fun k => i + k) fun u' v' => ends
          (wrNode t v' n { x with first := i, nch := c, exp := true } ((List.range c).foldl (fun s k =>
            wrNode t v' (i + k) ⟨0, 0, ps.getD k 0, 0, 0, false, false, false, true, 0, n, (as.getD k 0).toNat⟩ s) u')) (ref i) ok) ∧
        (x.exp = false → x.term = false → c ≠ 0 → (∀ i, ¬ room i) → if f then bad 0x40 else ends s 0 full)) ∧
      (j = .reuse h → reach true false (poolRuns t) → x.used = true →
        let out := (List.range t.cap).filter fun i => !(subtree u t v t.cap n).contains i && (rdNode u t v i).used
        (t.root = some n → ends s (ref n) ok) ∧
        (t.root ≠ some n → t.reserved ≠ 0 ∨ (∃ i ∈ out, held i) → ends s 0 busy) ∧
        (t.root ≠ some n → t.reserved = 0 → (∀ i ∈ out, ¬ held i) → writing (out ++ [n]) fun u' v' => ends (tree (fun y => { y with root := some n })
          (wrNode t v' n { rdNode u' t v' n with parent := 0xFFFFFFFF } (freeNodes t v' out u'))) (ref n) ok)) ∧
      (j = .free h false → reach true false (poolRuns t) → x.used = true →
        let sub := subtree u t v t.cap n
        let all := (List.range t.cap).filter fun i => (rdNode u t v i).used
        (t.reserved ≠ 0 ∨ (∃ i ∈ sub, held i) → ends s 0 busy) ∧
        (t.reserved = 0 → (∀ i ∈ sub, ¬ held i) → t.root = some n → writing all fun u' v' =>
          ends (tree (fun y => { y with root := none }) (freeNodes t v' all u')) 0 ok) ∧
        (t.reserved = 0 → (∀ i ∈ sub, ¬ held i) → t.root ≠ some n → writing sub fun u' v' =>
          ends (wrNode t v' n { x with exp := false, term := false, nch := 0, first := 0 } (freeNodes t v' (sub.filter fun i => i ≠ n) u')) 0 ok)) ∧
      (∀ k, j = .stat h k → k < 4 → reach true false (nodeRun t n) →
        if x.used then ends s (BitVec.ofNat 64 (rdNat u ((nodeLoc t v n).add (8 * k)) 8)) ok else bad 0x41)) ∧
    (∀ p : BitVec 256, j = .new p →
      let field := fun lo len => p.toNat / 2 ^ lo % 2 ^ len
      let others := s.trees.filter fun y => y.die = t.die
      let quota := (partOf s t.part).treeQuota
      (2 ^ 201 ≤ p.toNat ∨ field 192 8 = 0 ∨ field 64 32 < 2 ∨ 2 ^ 24 < field 64 32 ∨ p.toNat % 32 ≠ 0 ∨ 2 ^ 56 ≤ field 0 64 →
        ends s 0 ⟨false, false, false, true⟩) ∧
      (p.toNat < 2 ^ 201 → 1 ≤ field 192 8 → 2 ≤ field 64 32 → field 64 32 ≤ 2 ^ 24 → p.toNat % 32 = 0 → field 0 64 < 2 ^ 56 →
        t = ⟨s.nextTree, field 53 4, t.slot, s.grid.part, s.grid.asid, s.grid.id, BitVec.ofNat 64 (field 0 64), field 64 32, BitVec.ofNat 32 (field 96 32),
          BitVec.ofNat 32 (field 128 32), BitVec.ofNat 32 (field 160 32), field 192 8, p.toNat.testBit 200, none, [], 0⟩ →
        let clash := s.trees.any fun y => decide (y.part = t.part ∧ y.asid = t.asid ∧ y.pool.toNat < t.pool.toNat + 32 * t.cap ∧
          t.pool.toNat < y.pool.toNat + 32 * y.cap)
        let wrong := poolCt s t = true ∨ ((poolPlaces t v).any fun c => inPool u c.1 c.2) = true
        (clash = true → ends s 0 ⟨false, false, false, true⟩) ∧
        (clash = false → t.slot ≤ 64 → (∀ y ∈ others, y.slot ≠ t.slot ∨ t.slot = 64) → (∀ k, k < t.slot → ∃ y ∈ others, y.slot = k) →
          reach false true (poolRuns t) →
          (wrong → ends s 0 ⟨false, false, false, true⟩) ∧
          (¬ wrong → t.slot = 64 ∨ (t.part ≠ 0 ∧ quota ≤ (others.filter fun y => y.part = t.part).length) → ends s 0 ⟨false, false, true, false⟩) ∧
          (¬ wrong → t.slot < 64 → t.part = 0 ∨ (others.filter fun y => y.part = t.part).length < quota → ends
            ((poolPlaces t v).foldl (fun s c => wrBytes c.1 (List.replicate c.2 0) s) { u with trees := u.trees ++ [t] })
            (BitVec.ofNat 64 (t.die * 2 ^ 8 + t.slot)) ok))))

/-- R174-R178, R180, R182-R187, R190-R194: the tile, matrix, accumulator and drain instructions at issue. Where every piece of the rows, or every element, passes its checks,
the operation is the youngest outstanding one, with its shape, the places and the values that the entry reads at issue, its counter has risen, and the group goes on. A
multiply of a group without a gang counts in its current batch or in T. A drain's bad descriptor raises ILL. R187: a multiply of a gang. The first member of a set waits
at the latch, which records its word and its GANG, and m0's shapes; the last one that arrives with the same, m0 or another, adds the operation once, accepted (R174), and it and the members that
wait go on at PC + 4. An arrival with another word raises GANGERR, and the latch is cleared. R28, R32, R184: shapes, tile queues and GANG are those of the decode, which a stall has kept. -/
def Obligations.MatrixIssue : Prop :=
  (∀ (s : State) (d a b : BitVec 7) (t t' : BitVec 4) (c : BitVec 3),
    let x := getS s.grp a.toNat
    let y := getS s.grp b.toNat
    let seen := s.grp.decoded.getD ⟨s.team.tshape, s.team.tqueue, s.grp.gang, none⟩
    let shape := fun n => seen.tshape.getD n 0
    let sh := shape t.toNat
    let checks := fun check wr (ps : List Piece) => checkPieces check wr ps s
    let fine := fun (r : State × List (Piece × AccRes)) => r.2.all (fun p => p.2.fine) = true
    let places := fun (r : State × List (Piece × AccRes)) => r.2.filterMap fun p => match p.2 with | .ok l _ _ => some l | _ => none
    let sendable := fun r => ∀ l ∈ places r, linkPaused s l = false
    (s.grp.cntT ≠ 63 →
      (Ready (.tld t a b) s → let r := checks (pieceAcc .tile true false) false (tilePieces sh x y).flatten
        fine r → sendable r → IssuesOp (.tld t a b) s r.1 (.tld t.toNat sh (regroup (tilePieces sh x y) (places r))) .tile false false false ∧ SameButCaches s r.1) ∧
      (Ready (.tst t a b) s → let r := checks (pieceAcc .tile false true) true (tilePieces sh x y).flatten
        fine r → sendable r → IssuesOp (.tst t a b) s r.1 (.tst t.toNat sh (regroup (tilePieces sh x y) (places r))) .tile false false false ∧ SameButCaches s r.1) ∧
      (Ready (.tzero t) s → IssuesOp (.tzero t) s s (.tzero t.toNat) .tile false false false) ∧
      (Ready (.accz c) s → IssuesOp (.accz c) s s (.accz c.toNat) .tile false false false) ∧
      (Ready (.accld d c b) s → IssuesOp (.accld d c b) s s (.accld c.toNat y.toNat (vreg s.grp d.toNat) s.grp.live) .tile false false false)) ∧
    (let q := fun n => (seen.tqueue.getD n 15).toNat % 2 ^ 4
     let m : MmaShape := ⟨(shape t.toNat).toNat % 2 ^ 6, (shape t'.toNat).toNat % 2 ^ 6, s.grp.fpctl, q t.toNat, q t'.toNat⟩
     let due := (if q t.toNat = 15 then [] else [(false, q t.toNat)]) ++ (if q t'.toNat = 15 ∨ t' = t then [] else [(true, q t'.toNat)])
     ∀ p ∈ [(Instr.mma c t t', false, []), (.mmaz c t t', true, []), (.mmar c t t', false, due)],
       Ready p.1 s → seen.gang.toNat % 2 ^ 3 = 0 →
       let op := newOp s (.mma c.toNat t.toNat t'.toNat p.2.1 m [(s.grp.key.idx, s.grp.curBatch)] p.2.2 false) false false none false
       let u := { s with ops := s.ops ++ [op], nextOp := s.nextOp + 1 }
       (∀ n, s.grp.curBatch = some n →
         CompletesIn p.1 s u { s.grp with batchPend := mset s.grp.batchPend n (mget s.grp.batchPend n + 1) }) ∧
       (s.grp.curBatch = none → s.grp.cntT ≠ 63 → CompletesIn p.1 s u { s.grp with cntT := s.grp.cntT + 1 })) ∧
    (∀ p ∈ [(Instr.draina c a b, true), (.drains c a b, false)], Ready p.1 s →
      (drainOk p.2 y = false → HasHandler s.grp → Traps p.1 s 0x01 (wordVal p.1) s.grp.pc s.grp.live false) ∧
      (drainOk p.2 y = true → s.grp.cntS ≠ 63 → CommAtMost 62 s →
        let es := drainElems y x
        let r := checks (drainAcc p.2) true (es.map fun e => e.2)
        let det := r.2.any fun e => match e.2 with | .ok _ dt _ => dt | _ => false
        fine r → sendable r → IssuesOp p.1 s r.1 (.drain c.toNat p.2 (y.toNat / 2 ^ 48 % 2 ^ 2 = 1) s.grp.fpctl
          ((es.zip (places r)).map fun e => ⟨e.1.1, e.1.2.va, e.2⟩) none) .store false false (p.2 || det) ∧ SameButCaches s r.1))) ∧
  (∀ (s : State) (c : BitVec 3) (t t' : BitVec 4), s.grid.det = false → s.grp.curBatch = none → s.grp.cntT ≠ 63 → Issuer s →
    let seen := s.grp.decoded.getD ⟨s.team.tshape, s.team.tqueue, s.grp.gang, none⟩
    seen.gang.toNat % 2 ^ 3 ≠ 0 →
    let me := s.grp.key.idx
    let ms := gangMembers seen.gang
    let q := fun n => (seen.tqueue.getD n 15).toNat % 2 ^ 4
    let rows := fun n => (seen.tshape.getD n 0).toNat % 2 ^ 6
    let mine : MmaShape := ⟨rows t.toNat, rows t'.toNat, s.grp.fpctl, q t.toNat, q t'.toNat⟩
    ∀ i ∈ [Instr.mma c t t', .mmaz c t t', .mmar c t t'], ∀ w, encode i = some w → Ready i s →
      (s.team.latches = [] → exec i s = .next { s with
        team := { s.team with latches := [⟨ms, w, seen.gang, [me], if ms.head? = some me then some mine else none, pointOf s.grp⟩] }
        grp := { s.grp with cntT := s.grp.cntT + 1, wait := .latch } }) ∧
      (∀ arrived brought sh first, s.team.latches = [⟨ms, w, seen.gang, arrived, brought, first⟩] → arrived.length + 1 = ms.length →
        (if ms.head? = some me then sh = mine else brought = some sh) → (∀ e ∈ s.ops, e.id ≠ s.nextOp) →
        (∀ g ∈ s.groups, tkeyOf g.key = tkeyOf s.grp.key → g.Quiet) →
        ∃ u o m, exec i s = .next u ∧ o ∈ u.ops ∧ o.id = s.nextOp ∧ o.accepted.isSome = true ∧ u.team.latches = [] ∧ u.mem = s.mem ∧
          u.ops.map (fun e => e.id) = s.ops.map (fun e => e.id) ++ [o.id] ∧
          ((∀ e ∈ s.ops, e.kind.engine = false ∨ e.accepted.isSome = true) → u.ops = s.ops ++ [o]) ∧
          u.grp = { s.grp with cntT := s.grp.cntT + 1, mtxAfter := m }.goTo (s.grp.pc + 4) ∧
          (∃ zero members due, o.kind = .mma c.toNat t.toNat t'.toNat zero sh members due false ∧ members.map (fun m => m.1) = ms) ∧
          ∀ g ∈ s.groups, tkeyOf g.key = tkeyOf s.grp.key → g.key.idx ∈ ms → g.phase = .running → g.wait = .latch →
            (s.groups.map fun x => x.key).Nodup → g.key ≠ s.grp.key → ∃ g' ∈ u.groups, g'.key = g.key ∧ g'.pc = g.pc + 4 ∧ g'.wait = .none) ∧
      (∀ l, s.team.latches = [l] → sameSet l.members ms = true → l.word ≠ w → HasHandler s.grp →
        (∀ g ∈ s.groups, tkeyOf g.key = tkeyOf s.grp.key → HasHandler g ∧ g.Quiet) →
        ∃ u, exec i s = .next u ∧ u.team.latches = [] ∧ u.ops = s.ops ∧ u.grp.pc = s.grp.tvec ∧ u.grp.tcause = 0x07 ∧ u.grp.tval = s.grp.gang ∧
          u.grp.replay = true ∧ u.grp.unf = s.grp.live ∧ u.grp.cntT = s.grp.cntT))

/-- R174-R176, R180, R184, R185, R190, R192: what the matrix engine does. It accepts an operation once the group's earlier ones are accepted. An accepted
operation whose turn has come takes effect: the rows of a tile, a tile or an accumulator cleared, the row of an accumulator in the live threads, the product
of R90, the allowances of MMAR, the elements of a drain. Its counter falls and it is gone. `loc` are the bytes of a row in order. No uncorrectable error lies in the team's tiles
and accumulators. That all rows of a tile, and all elements of a drain, take effect in one step is the model's choice (log 1). -/
def Obligations.MatrixEffects : Prop :=
  ∀ (s : State) (o : Op) (n r d : Nat) (sh : DWord) (rows : List (List Span)) (live : Word),
    let e := { s with ops := updFirst (fun x => x.id = o.id) (fun x => { x with accepted := some s.nextAccept }) s.ops, nextAccept := s.nextAccept + 1 }
    let left := s.ops.filter fun x => x.id ≠ o.id
    let byte := fun t b => mget s.team.tiles (t * 4096 + b)
    let loc := fun (ss : List Span) => ss.flatMap fun x => (List.range x.len).map fun k => x.loc.add k
    let plain := ∀ ss ∈ rows, ∀ x ∈ loc ss, x.space = .phys ∧ hasEcc s x 1 = false
    let ends := fun (i : Instr) (g : Group) (t : State) => exec i s = .next t ∧ t.ops = left ∧ t.grp = g
    let down := { s.grp with cntT := s.grp.cntT - 1 }
    let store := { s.grp with cntS := s.grp.cntS - 1 }
    let i := Instr.tileCompletion o.id
    (∀ x ∈ s.ecc, x.space ≠ .tile s.team.key ∧ x.space ≠ .acc s.team.key) →
    (findOp s o.id = some o → o.kind.engine = true → o.accepted = none →
      (∀ x ∈ s.ops.takeWhile (fun x => x.id != o.id), x.accepted.isSome = true ∨ x.kind.engine = false) → exec (.engineAccept o.id) s = .next e) ∧
    (readyEngine s o.id = some o → o.owner = .group s.grp.key → Issuer s → s.grp.wait = .none →
      (o.kind = .tzero n → ∃ t, ends i down t ∧ t.mem = s.mem ∧ t.team.accs = s.team.accs ∧
        ∀ b, mget t.team.tiles b = if n * 4096 ≤ b ∧ b < n * 4096 + 4096 then 0 else mget s.team.tiles b) ∧
      (o.kind = .accz n → ∃ t, ends i down t ∧ t.mem = s.mem ∧ t.team.tiles = s.team.tiles ∧
        ∀ b, mget t.team.accs b = if n * 1024 ≤ b ∧ b < n * 1024 + 1024 then 0 else mget s.team.accs b) ∧
      (o.kind = .accld n r d live → o.into = none → ∃ t m, ends i { down with vregs := m } t ∧ t.mem = s.mem ∧
        ∀ q u, u < 32 → mget m (q * 32 + u) =
          if q = d ∧ live.getLsbD u then (if r < 32 then mget s.team.accs (n * 1024 + r * 32 + u) else 0) else mget s.grp.vregs (q * 32 + u)) ∧
      (o.kind = .tld n sh rows → plain → rows.length ≤ 32 → (∀ ss ∈ rows, (loc ss).length ≤ 128) → ∃ t, ends i down t ∧ t.mem = s.mem ∧
        ∀ a b, b < 128 → mget t.team.tiles (a * 128 + b) =
          if n * 32 ≤ a ∧ a < n * 32 + rows.length then
            (match (loc (rows.getD (a - n * 32) []))[b]? with | some l => rdByte s l | none => byte 0 (a * 128 + b))
          else byte 0 (a * 128 + b)) ∧
      (o.kind = .tst n sh rows → plain → ∃ t, ends i down t ∧ t.team = s.team ∧
        let out := (List.range rows.length).flatMap fun a => (loc (rows.getD a [])).zip ((List.range (rowBytes sh)).map fun b => byte n (a * 128 + b))
        ∀ k, mget t.mem k = match out.reverse.find? fun p => p.1.off = k with
          | some p => p.2
          | none => mget s.mem k) ∧
      (∀ ta tb zero m members due, o.kind = .mma d ta tb zero m members due false →
        let ftz := m.fpctl.getLsbD 2
        let v := fun t a k => ofBits bf16 ftz ((byte t (a * 128 + 2 * k)).toNat + 256 * (byte t (a * 128 + 2 * k + 1)).toNat)
        let el := fun (accs : SMap 32) a b => mget accs (d * 1024 + a * 32 + b)
        let product := fun a b => BitVec.ofNat 32 (fsum fp32 (m.fpctl.extractLsb' 0 2) ftz
          ((if zero then .fin false 0 0 else ofBits fp32 ftz (el s.team.accs a b).toNat) :: (List.range 64).map fun k => (v ta a k).mul (v tb b k)))
        let result := fun (t : State) => t.mem = s.mem ∧ t.team.tiles = s.team.tiles ∧ ∀ a b, a < 32 → b < 32 →
          el t.team.accs a b = if a < m.m ∧ b < m.n then product a b else if zero then 0 else el s.team.accs a b
        (due = [] → members = [(s.grp.key.idx, none)] → ∃ t, ends (.mmaCompletion o.id) down t ∧ result t) ∧
        (due = [] → ∀ b, members = [(s.grp.key.idx, some b)] → ∃ t, ends (.mmaCompletion o.id) { s.grp with
          batchPend := mset s.grp.batchPend b (mget s.grp.batchPend b - 1) } t ∧ result t) ∧
        (∀ second q, (second, q) ∈ due → (due.map fun x => x.1).Nodup → s.team.queues.length = 16 → q < 15 →
          ∃ t, exec (.mmarAllowance o.id second) s = .next t ∧ t.grp = s.grp ∧ result t ∧
            findOp t o.id = some { o with kind := .mma d ta tb zero m members (due.filter fun x => x ≠ (second, q)) true } ∧
            (queueOf t q).allowance = (if (queueOf s q).init then min 63 ((queueOf s q).allowance + 1) else (queueOf s q).allowance))) ∧
      (∀ bf f elems, o.kind = .drain n false bf f elems none → o.quantum = none → (∀ x ∈ elems, x.loc.space = .phys) →
        let v := fun x : Access => mget s.team.accs (n * 1024 + x.thread)
        let bytes := fun x : Access => if bf then toBytes (toBits bf16 (f.extractLsb' 0 2) (f.getLsbD 2) (ofBits fp32 (f.getLsbD 2) (v x).toNat)) 2
          else toBytes (v x).toNat 4
        ∃ t, ends (.drainCompletion o.id) store t ∧ t.team = s.team ∧
          let out := elems.flatMap fun x => ((List.range 4).map fun k => x.loc.add k).zip (bytes x)
          ∀ k, mget t.mem k = match out.reverse.find? fun p => p.1.off = k with
            | some p => p.2
            | none => mget s.mem k) ∧
      (∀ f elems key, o.kind = .drain n true false f elems none → o.quantum = none → (∀ x ∈ elems, x.loc.space = .phys ∧ hasEcc s x.loc 4 = false) →
        (∀ x ∈ elems, x.loc.gen = key ∧ ∀ k, x.loc.covers 4 k = true → (mget s.byteGen k).toNat = key) →
        elems.Pairwise (fun x y => x.loc.off + 4 ≤ y.loc.off ∨ y.loc.off + 4 ≤ x.loc.off) →
        let fp := fun x : Nat => ofBits fp32 false x
        let v := fun x : Access => mget s.team.accs (n * 1024 + x.thread)
        ∃ t, ends (.drainCompletion o.id) store t ∧ t.team = s.team ∧ ∀ k, mget t.mem k = match elems.find? fun x => x.loc.covers 4 k with
          | some x => byteOf (BitVec.ofNat 64 (fsum fp32 0 false [fp (v x).toNat, fp (rdNat s x.loc 4)])) (k - x.loc.off)
          | none => mget s.mem k))

/-- R382, R347, R350, R206, R300: after reset memory reads 0, every port is FENCED with watermark 0 and no discarded message, the fabric registers and the
debug blocks have the values their maps give, PSTATE is 0, no context tag is live, there is no queue and no group.
That memory outside HBM and board memory reads 0, and the state of a link before it is trained, are the model's choices (log 4, 5). -/
def Obligations.ResetState : Prop :=
  let r := State.reset
  (∀ k, mget r.mem k = 0) ∧
  (∀ n, n < 16 → (portOf r n).st = .fenced ∧ (portOf r n).w = 0 ∧ (portOf r n).lw = 0 ∧ (portOf r n).late = 0 ∧ (portOf r n).link = false) ∧
  r.stallUs = 50 ∧ r.tmaster = false ∧ r.synced = false ∧ r.devId = 0 ∧ r.dropUnbound = 0 ∧ r.dropKind = 0 ∧ (∀ d, mget r.routes d = 0) ∧
  (∀ n, (dbgOf r n).ctl = 0 ∧ (dbgOf r n).trsize = 8 ∧ (dbgOf r n).freeze = false ∧ (dbgOf r n).lost = 0 ∧
    ∀ j, mget (dbgOf r n).wpcfg j = 0 ∧ mget (dbgOf r n).bpcfg j = 0 ∧ mget (dbgOf r n).counters j = 0) ∧
  r.pstate = 0 ∧ (∀ n, findTag r n = none) ∧ r.queues = [] ∧ r.ops = [] ∧ allGroups r = []

/-- The memory of the machine at reset has its canonical form: addresses rising, no listed byte that reads as an unlisted one does.
The form is the model's (log 4). -/
def Obligations.ResetMemory : Prop := State.reset.memWf

/-- Every step keeps the canonical form of memory: an instruction, an operation that completes, an event that a unit, the host or the fabric brings about,
whatever the state. Equal memories are therefore equal data in every run.
The form is the model's (log 4). -/
def Obligations.StepKeepsMemory : Prop := ∀ s t : State, s.memWf → step s = .next t → t.memWf

/-- R18, R26, R36, R102, R128-R141: an instruction of the majors that reach registers alone (SALU to SLI, B to VMOV), issued by a group that is inside no
other one, changes nothing but that group where no register that it names holds an uncorrectable error: it retires, stalls, or enters the group's handler. The group keeps every scalar register, element and mask that is no destination, its flags unless
it is a scalar compare, and its LIVE, window, allocation, gang, rounding, context tag, timer and handler address. -/
def Obligations.RegisterFrame : Prop :=
  ∀ (s : State) (i : Instr) (w : Word), i.isWord = true → encode i = some w →
    let major := w.toNat / 2 ^ 26
    (1 ≤ major ∧ major ≤ 8) ∨ (0x0C ≤ major ∧ major ≤ 0x20) → HasHandler s.grp → s.grp.hits = none → s.grp.stepping = false → s.grp.wait.begun = false →
    regErrs (checksOf i) s = [] → ∃ g, exec i s = .next { s with grp := g } ∧
      (∀ n, Opnd.sd n ∉ i.operands → getS g n = getS s.grp n) ∧
      (∀ n, Opnd.kd n ∉ i.operands → getK g n = getK s.grp n) ∧
      (∀ r t, t < 32 → (∀ n, Opnd.vd n ∈ i.operands → r ≠ vreg s.grp n) → (∀ n, Opnd.vd64 n ∈ i.operands → r ≠ vreg s.grp n ∧ r ≠ vreg s.grp n + 1) →
        mget g.vregs (r * 32 + t) = mget s.grp.vregs (r * 32 + t)) ∧
      ((∀ a b, i ≠ .scmp a b ∧ i ≠ .scmpu a b) → (∀ a k, i ≠ .scmpi a k ∧ i ≠ .scmpiu a k) → g.cc = s.grp.cc) ∧
      g.key = s.grp.key ∧ g.live = s.grp.live ∧ g.winbase = s.grp.winbase ∧ g.alloc = s.grp.alloc ∧ g.gang = s.grp.gang ∧ g.fpctl = s.grp.fpctl ∧
      g.ctx = s.grp.ctx ∧ g.bwto = s.grp.bwto ∧ g.tvec = s.grp.tvec ∧ g.batchOpen = s.grp.batchOpen ∧ (s.grp.held = none → g.cntL = s.grp.cntL)

/-- R264, R307-R310, R38, R363, R371, R372, R145: a page's read reserves a slot, and goes to the drive and the blocks that an NVMe entry names; the page lands with its PSTAT, the slot takes its bytes (none of an uncorrectable page) and
the page joins its cluster's arrivals; under SKIP an uncorrectable page fails and its slot is free. A memory page is copied by an agent.
That a flash page whose address is not a multiple of 16 KiB lands the 16 KiB from there on is the model's choice (log 41). -/
def Obligations.PageReads : Prop :=
  ∀ (s : State) (d : Grid) (p : Page) (i c n since : Nat), findGrid s d.id = some d → d.id ≠ 0 → d.pages[i]? = some p →
    let grid := fun (t : State) => findGrid t d.id
    let page := fun (t : State) (q : Page) => ((grid t).bind fun g => g.pages[i]?) = some q
    let lands := fun (e : Instr) (q : Page) pstat (data : Nat → Byte) => ∃ t m, exec e s = .next t ∧ t.mem = s.mem ∧
      findSlot t c n = some ⟨c, n, .landed d.id i, m⟩ ∧ (∀ b, b < 0x4000 → mget m b = data b) ∧
      page t { q with pstat, st := .landed c n d.arrivals } ∧ (grid t).map (fun g => g.arrivals) = some (d.arrivals + 1)
    let fails := fun (e : Instr) (q : Page) pstat => ∃ t, exec e s = .next t ∧ t.mem = s.mem ∧ findSlot t c n = none ∧ page t { q with pstat, st := .failed }
    let bad := fun e (pstat : BitVec 18) => if d.policy = .skip then fails e p pstat else lands e p pstat fun _ => 0
    (d.ended = false → d.source ≠ .memory → nextPage s d = some i → nextSlot s d = some (c, n) → ∃ t, exec (.pageReadIssue d.id) s = .next t ∧
      t.mem = s.mem ∧ findSlot t c n = some ⟨c, n, .assigned d.id i, []⟩ ∧ page t { p with st := .issued c n s.now } ∧
      (grid t).map (fun g => g.nextCluster) = some ((c + 1) % 24) ∧
      (d.source = .nvme → nvmeReadable s d p = false → t.nvmeReads = s.nvmeReads) ∧
      (d.source = .nvme → nvmeReadable s d p = true →
        t.nvmeReads = s.nvmeReads ++ [⟨d.id, i, p.src.toNat / 2 ^ 59 % 2 ^ 5, p.src.toNat / 2 ^ 48 % 2 ^ 11, p.src.toNat % 2 ^ 48, c, n⟩])) ∧
    (p.st = .issued c n since →
      (d.source = .flash → flashKnown s d.part p.src = true →
        (∀ corrected retries, s.now - since ≤ 2400000 → retries ≤ 7 →
          lands (.pageLanding d.id i ⟨corrected, retries, false⟩) p
            (BitVec.ofNat 18 ((if 1 ≤ retries then 2 else if 1 ≤ corrected then 1 else 0) + retries * 2 ^ 2 + min corrected 1023 * 2 ^ 5))
            fun b => mget s.mem (p.src.toNat + b)) ∧
        (∀ corrected, s.now - since ≤ 2400000 → bad (.pageLanding d.id i ⟨corrected, 7, true⟩) (BitVec.ofNat 18 (3 + 7 * 2 ^ 2))) ∧
        (∀ retries, 2400000 ≤ s.now - since → retries ≤ 7 → bad (.distaffBoundExpiry d.id i retries) (BitVec.ofNat 18 (3 + retries % 8 * 2 ^ 2)))) ∧
      (d.source = .nvme →
        (∀ data, s.now - since ≤ driveTimeout s (driveOf p) →
          (readOut s d.id i = true → (data.map fun x => x.1).Nodup → lands (.nvmeReadCompletion d.id i .success data) p 0x8000
            fun b => match data.find? fun x => x.1 = b with | some x => x.2 | none => 0) ∧
          (readOut s d.id i = false → bad (.nvmeReadCompletion d.id i .success data) 0x8003) ∧
          ∀ st ∈ [DriveStatus.unrecovered, .error], bad (.nvmeReadCompletion d.id i st data) 0x8003) ∧
        (∀ data st, driveTimeout s (driveOf p) < s.now - since → exec (.nvmeReadCompletion d.id i st data) s = .next s) ∧
        (driveTimeout s (driveOf p) ≤ s.now - since → bad (.nvmeTimeout d.id i) 0x8003)) ∧
      (∀ x, d.source = .memory → d.ended = false → x < 576 → agentCopy d x = some (i, c, n) → copyWaits s d i = false →
        let home := p.src.toNat / 2 ^ 53
        let agent : Env := ⟨⟨d.id, i, 0⟩, { Team.initial with key := ⟨d.id, i⟩, spindle := x }, d, d.ctx, []⟩
        (p.src.toNat % 0x4000 ≠ 0 ∨ (8 < home ∧ home ≠ 10) → fails (.memoryPageCopy d.id x) { p with record := none } 0x10003) ∧
        (∀ bs, p.src.toNat % 0x4000 = 0 → home ≤ 8 ∨ home = 10 → agentRead s agent (pieceRuns p.src 0x4000) = .ok bs →
          lands (.memoryPageCopy d.id x) { p with record := none } 0x10000 fun b => bs.getD b 0)))

/-- R311-R313, R264, R43: a team is placed over the page that the agent of a spindle takes: the slot is HELD, the page RUNNING, and the team and its groups hold what
R43 gives them, on the lanes of R312. -/
def Obligations.TeamPlacement : Prop :=
  ∀ (s : State) (d : Grid) (p : Page) (x i n base : Nat), findGrid s d.id = some d → d.id ≠ 0 → d.ended = false → x < 576 → serves s d x = true →
    nextArrival d x = some (i, n) → gridBase s d x = some base → d.pages[i]? = some p → findTeam s ⟨d.id, i⟩ = none →
    let gs := (List.range d.desc.groups).zip (roleGroups 0 d.desc.roles)
    let members := (gs.filter fun g => g.2.2.2.gang).map fun g => g.1
    d.desc.groups ≤ 32 → members.length ≤ 6 →
    ∃ t team, exec (.placement d.id x) s = .next t ∧ t.mem = s.mem ∧ findTeam t ⟨d.id, i⟩ = some team ∧
      (findSlot t (x / 24) n).map (fun y => y.st) = some (.held d.id i) ∧
      (((findGrid t d.id).bind fun g => g.pages[i]?).map fun q => q.st) = some .running ∧
      team.phase = .running ∧ team.spindle = x ∧ team.base = base ∧ team.slot = n ∧ team.pgidx = p.pgidx ∧ team.pstat = p.pstat ∧
      team.tileWin = d.desc.tiles ∧ team.accCount = d.desc.accs ∧ team.tshape = d.desc.shapes ∧ team.tqueue = d.desc.tqueues ∧
      team.tiles = [] ∧ team.accs = [] ∧ team.scratch = [] ∧ team.tags = [] ∧
      (∀ k v, d.desc.queues[k]? = some v → (team.queues.getD k .initial).init = decide (v ≠ 0) ∧ (team.queues.getD k .initial).allowance = v ∧
        (team.queues.getD k .initial).entries = []) ∧
      (∀ b ∈ team.barriers, b.phase = 0 ∧ b.arrivals = 0) ∧
      ∀ g ∈ gs, ∃ q ∈ t.groups, q.key = ⟨d.id, i, g.1⟩ ∧ q.phase = .running ∧
        q.laneInQuad * 4 + q.quad = (base + g.2.1) % 32 ∧ q.quad = (base + g.2.1) % 4 ∧
        q.pc = d.codeBase + BitVec.ofNat 64 g.2.2.2.entry ∧
        (∀ j, j < 127 → getS q j = [BitVec.ofNat 64 (0x01E0400000000000 + n * 0x4000), p.pgidx.setWidth 64, d.args, BitVec.ofNat 64 i, BitVec.ofNat 64 g.1,
          BitVec.ofNat 64 g.2.2.1].getD j 0) ∧
        (∀ j, mget q.vregs j = 0) ∧ q.live = 0xFFFFFFFF ∧ (∀ j, 1 ≤ j → getK q j = 0) ∧ q.cc = ⟨false, false, false, false⟩ ∧ q.winbase = 0 ∧
        q.cntL = 0 ∧ q.cntS = 0 ∧ q.cntC = 0 ∧ q.cntT = 0 ∧ q.clk = 0 ∧ q.fpctl = 0 ∧ q.alloc = g.2.2.2.alloc ∧ q.ctx = d.ctx ∧ q.bwto = 10000 ∧
        q.tvec = (match d.desc.tvec with | some o => d.codeBase + BitVec.ofNat 64 o | none => 0) ∧ q.priv = false ∧ q.intrap = false ∧
        (if g.2.2.2.gang then gangMembers q.gang = members else q.gang = 0)

/-- R315, R318, R319, R202, R321-R324: the first eligible pending group of a lane takes the place of an active group whose stall R318 names; a group whose count
reaches 4096 is promoted; a team whose groups all wait in BWAIT, or in a deterministic launch all with reason DET, may leave its spindle; pre-emption marks teams, stops their issue between barriers or, at the deferral
limit, by force, and saves them once nothing that they have issued is outstanding; a team that has left returns to its spindle where that has room. Memory is as it was.
That a save is one step is the model's choice (log 26), and the form of a time slice (log 39); and that a team of a deterministic launch leaves its spindle just where every one of its groups waits
with reason DET, where R325 speaks of a group and of room for the lowest team that is not placed (log 29). -/
def Obligations.Scheduling : Prop :=
  ∀ (s : State) (x l : Nat) (a b : Group) (t : Team), findTeam s t.key = some t → findGroup s b.key = some b →
    let activeIn := fun (u : State) => updGroup b.key (fun g => { g with set := .active }) u
    let backIn := fun (u : State) => updGroup a.key (fun g => { g with set := .pending, order := lastOrder u + 1 }) u
    let long := a.stallAt + 16 * 10 ≤ s.cycles
    (firstPending s x l = some b → (inLane s x l).find? (fun g => g.set = .active) = some a →
      (eligible s a = true → exec (.activeSwap x l) s = .next s) ∧
      (eligible s a = false → reasonOf s a = .lane → exec (.activeSwap x l) s = .next s) ∧
      (eligible s a = false → reasonOf s a ∈ [.load, .store, .tile, .trace] → (long → exec (.activeSwap x l) s = .next (activeIn (backIn s))) ∧
        (¬ long → exec (.activeSwap x l) s = .next s)) ∧
      (eligible s a = false → reasonOf s a ∉ [.lane, .load, .store, .tile, .trace] → exec (.activeSwap x l) s = .next (activeIn (backIn s)))) ∧
    (firstPending s x l = some b → (∀ g ∈ inLane s x l, g.set ≠ .active) → exec (.activeSwap x l) s = .next (activeIn s)) ∧
    (firstPending s x l = none → exec (.activeSwap x l) s = .next s) ∧
    (b.phase = .running → b.promoted.isSome = true ∨ 4096 * 10 ≤ b.eligCycles → teamRuns s b.key = true →
      let marked := if b.promoted.isSome then s else
        updGroup b.key (fun g => { g with promoted := some s.nextPromo }) { s with nextPromo := s.nextPromo + 1 }
      let holder := (allGroups marked).find? fun g => g.set = .active && g.key != b.key && sameLane marked b g
      (b.set = .active ∨ (b.set = .pending ∧ eligible s b = false) → exec (.promotion b.key) s = .next marked) ∧
      (b.set = .pending → eligible s b = true → holder = none → exec (.promotion b.key) s = .next (activeIn marked)) ∧
      (b.set = .pending → eligible s b = true → holder = some a → exec (.promotion b.key) s = .next
        (if a.promoted.isSome = true ∧ eligible marked a = true then marked else activeIn (backIn marked)))) ∧
    (b.promoted = none → b.eligCycles < 4096 * 10 → exec (.promotion b.key) s = .next s) ∧
    (let teamIs := fun (e : Instr) (t' : Team) => ∃ u, exec e s = .next u ∧ findTeam u t.key = some t' ∧ u.mem = s.mem ∧ u.ops = s.ops
     let grouped := fun (e : Instr) (t' : Team) => ∃ u, exec e s = .next u ∧ findTeam u t.key = some t' ∧ u.mem = s.mem ∧ u.ops = s.ops ∧ u.grp = s.grp ∧ u.groups = s.groups
     let live := (allGroups s).filter fun g => tkeyOf g.key = t.key && (g.phase = .running || g.phase = .exiting)
     let waits := fun g : Group => g.phase = .running ∧ if (findGrid s t.key.launch).map (fun d => d.det) = some true then reasonOf s g = .det
       else g.set = .suspended ∧ ∃ i since done, g.wait = .bwait i since done
     (t.phase = .running → live ≠ [] → (∀ g ∈ live, waits g) → grouped (.teamSwapOut t.key) { t with phase := .swapped }) ∧
     (t.phase = .running → live = [] ∨ (∃ g ∈ live, ¬ waits g) → exec (.teamSwapOut t.key) s = .next s) ∧
     (∀ d base, findGrid s t.key.launch = some d →
       baseFor s t.spindle t.tileWin t.accCount 0 ((seats s d t.key).map fun m => m.2) = some base →
       (t.phase = .swapped → teamIs (.teamSwapIn t.key) { t with phase := .running, base, preempt := none, saving := false, forced := false }) ∧
       (t.phase = .saved → teamIs (.teamRestore t.key) { t with phase := .running, base, preempt := none, saving := false, forced := false })) ∧
     (∀ since, t.phase = .running → t.preempt = some since →
       (t.saving = true ∨ ((∀ y ∈ t.barriers, y.arrivals = 0) ∧ ∀ y ∈ t.latches, y.arrived = []) →
         (teamBusy s t.key = false → tierBusy s t.key = false → grouped (.teamSave t.key) { t with phase := .saved, saving := true }) ∧
         (teamBusy s t.key = true ∨ tierBusy s t.key = true → exec (.teamSave t.key) s = .next s)) ∧
       (t.saving = false → (∃ y ∈ t.barriers, y.arrivals ≠ 0) ∨ (∃ y ∈ t.latches, y.arrived ≠ []) → exec (.teamSave t.key) s = .next s ∧
         (deferLimit s t.key ≤ s.now - since → grouped (.deferralLimitExpiry t.key) { t with saving := true, forced := true }) ∧
         (s.now - since < deferLimit s t.key → exec (.deferralLimitExpiry t.key) s = .next s))) ∧
     (∀ d q, allTeams s = [t] → t.phase = .running → t.preempt = none → findGrid s t.key.launch = some d → queueOfGrid s d = some q → q.preemptible = true →
       (partOf s d.part).slice ≠ 0 → workWaits s (fun p => p != d.part) = true →
       let due := (partOf s d.part).sliceFrom + (partOf s d.part).slice * 2000
       (s.now < due → exec (.timeSliceExpiry d.part) s = .next s) ∧
       (due ≤ s.now → teamIs (.timeSliceExpiry d.part) { t with preempt := some s.now, saving := t.saving || !partlyArrived t })))

/-- R289, R290, R288, R41, R201, R233, R108, R50, R398, R387, R156, R357: what ends a group's wait from outside it, or starts it: a parked instruction is replayed for its
mask, a held record is written to its queue, but in P4, where the hub is off (R379), the timers of BWAIT and ORECV, a match of DONATEs, the answers to a host atomic, or none for 50 ms where the host has set no other timeout (R354); a fetch outside the code section
raises ADDR, a breakpoint stops the group, an unused slot is charged.
The instant of a timer's end within what the specification allows is the model's choice (log 11), and that a peer's answer comes with the replay (log 34). -/
def Obligations.GroupEvents : Prop :=
  ∀ (s : State), Issuer s → s.grid.det = false →
    let g := s.grp
    let me := g.key
    let back := fun (e : Instr) (g' : Group) => ∃ t, exec e s = .next t ∧ t.mem = s.mem ∧ t.ops = s.ops ∧ t.grp = { g' with wait := .none, set := t.grp.set, order := t.grp.order }.goTo (g.pc + 4)
    (∀ p, g.park = some p → p.eligible = true → ∃ t, exec (.parkedReplay me) s = .next t ∧ t.mem = s.mem ∧ t.grp.replayMask = some p.mask ∧
      t.grp.wait = .none ∧ t.grp.pc = g.pc ∧ t.grp.sregs = g.sregs ∧ t.grp.set ≠ .suspended) ∧
    (∀ p, g.park = some p → p.eligible = false → awaitsPeer s (p.recs.map (·.2.1)) = false → exec (.parkedReplay me) s = .next s) ∧
    (∀ w i since x, g.Quiet → fetchWord s = some w → s.grp.wait = .bwait i since x → g.bwto.toNat * 2000 ≤ s.now - since → bwaitTest s i = none →
      back (.bwaitTimeout me) { setS (w.toNat / 2 ^ 14 % 2 ^ 7) 2 g with cc := ⟨false, false, false, true⟩ }) ∧
    (∀ w since r, g.Quiet → fetchWord s = some w → s.grp.wait = .orecv since → g.bwto.toNat * 2000 ≤ s.now - since → ringOf s me = some r → r.entries = [] →
      back (.orecvTimeout me) { setS (w.toNat / 2 ^ 14 % 2 ^ 7) 0 g with cc := ⟨false, false, true, false⟩ }) ∧
    (∀ q k, g.Quiet → s.groups = [q] → tkeyOf q.key = tkeyOf me → q.key ≠ me → q.phase = .running → q.Quiet → g.wait = .donate true q.key.idx k →
      q.wait = .donate false me.idx k → g.cntL = 0 →
      ∃ t q', exec (.donateTransfer me q.key) s = .next t ∧ t.mem = s.mem ∧ t.groups = [q'] ∧ t.grp.alloc = g.alloc - k ∧ q'.alloc = q.alloc + k ∧
        t.grp.pc = g.pc + 4 ∧ q'.pc = q.pc + 4 ∧ t.grp.cc = ⟨true, false, false, false⟩ ∧ q'.cc = ⟨true, false, false, false⟩ ∧
        t.grp.wait = .none ∧ q'.wait = .none) ∧
    (∀ o d x y, g.hits = none → g.stepping = false → g.held = none ∨ g.held = some .store → g.park = none → g.replayMask = none → g.pcNext = none → readyOp s o.id = some o → o.owner = .group me → o.host = some ⟨[], []⟩ → o.kind = .samo .add d x y 0 → x.loc.space = .phys →
      g.wait = .hostAtomic o.id → (List.range 8).any (fun n => watchHits s n true true x.va 8) = false →
      let old : DWord := BitVec.ofNat 64 (rdNat s x.loc 8)
      let left := s.ops.filter fun p => p.id ≠ o.id
      let faults := fun (e : Instr) (cause : BitVec 8) => HasHandler g → ∃ t, exec e s = .next t ∧ t.mem = s.mem ∧ t.ops = left ∧ t.grp.pc = g.tvec ∧
        t.grp.tcause = cause ∧ t.grp.tval = x.va ∧ t.grp.epc = g.pc ∧ t.grp.unf = g.live ∧ t.grp.sregs = g.sregs ∧ t.grp.cntS = g.cntS ∧ t.grp.heldTrap = g.held
      (∃ t, exec (.hostAtomicCompletion o.id .ok) s = .next t ∧ t.ops = left ∧
        t.grp = { setS d old g with wait := .none, held := none, cntS := if g.held = some CntClass.store then g.cntS - 1 else g.cntS }.goTo (g.pc + 4) ∧
        ∀ k, mget t.mem k = if x.loc.covers 8 k then byteOf (old + y) (k - x.loc.off) else mget s.mem k) ∧
      (s.cxl = [] → faults (.hostAtomicCompletion o.id .ur) 0x50) ∧ faults (.hostAtomicCompletion o.id .ca) 0x51 ∧
      faults (.hostAtomicCompletion o.id (.poison false)) 0x52 ∧
      (mget s.cto s.grid.hub = 0 → o.sent + 100000000 ≤ s.now → faults (.hostCompletionTimeout o.id) 0x51) ∧
      (mget s.cto s.grid.hub = 0 → s.now < o.sent + 100000000 → exec (.hostCompletionTimeout o.id) s = .next s)) ∧
    (g.wait = .none → g.Quiet → HasHandler g → fetchWord s = none → Traps (.outOfSectionFetch g.pc) s 0x11 g.pc g.pc 0 false) ∧
    (g.wait = .none → g.Quiet → g.decoded = none → g.bpSkip ≠ some g.pc → g.stopped = false → bpMatches s = true → (dbgOf s s.team.spindle).teamStop = false →
      ∃ t, exec (.breakpointStop me) s = .next t ∧ t.grp = { g with stopped := true } ∧ t.mem = s.mem ∧ t.groups = s.groups) ∧
    (s.pstate = 4 → ∀ part, exec (.faultQueueRoom part) s = .next s) ∧
    (∀ part k r, s.pstate ≠ 4 → s.records.find? (fun r => r.queuePart = part && !r.written) = some r → (∀ y ∈ s.records, y.id = r.id → y = r) → r.permv = false →
      (partOf s part).fqLog2 = some k → queueRoom s part = true →
      let p := partOf s part
      let bit := fun (b : Bool) n => bitOf b * 2 ^ n
      let bytes := toBytes (r.cause.toNat + r.level * 2 ^ 8 + bit r.engine 12 + bit r.atom 13 + bit r.write 14 + bit r.table 15 + min r.waiters 65535 * 2 ^ 32 +
        r.place.toNat * 2 ^ 48) 8 ++ toBytes (r.id % 2 ^ 32 + r.asid.toNat * 2 ^ 32 + r.part * 2 ^ 48) 8 ++ toBytes r.gpa.toNat 8 ++ toBytes r.va.toNat 8
      let base := 10 * 2 ^ 53 + p.fqAddr.toNat % 2 ^ 53 + p.fqWr % 2 ^ k * 32
      ∃ t, exec (.faultQueueRoom part) s = .next t ∧ (partOf t part).fqWr = p.fqWr + 1 ∧ { r with written := true, pos := p.fqWr } ∈ t.records ∧
        (fnOf t ⟨p.fqHub, part⟩).vectors = (fnOf s ⟨p.fqHub, part⟩).vectors ++ [1] ∧
        ∀ b, mget t.mem b = if base ≤ b ∧ b < base + 32 then bytes.getD (b - base) 0 else mget s.mem b) ∧
    (∀ x q, inQuad s x q = [] → (dbgOf s x).freeze = false → ∃ t, exec (.unusedSlot x q) s = .next t ∧ t.mem = s.mem ∧ t.grp = s.grp ∧
      ∀ n, mget (dbgOf t x).counters n = mget (dbgOf s x).counters n + if n = q * 32 ∨ n = q * 32 + 3 ∨ n = q * 32 + 12 then 1 else 0)

/-- R209, R213, R267, R269-R272: what ends at the tiers and in the cell store: a retired tag's cells are reclaimed and the tag is FREE, once nothing that was issued in it is
outstanding; a move ends with its copy held and status 0, or without it and status 5; an eviction ends with the tensor out of the HBM; the groups that TNWAIT has suspended on it
watch it no longer. In P4, where the hub is off, none of these happens (R379). That a reclaim waits for what was issued in the tag is inferred from R209 (log 43). A move copies its bytes in one step (log 10); what the tensor does not fill of its
last flash page is free (log 3). -/
def Obligations.TierEnds : Prop :=
  ∀ (s : State) (t : Tensor) (n : BitVec 16) (part : Nat) (h : Word), findTensor s part h = some t →
    let put := fun (e : Instr) (t' : Tensor) (mem : Nat → Byte) => ∃ u, exec e s = .next u ∧ findTensor u part h = some t' ∧ u.ops.map (fun o => o.id) = s.ops.map (fun o => o.id) ∧
      u.grp.sregs = s.grp.sregs ∧ ∀ k, mget u.mem k = mem k
    let same := mget s.mem
    let ended := fun (ok : Bool) => let hbm := if t.target ≤ 7 then ok else t.hbm
      { t with
        hbm
        board := if t.target = 8 then ok else t.board
        flash := if 8 < t.target then ok else t.flash
        st := if hbm then .resident else .absent
        last := if ok then 0 else 5
        target := 15
        movers := []
        watchers := []
        packets := []
        records := []
        broken := false }
    (s.pstate = 4 → ∀ e ∈ [Instr.reclaimComplete n, .moveCompletes part h, .moveFails part h, .evictionEnd part h], exec e s = .next s) ∧
    (∀ x, s.pstate ≠ 4 → findTag s n = some x → x.retiring = true →
      ((∀ o ∈ s.ops, o.ctx ≠ n ∧ ∀ p ∈ o.kind.spans, ∀ q, p.1.space ≠ .ctx q n) → ∃ u, exec (.reclaimComplete n) s = .next u ∧ u.mem = s.mem ∧ findTag u n = none ∧
        u.cells = s.cells.filter (fun c => c.tag ≠ n) ∧ ∀ m, m ≠ n → findTag u m = findTag s m) ∧
      ((∃ o ∈ s.ops, o.ctx = n) → exec (.reclaimComplete n) s = .next s)) ∧
    (s.pstate ≠ 4 → t.st = .moving → t.packets = [] → t.defer = false →
      put (.moveFails part h) (ended false) same ∧
      (∀ a b src dst, (∀ i ∈ t.records, ∀ r ∈ s.records, r.id ≠ i) → t.broken = false → t.rangeIn t.source = some a → t.rangeIn t.target = some b →
        tierRange s t a.1 a.2 true (t.lenIn t.source) = .ok src → tierRange s t b.1 b.2 false (t.lenIn t.target) = .ok dst →
        ∃ u, exec (.moveCompletes part h) s = .next u ∧ findTensor u part h = some (ended true) ∧ u.ops.map (fun o => o.id) = s.ops.map (fun o => o.id) ∧ u.grp.sregs = s.grp.sregs ∧
          ∀ k, (∀ l ∈ dst.drop t.size, l.off ≠ k) → mget u.mem k =
            match (((dst.take t.size).zip (src.take t.size)).reverse.find? fun p => p.1.off = k) with
            | some p => rdByte s p.2
            | none => same k)) ∧
    (s.pstate ≠ 4 → t.st = .evicting → put (.evictionEnd part h) { t with hbm := false, st := .absent, movers := [], watchers := [] } same)

/-- R301-R305, R361-R366: the packet at the head of a queue whose turn it is: its queue has a packet ready, a WAIT's once its token has reached the value it names, and on the
hub none of higher priority has, nor one of its own whose turn is earlier. `wb` is memory after the write-back of the moved read pointer. A LAUNCH makes a grid or, where the
front end's reads fault, ends; a MOVE and a COPY start or end at once; a SIGNAL adds 1 to its token once the packets before it are done; a WAIT passes; a BUNDLE starts its
members; a malformed packet halts its process; a finished packet gets its completion record.
The detail of a refused move and the order of a bundle's starts are the model's choices (log 17), and so is that a completion record's bytes whose addresses do not translate are left out while the
interrupt and the queue go on (`putVa`, log 15). -/
def Obligations.CommandPackets : Prop :=
  ∀ (s : State) (c : CmdQueue) (bs : List Byte), findQueue s c.part c.q = some c →
    let field := fun off n => ofBytes ((bs.drop off).take n)
    let wb := fun n => (busWrite c.part c.writeBack (toBytes (c.rd + BitVec.ofNat 32 n).toNat 8) s).mem
    let queue := fun (t : State) => findQueue t c.part c.q
    let packet := fun (t : State) id => t.packets.find? fun p => p.id = id
    let fresh := s.packets.all (fun p => p.id != s.nextPacket) = true
    let ready := fun e : CmdQueue => s.pstate ≤ 2 ∧ e.halted = false ∧ e.rd ≠ e.wr ∧ ∀ x p, verdict s e = .one x p → ofBytes (x.take 1) = 5 →
      ofBytes ((x.drop 16).take 8) ≤ (tokenVal s e.part e.asid (ofBytes ((x.drop 8).take 2))).toNat
    let turn := ready c ∧ ∀ e ∈ s.queues, e.hub = c.hub → c.prio < e.prio ∨ (e.prio = c.prio ∧ e.turn < c.turn) → ¬ ready e
    let is := fun n => turn ∧ slotData s c 0 = some bs ∧ field 0 1 = n
    let one := fun n p => is n ∧ verdict s c = .one bs p
    let started := fun (e : Instr) (finished : Bool) (detail : BitVec 16) (f : State → Prop) => ∃ t, exec e s = .next t ∧ t.mem = wb 1 ∧ t.grp.sregs = s.grp.sregs ∧
      queue t = some { c with rd := c.rd + 1, running := c.running ++ [s.nextPacket], turn := s.nextTurn } ∧ t.nextPacket = s.nextPacket + 1 ∧
      (∃ p, packet t s.nextPacket = some p ∧ p.part = c.part ∧ p.q = c.q ∧ p.tag = BitVec.ofNat 16 (field 2 2) ∧ p.recVa = BitVec.ofNat 64 (field 0x38 8) ∧
        p.finished = finished ∧ p.detail = detail ∧ p.bundle = none) ∧ f t
    (fresh → ∀ d, one 1 (some (.go d)) → started (.launch c.part c.q) false 0 fun t =>
      t.grids = s.grids ++ [{ d with id := s.nextLaunch, packet := s.nextPacket }] ∧ t.nextLaunch = s.nextLaunch + 1) ∧
    (fresh → ∀ cause va, one 1 (some (.fault cause va none none)) → started (.launch c.part c.q) true 0 fun t => t.grids = s.grids ∧
      (packet t s.nextPacket).map (fun p => p.errors) = some [⟨va, 0, 0, 0, 0, cause⟩]) ∧
    (fresh → ∀ cause va info ecc, one 1 (some (.fault cause va info ecc)) → ∃ t, exec (.launch c.part c.q) s = .next t ∧ t.grids = s.grids ∧
      (packet t s.nextPacket).map (fun p => (p.finished, p.errors)) = some (true, [⟨va, 0, 0, 0, 0, cause⟩])) ∧
    (fresh → one 2 none → findTensor s c.part (BitVec.ofNat 32 (field 8 4)) = none → started (.move c.part c.q) true 5 fun t => t.tensors = s.tensors) ∧
    (fresh → one 2 none → ∀ x, findTensor s c.part (BitVec.ofNat 32 (field 8 4)) = some x → Owner.packet s.nextPacket ∉ x.waiters →
      let home := field 12 1 % 16
      (tnmovRes s home x = .done 2 x → started (.move c.part c.q) false 0 fun t => findTensor t c.part x.handle = some { x with packets := x.packets ++ [s.nextPacket] }) ∧
      (x.hasTier home = true → x.st = .evicting → started (.move c.part c.q) false 0 fun t => (packet t s.nextPacket).map (fun p => p.move) = some (some (x.handle, home)) ∧
        findTensor t c.part x.handle = some { x with waiters := x.waiters ++ [.packet s.nextPacket] })) ∧
    (fresh → one 3 none → field 0x28 1 = 0 → field 0x18 4 = 0 → started (.copyPacket c.part c.q) true 0 fun t => t.ops = s.ops) ∧
    (fresh → one 3 none → field 0x28 1 = 0 → field 0x18 4 ≠ 0 → started (.copyPacket c.part c.q) false 0 fun t => t.ops = s.ops ++ [⟨s.nextOp, .packet s.nextPacket, 0,
      .copy (.cpy (BitVec.ofNat 64 (field 8 8)) (BitVec.ofNat 64 (field 16 8)) (field 0x18 4)), false, false, none, none, none, [], none, 0, [], [], none, s.now⟩]) ∧
    (one 4 none → c.signals = [] → ∃ t, exec (.signal c.part c.q) s = .next t ∧ t.mem = wb 1 ∧
      (c.running = [] → queue t = some { c with rd := c.rd + 1, turn := s.nextTurn } ∧ tokenVal t c.part c.asid (field 8 2) = tokenVal s c.part c.asid (field 8 2) + 1) ∧
      (c.running ≠ [] → queue t = some { c with rd := c.rd + 1, signals := [⟨c.running, field 8 2⟩], turn := s.nextTurn } ∧ t.tokens = s.tokens)) ∧
    (one 5 none → ∃ t, exec (.waitPacket c.part c.q) s = .next t ∧ t.mem = wb 1 ∧ queue t = some { c with rd := c.rd + 1, turn := s.nextTurn } ∧ t.packets = s.packets ∧ t.tokens = s.tokens) ∧
    (∀ d e x y, is 6 → (∀ p ∈ s.packets, p.id < s.nextPacket) → verdict s c = .bundle bs [(x, some (.go d)), (y, some (.go e))] → ∃ t, exec (.bundle c.part c.q) s = .next t ∧ t.mem = wb 3 ∧
      queue t = some { c with rd := c.rd + 3, running := c.running ++ [s.nextPacket], turn := s.nextTurn } ∧ t.nextPacket = s.nextPacket + 3 ∧
      (packet t s.nextPacket).map (fun p => p.open_) = some [s.nextPacket + 1, s.nextPacket + 2] ∧
      (packet t (s.nextPacket + 1)).map (fun p => p.bundle) = some (some (s.nextPacket, 0)) ∧
      (packet t (s.nextPacket + 2)).map (fun p => p.bundle) = some (some (s.nextPacket, 1)) ∧
      t.grids = s.grids ++ [{ d with id := s.nextLaunch, packet := s.nextPacket + 1 }, { e with id := s.nextLaunch + 1, packet := s.nextPacket + 2 }]) ∧
    (∀ n, verdict s c = .bad n → ∀ p ∈ [(Instr.launch c.part c.q, 1), (.move c.part c.q, 2), (.copyPacket c.part c.q, 3), (.signal c.part c.q, 4), (.waitPacket c.part c.q, 5),
        (.bundle c.part c.q, 6)], is p.2 → ∃ t, exec p.1 s = .next t ∧ (queue t).map (fun q => q.halted) = some true ∧
      (∀ q ∈ t.queues, q.part = c.part → q.asid = c.asid → q.halted = true) ∧ ∃ r ∈ t.hank, r.kind = 0x40 ∧ r.info0 = BitVec.ofNat 64 c.q ∧ r.info1 = BitVec.ofNat 64 n ∧
        ∃ h ∈ t.halts, h.part = c.part ∧ h.q = c.q ∧ h.check = n) ∧
    (∀ p, packet s p.id = some p → p.part = c.part → p.q = c.q → p.bundle = none → c.signals = [] →
      (p.finished = false → exec (.completionRecord p.id) s = .next s) ∧
      (p.finished = true → p.errors = [] → ∃ t, exec (.completionRecord p.id) s = .next t ∧ packet t p.id = none ∧
        queue t = some { c with running := c.running.filter fun i => i ≠ p.id } ∧
        (fnOf t ⟨c.hub, p.part⟩).vectors = (fnOf s ⟨c.hub, p.part⟩).vectors ++ (if p.irq then [0] else []) ∧
        let status := if p.discarded then 2 else if p.failed = 0 ∧ p.detail = 0 then 0 else 1
        t.mem = (putVa c p.recVa (toBytes (status + p.detail.toNat * 2 ^ 16 + p.tag.toNat * 2 ^ 32) 8 ++ toBytes 0 8 ++
          toBytes (p.done % 2 ^ 32 + p.failed % 2 ^ 32 * 2 ^ 32) 8 ++ toBytes s.now 8) s).mem))

/-- R360, R305, R280, R287-R289, R269, R274, R300, R308, R321, R340, R369, R372, R374-R380: the management commands. Each ends with its status word and vector 3, and MGRD one higher; a
command with another status than OK has changed nothing else, but for the hank's record of an error that it has met (R257). `ends i n u`: command `i` ends with status `n`, the rest of the device as in `u`.
The arguments, which the specification does not lay out, and the choices of log 17 are the model's; the result field is free (log 3). That an image is written in two steps, between which
FWLOAD has not ended, is the model's choice, and what SHA-512 and Ed25519 compute is taken from the standards of these names (log 36). -/
def Obligations.ManagementCommands : Prop :=
  ∀ (s : State) (fn : Fn) (a : DWord), nextCmd s fn = some a → s.firmware.recovery = none → s.pstate ≠ 4 →
    let given := fun (op : Nat) => busRead s fn.part a 1 = some [BitVec.ofNat 8 op]
    let ends := fun (i : Instr) (code : Nat) (u : State) => exec i s = .next (mgmtDone fn a code u)
    let part := fun (f : Partition → Partition) => updPart fn.part f s
    let pf := fn.part = 0
    (∀ (u : State) code, code < 256 → let t := mgmtDone fn a code u
      (fnOf t fn).mgRd = (fnOf u fn).mgRd + 1 ∧ (fnOf t fn).vectors = (fnOf u fn).vectors ++ [3] ∧ t.grp.sregs = u.grp.sregs ∧ t.ops = u.ops ∧
      (pf → a.toNat / 2 ^ 53 = 10 → a.toNat % 64 = 0 → mget t.mem (a.toNat + 56) = BitVec.ofNat 8 code ∧
        ∀ k, k < a.toNat + 56 ∨ a.toNat + 64 ≤ k → mget t.mem k = mget u.mem k)) ∧
    (∀ p h rh rp q r i v k st w ad ln cm d pc cc rn as va lg lo sd sp dn ms, ¬ pf → ∀ x ∈ [((0x05 : Nat), Instr.sets2 fn p h rh rp), (0x0A, .quota fn p r i v), (0x0B, .cellstore fn h q),
        (0x0F, .keyset fn k), (0x10, .keyclr fn k), (0x11, .power fn st w), (0x12, .fwload fn ad ln cm), (0x14, .nvmepass fn d pc cc), (0x15, .ringbind fn rn p as va lg lo),
        (0x16, .ringfree fn rn), (0x17, .importBind fn sd sp p as), (0x17, .importRemove fn sd sp), (0x18, .nvmeto fn dn ms)], given x.1 → ends x.2 2 s) ∧
    (∀ q, given 0x19 → ends (.resetq fn q) 1 s) ∧
    (∀ q : QueueArgs, given 0x01 → q.q < 64 → 4 ≤ q.log2 → q.log2 ≤ 16 → q.prio ≤ 3 → q.ranges.length ≤ 8 → q.deferUs ≤ 1000 → ringAddr q.ring 64 = true →
      (∀ k ∈ q.kinds, 1 ≤ k ∧ k ≤ 6) → hasAsid s fn.part q.asid = true → findQueue s fn.part q.q = none → pf → s.queues.length < 1024 →
      if busOk s fn.part q.writeBack 8 = false then ends (.createq fn q) 3 (noteWay fn.part q.writeBack 8 s) else ∃ u, ends (.createq fn q) 0 u ∧ u.queues = s.queues ++ [⟨fn.part, q.q, fn.hub, q.ring, q.log2, q.writeBack, q.asid, q.prio, q.kinds, q.ranges, q.preemptible,
        if q.deferUs = 0 then 100 else q.deferUs, 0, 0, false, [], [], s.nextTurn⟩] ∧ u.mem = s.mem) ∧
    (∀ q c, findQueue s fn.part q = some c →
      (given 0x02 → ends (.resetq fn q) 0 (updQ fn.part q (fun c => { c with rd := 0, wr := 0, halted := false }) s)) ∧
      (given 0x03 → c.running = [] → ends (.destroyq fn q) 0 { s with queues := s.queues.filter fun x => ¬ (x.part = fn.part ∧ x.q = q) }) ∧
      (given 0x03 → c.running ≠ [] → ends (.destroyq fn q) 4 s) ∧
      (given 0x0E → ends (.preempt fn q) 0 (requestPreempt (fun d => d.part = fn.part && d.queue = q) s))) ∧
    (∀ n h (g : DWord), given 0x04 → h ≤ 8 → g.toNat % 4096 = 0 → g.toNat < 2 ^ 52 →
      if pf ∧ homeSize h ≤ g.toNat then ends (.setasid fn n h g none) 3 s else ends (.setasid fn n h g none) 0 { s with aspaces := s.aspaces.filter (fun x => ¬ (x.part = fn.part ∧ x.asid = n)) ++ [⟨fn.part, n, h, g.toNat⟩] }) ∧
    (∀ p h rh (rp : DWord), given 0x05 → pf → 1 ≤ p → p ≤ 64 → h ≤ 8 → rh ≤ 8 → rp.toNat % 128 = 0 → rp.toNat < homeSize rh →
      ends (.sets2 fn p h rh rp) 0 { s with s2roots := s.s2roots.filter (fun r => ¬ (r.part = p ∧ r.home = h)) ++ [⟨p, h, rh, rp.toNat⟩] }) ∧
    (∀ n, given 0x06 → s.ops = [] → ¬ pf → hasAsid s fn.part n = false → ends (.tlbinv fn (.asid n)) 3 s) ∧
    (∀ n, given 0x06 → s.ops = [] → pf ∨ hasAsid s fn.part n = true → ∃ u tlb fresh, ends (.tlbinv fn (.asid n)) 0 u ∧ u = { s with tlb, fresh } ∧
      ∀ e ∈ tlb, e ∈ s.tlb ∧ ¬ (e.stage2 = false ∧ e.part = fn.part ∧ e.asid = n)) ∧
    (∀ (ad : DWord) lg, given 0x07 → 4 ≤ lg → lg ≤ 16 → ad.toNat / 2 ^ 53 = 10 → ad.toNat % 32 = 0 →
      ends (.faultq fn ad lg) 0 (part fun p => { p with fqAddr := ad, fqLog2 := some lg, fqWr := 0, fqHub := fn.hub })) ∧
    (∀ r, given 0x08 → answerable s fn r.id = some r → s.grids = [] → s.grid.pages = [] →
      (∃ u, ends (.faultrespReplay fn r.id) 0 u ∧ u.records = s.records.filter (fun x => x.id ≠ r.id) ∧ u.mem = s.mem ∧
        ∀ g ∈ s.groups, ∀ p, g.park = some p → waitsOn r.id g = true → { g with park := some { p with eligible := true } } ∈ u.groups) ∧
      (∃ u, ends (.faultrespFail fn r.id) 0 u ∧ u.records = s.records.filter (fun x => x.id ≠ r.id) ∧ u.mem = s.mem ∧
        ∀ g ∈ s.groups, ∀ p, g.park = some p → waitsOn r.id g = true → { g with park := some { p with
          eligible := true
          fails := p.fails ++ (p.recs.filter fun x => x.2.1 = r.id).map fun x => (x.1, if r.cause = 0x10 then 0x11 else r.cause, x.2.2) } } ∈ u.groups)) ∧
    (∀ id, given 0x08 → answerable s fn id = none → ends (.faultrespReplay fn id) 3 s ∧ ends (.faultrespFail fn id) 3 s) ∧
    (∀ ad lg, given 0x09 → 4 ≤ lg → lg ≤ 12 → ringAddr ad 32 = true →
      ends (.eventq fn ad lg) 0 (updFn fn (fun r => { r with evAddr := ad, evLog2 := some lg, evWr := 0, evLost := false }) s)) ∧
    (∀ p i v, given 0x0A → pf → 1 ≤ p → p ≤ 64 → v < 2 ^ 64 →
      let sets := fun r f => ends (.quota fn p r i v) 0 (updPart p f s)
      (v < 2 ^ 24 → sets 0 fun x => { x with clusters := BitVec.ofNat 24 v }) ∧ (i ≤ 7 → sets 1 fun x => { x with hbmQuota := mset x.hbmQuota i (BitVec.ofNat 64 v) }) ∧
      (i ≤ 8 → ∃ u, ends (.quota fn p 2 i v) 0 u ∧ (partOf u p).cellQuota = mset (partOf s p).cellQuota i (BitVec.ofNat 64 v) ∧ u.mem = s.mem) ∧
      (sets 3 fun x => { x with tagQuota := v }) ∧ (v ≤ 64 → sets 4 fun x => { x with queueQuota := v }) ∧ (sets 5 fun x => { x with creelQuota := v }) ∧
      (sets 6 fun x => { x with slice := v, sliceFrom := s.now }) ∧ (v ≤ 64 → sets 7 fun x => { x with treeQuota := v }) ∧
      (v < 2 ^ 32 → sets 8 fun x => { x with drives := BitVec.ofNat 32 v }) ∧ ∀ r, 8 < r → ends (.quota fn p r i v) 3 s) ∧
    (∀ h n, given 0x0B → pf → h ≤ 8 → n < 2 ^ 64 → ∃ u, ends (.cellstore fn h n) 0 u ∧ u.cellStore = mset s.cellStore h (BitVec.ofNat 64 n) ∧ u.mem = s.mem) ∧
    (∀ t : TensorArgs, given 0x0C → tensorOk t = true → findTensor s fn.part t.handle = none → ∃ x, ends (.regtensor fn t) 0 { s with tensors := s.tensors ++ [x] } ∧
      x.part = fn.part ∧ x.handle = t.handle ∧ x.size = t.size ∧ x.die = t.die ∧ x.hbmAt = t.hbm ∧ x.boardAt = t.board ∧ x.flashAt = t.flash ∧ x.hbm = t.hbmValid ∧ x.board = t.boardValid ∧
      x.flash = t.flashValid ∧ x.st = (if t.hbmValid then .resident else .absent) ∧ x.pins = 0 ∧ x.last = 0) ∧
    (∀ t, given 0x0D → findTensor s fn.part t.handle = some t →
      (t.st = .absent ∨ (t.st = .resident ∧ t.pins = 0) → ∃ u, ends (.unregtensor fn t.handle) 0 u ∧ u.mem = s.mem ∧
        u.tensors = s.tensors.filter fun x => ¬ (x.part = fn.part ∧ x.handle = t.handle)) ∧
      (t.st = .moving ∨ t.st = .evicting ∨ (t.st = .resident ∧ t.pins ≠ 0) → ends (.unregtensor fn t.handle) 4 s)) ∧
    (∀ k, pf → 1 ≤ k → k ≤ 511 → (∀ x ∈ s.keys, x.num ≠ k) →
      (given 0x0F → ends (.keyset fn k) 0 { s with keys := s.keys ++ [⟨k, s.nextKey⟩], nextKey := s.nextKey + 1 }) ∧ (given 0x10 → ends (.keyclr fn k) 0 s)) ∧
    (∀ k, given 0x10 → pf → 1 ≤ k.num → k.num ≤ 511 → s.keys.find? (fun x => x.num = k.num) = some k → ∃ u, ends (.keyclr fn k.num) 0 u ∧
      u.keys = s.keys.filter (fun x => x.num ≠ k.num) ∧ ∀ b, (∀ l ∈ s.byteGen, l.1 = b → l.2.toNat ≠ k.gen) → mget u.mem b = mget s.mem b) ∧
    (∀ n w, given 0x11 → pf → n ≤ 4 → w < 2 ^ 16 →
      (n ≤ 2 ∨ (s.packets = [] ∧ ∀ d ∈ allGrids s, d.ended = true) → ∃ u, ends (.power fn n w) 0 u ∧ u.pstate = n ∧ u.warnTemp = w ∧ u.mem = s.mem) ∧
      (3 ≤ n → s.packets ≠ [] ∨ (∃ d ∈ allGrids s, d.ended = false) → ends (.power fn n w) 4 s)) ∧
    (∀ ad n cm, given 0x12 → pf → s.firmware.writing = none → (∃ d ∈ allGrids s, d.ended = false) → ends (.fwload fn ad n cm) 4 s) ∧
    (∀ ad n bs cm, given 0x12 → pf → busRead s 0 ad n = some bs →
      (s.firmware.writing = none → (∀ d ∈ allGrids s, d.ended = true) →
        (∀ e, checkImage s.firmware.fuse.toNat bs = .inl e → ends (.fwload fn ad n cm) 3 s) ∧
        (∀ x, checkImage s.firmware.fuse.toNat bs = .inr x → exec (.fwload fn ad n cm) s = .next { s with firmware := { s.firmware with writing := some (fn, x, cm) } })) ∧
      (∀ x c, s.firmware.writing = some (fn, x, c) → ∃ u, ends (.fwload fn ad n cm) 0 u ∧ u.mem = s.mem ∧
        u.firmware = { s.firmware with
          next := some x, fuse := if c && s.firmware.fuse.ult x.2.1 then x.2.1 else s.firmware.fuse, writing := none, broken := false })) ∧
    (∀ no re ce b, given 0x13 → busRead s fn.part no 32 = some b →
      let body := reportBody s fn.part b
      let report := body ++ attestSig body ++ if ce then Config.certificate else []
      if busOk s fn.part re report.length then ends (.attest fn no re ce) 0 (busWrite fn.part re report s)
      else ends (.attest fn no re ce) 3 (noteWay fn.part re report.length s)) ∧
    (∀ (d : PassQueue) cm cp b, given 0x14 → pf → busRead s 0 cm 64 = some b →
      if d.admin = true ∧ Machine.fld b 0 1 ∈ [0x00, 0x01, 0x04, 0x05, 0x80] then ends (.nvmepass fn d cm cp) 2 s
      else if 31 < d.drive then ends (.nvmepass fn d cm cp) 3 s
      else if busOk s 0 cp 16 = false then ends (.nvmepass fn d cm cp) 3 (noteWay 0 cp 16 s)
      else ends (.nvmepass fn d cm cp) 0 { s with passing := s.passing ++ [⟨d.drive, cp, b⟩] }) ∧
    (∀ r p n (va : DWord) lg lo, given 0x15 → pf → r ≤ 255 → p ≤ 64 → 4 ≤ lg → lg ≤ 12 → va.toNat % 64 = 0 → va.toNat < 9 * 2 ^ 53 → hasAsid s p n = true →
      (findRing s r = none → ends (.ringbind fn r p n va lg lo) 0 { s with rings := s.rings ++ [⟨r, p, n, va, lg, lo, 0, [], []⟩] }) ∧
      (findRing s r ≠ none → ends (.ringbind fn r p n va lg lo) 4 s)) ∧
    (∀ r, given 0x16 → pf → findRing s r.num = some r →
      (r.waiters.any (inOrecv s) = false → ∃ d, d.toNat = min (2 ^ 32 - 1) (s.dropUnbound.toNat + r.entries.length) ∧
        ends (.ringfree fn r.num) 0 { s with rings := s.rings.filter fun x => x.num ≠ r.num, dropUnbound := d }) ∧
      (r.waiters.any (inOrecv s) = true → ends (.ringfree fn r.num) 4 s)) ∧
    (∀ sd sp p n, given 0x17 → pf → sd ≤ 255 → sp ≤ 64 → p ≤ 64 →
      let rest := s.imports.filter fun i => ¬ (i.srcDev = sd ∧ i.srcPart = sp)
      (hasAsid s p n = true → ends (.importBind fn sd sp p n) 0 { s with imports := rest ++ [⟨sd, sp, p, n⟩] }) ∧
      ends (.importRemove fn sd sp) 0 { s with imports := rest }) ∧
    (∀ d ms, given 0x18 → pf → d ≤ 31 → 1 ≤ ms → ms ≤ 60000 → ends (.nvmeto fn d ms) 0 { s with nvmeMs := mset s.nvmeMs d (BitVec.ofNat 64 ms) }) ∧
    (∀ p e, s.passing = [p] → e.length = 16 → exec (.nvmepassCompletion p.drive e) s = .next (busWrite 0 p.cpl e { s with passing := [] }))

/-- R338, R339, R341, R344-R350, R230: the ports. A message or a beacon that its port's state lets in moves the port's watermark, and the message is held for delivery, or goes to
the output of its route; any other is discarded, counted as late where the table says so. Delivery takes the smallest key once DW has passed its stamp and no port is
STALLED, and F then exceeds the stamp.
What a STALLED port does with a lower value, the joining rule of the logical class, the ring's bytes and the paths through the device are the model's choices (log 15, 16, 23), and so
are the route and the waiting of an unordered transit message and of what waits for a link that fails (log 14), that nothing arrives while the hold buffer is full (log 33), and the place of an
overflow entry (log 41). -/
def Obligations.FabricEvents : Prop :=
  ∀ (s : State) (n : Nat) (m : Msg) (r : Ring), s.ports.length = 16 → n < 16 → s.pstate ≠ 4 →
    let p := portOf s n
    let port := fun (q : Port) => { s with ports := s.ports.modify n fun _ => q }
    let lg := m.cls = .logical
    let late := port { p with late := min (p.late + 1) (2 ^ 32 - 1) }
    let mark := fun (st : PortSt) => if lg then { p with st, lw := m.stamp } else { p with st, w := m.stamp }
    let old := if lg then p.lw else p.w
    let held := fun st => { port (mark st) with holdBuf := s.holdBuf ++ [⟨n, m, none⟩] }
    let dw := s.ports.foldl (fun d p => if p.st = .live ∨ p.st = .stalled then min d p.w else d) (max s.floor s.now)
    let noLive := ∀ q ∈ s.ports, q.st ≠ .live
    let arrives := fun t => exec (.fabricMessageArrival n m) s = .next t
    let entry : RingEntry := ⟨BitVec.ofNat 128 (m.payload.length + m.srcDev % 256 * 2 ^ 16 + m.srcPort % 16 * 2 ^ 24 + (if m.cls = .unordered then 2 ^ 29 else 0) +
      m.seq % 2 ^ 32 * 2 ^ 32 + (if m.cls = .unordered then 0 else m.stamp % 2 ^ 64 * 2 ^ 64)), m.payload⟩
    let stored := fun (t : State) => findRing t m.ring = some { r with entries := r.entries ++ [entry], wr := r.wr + 1 } ∧ t.grp.sregs = s.grp.sregs ∧
      t.mem = (wrVa r.part r.asid (r.va + BitVec.ofNat 64 (r.wr % 2 ^ r.log2 * 272)) (toBytes entry.header.toNat 16 ++ m.payload) s).mem
    let hanked := fun (t : State) (k : BitVec 8) (a b : Nat) => ∃ r ∈ t.hank, r.kind = k ∧ r.info0 = BitVec.ofNat 64 a ∧ r.info1 = BitVec.ofNat 64 b
    (m.cls ≠ .unordered → 4096 ≤ s.holdBuf.length → arrives s) ∧
    (m.cls ≠ .unordered → p.link = true → s.holdBuf.length < 4096 →
      (p.st = .fenced → arrives late) ∧
      (m.dst = s.devId → (p.st = .live ∨ p.st = .stalled) → old ≤ m.stamp → arrives (held p.st)) ∧
      (p.st = .live → m.stamp < old → arrives late) ∧
      (p.st = .stalled → m.stamp < old → arrives s) ∧
      (m.dst = s.devId → p.st = .joining → (dw ≤ if lg then p.w else m.stamp) ∨ noLive → arrives (held .live)) ∧
      (¬ lg → p.st = .joining → m.stamp < dw → ¬ noLive → arrives late) ∧
      (lg → m.dst = s.devId → p.st = .joining → p.w < dw → ¬ noLive → arrives (if m.stamp < deliveryMark s true then late else held .joining)) ∧
      (∀ o, m.dst ≠ s.devId → (liveRoutes s m.dst).find? (fun x => x != n) = some o → p.st = .live → old ≤ m.stamp →
        let sent := if lg then (portOf s o).outLW else (portOf s o).outW
        (sent ≤ m.stamp → ∃ t, arrives t ∧ t.mem = s.mem ∧ t.holdBuf = s.holdBuf ∧ (⟨n, o, m, none⟩ ∈ t.outBuf ∨ .message o m ∈ t.egress)) ∧
        (m.stamp < sent → arrives (port { mark p.st with late := min (p.late + 1) (2 ^ 32 - 1) })))) ∧
    (∀ w lw, p.link = true → s.outBuf = [] → let e := Instr.beaconArrival n w lw
      (p.st = .fenced → exec e s = .next s) ∧
      ((p.st = .live ∨ p.st = .stalled) → p.w ≤ w → p.lw ≤ lw → exec e s = .next (port { p with w, lw })) ∧
      (p.st = .live → w < p.w ∨ lw < p.lw → exec e s = .next late) ∧
      (p.st = .joining → dw ≤ w ∨ noLive → exec e s = .next (port { p with st := .live, w, lw })) ∧
      (p.st = .joining → w < dw → ¬ noLive → exec e s = .next s)) ∧
    (m.cls = .unordered → p.link = true → let e := Instr.unorderedArrival n m
      (m.dst = s.devId → findRing s m.ring = none → exec e s = .next { s with dropUnbound := if s.dropUnbound = 0xFFFFFFFF then s.dropUnbound else s.dropUnbound + 1 }) ∧
      (m.dst = s.devId → findRing s m.ring = some r → r.logical = true → exec e s = .next { s with dropKind := if s.dropKind = 0xFFFFFFFF then s.dropKind else s.dropKind + 1 }) ∧
      (m.dst = s.devId → findRing s m.ring = some r → r.logical = false → r.entries.length < 2 ^ r.log2 → ∃ t, exec e s = .next t ∧ stored t) ∧
      (m.dst = s.devId → findRing s m.ring = some r → r.logical = false → 2 ^ r.log2 ≤ r.entries.length → ∃ t x, exec e s = .next t ∧ t.mem = s.mem ∧
        findRing t m.ring = some { r with entries := r.entries ++ [x] } ∧ x.payload = [] ∧ x.header.getLsbD 30 = true ∧ x.header.extractLsb' 0 9 = 0) ∧
      (m.dst ≠ s.devId → s.outBuf = [] →
        let outs := (liveRoutes s m.dst).filter fun x => x != n
        let free := fun o => !(portOf s o).pausedOut.contains .unordered
        (∀ o, outs.find? free = some o → exec e s = .next { s with egress := s.egress ++ [.message o m] }) ∧
        (∀ o, outs.head? = some o → outs.find? free = none → exec e s = .next { s with outBuf := [⟨n, o, m, none⟩] }))) ∧
    (∀ i from_, ⟨i, m, from_⟩ ∈ s.holdBuf → m.cls = .ordered → (∀ x ∈ s.holdBuf, x.msg.cls ≠ .logical → x = ⟨i, m, from_⟩ ∨ msgBefore m x.msg = true) →
      (m.stamp < dw → (∀ q ∈ s.ports, q.st ≠ .stalled) → findRing s m.ring = some r → r.logical = false → r.entries.length < 2 ^ r.log2 →
        ∃ t, exec .orderedDelivery s = .next t ∧ stored t ∧ t.holdBuf = s.holdBuf.erase ⟨i, m, from_⟩ ∧ t.floor = max s.floor (m.stamp + 1)) ∧
      ((∀ x ∈ s.holdBuf, x.msg.cls = .ordered) → dw ≤ m.stamp → exec .orderedDelivery s = .next s)) ∧
    ((∃ q ∈ s.ports, q.st = .stalled) → exec .orderedDelivery s = .next s) ∧
    (p.link = true → s.outBuf = [] → (∀ i, i < 16 → routeReaches s i n = false) →
      (s.now < p.outSince + 400 → s.now < p.outLSince + 400 → exec (.beaconTimer n) s = .next s) ∧
      (p.outSince + 400 ≤ s.now ∨ p.outLSince + 400 ≤ s.now →
        let w := max p.outW (min (2 ^ 64 - 1) (max s.floor s.now))
        let lw := max p.outLW (min (2 ^ 64 - 1) (logicalFloor s))
        exec (.beaconTimer n) s = .next { port { p with outW := w, outLW := lw, outSince := s.now, outLSince := s.now } with egress := s.egress ++ [.beacon n w lw] })) ∧
    (∀ v : DWord,
      let on := fun t => s.egress ++ ((List.range 16).filter fun i => (portOf s i).link).map fun i => Egress.time i t
      (s.tmaster = true → exec (.timeBeacon v) s = .next (if s.now % 2000 = 0 then { s with egress := on s.now } else s)) ∧
      (s.tmaster = false → s.synced = true → exec (.timeBeacon v) s = .next { s with steer := (v.toNat : Int) - s.now, egress := on s.now }) ∧
      (s.tmaster = false → s.synced = false → exec (.timeBeacon v) s = .next { s with
        now := max s.now v.toNat, synced := true, steer := 0, egress := on (max s.now v.toNat) })) ∧
    (p.st = .live → p.w + s.stallUs * 2000 < s.now → ∃ t, exec (.portStall n) s = .next t ∧ t.ports = (port { p with st := .stalled }).ports ∧ hanked t 0x21 n p.w) ∧
    (p.st ≠ .live ∨ s.now ≤ p.w + s.stallUs * 2000 → exec (.portStall n) s = .next s) ∧
    (s.outBuf = [] → ∀ c,
      exec (.pause n c true) s = .next (port { p with pausedOut := (p.pausedOut.filter fun x => x ≠ c) ++ [c] }) ∧
      exec (.pause n c false) s = .next (port { p with pausedOut := p.pausedOut.filter fun x => x ≠ c })) ∧
    (p.st = .fenced → exec (.portAdmit n) s = .next (port { p with st := .joining, w := 0, lw := 0 }) ∧ exec (.portFence n) s = .next s) ∧
    (p.st ≠ .fenced → exec (.portAdmit n) s = .next s ∧ (s.outBuf = [] → exec (.portFence n) s = .next (port { p with st := .fenced }))) ∧
    (∀ v : DWord, exec (.fabdropClear v) s = .next { s with
      dropKind := s.dropKind &&& ~~~(v.extractLsb' 32 32), dropUnbound := s.dropUnbound &&& ~~~(v.extractLsb' 0 32) }) ∧
    (p.link = true → ∃ t, exec (.linkdown (.port n)) s = .next t ∧ (portOf t n).link = false ∧ hanked t 0x20 n 0 ∧
      (s.outBuf = [] → t.ports = (port { p with link := false }).ports) ∧
      ∀ x ∈ s.outBuf, x.out = n → x.msg.cls = .unordered → match (liveRoutes s x.msg.dst).find? fun q => q != n && q != x.input with
        | some o => { x with out := o } ∈ t.outBuf ∨ .message o x.msg ∈ t.egress
        | none => x ∈ t.outBuf) ∧
    (∀ d q, p.link = false → ∃ t, exec (.linkTrained n d q) s = .next t ∧ (portOf t n).link = true ∧ (portOf t n).peerDev = d ∧ (portOf t n).peerPort = q ∧
      (s.outBuf = [] → t = port { p with link := true, peerDev := d, peerPort := q, outSince := s.now, outLSince := s.now }))

/-- R152, R340, R354, R356, R358, R359, R350, R390, R397, R398, R402: accesses from outside. An access whose translation ends at `ls` is performed there and answered; a peer's atomic is
performed here once. A BAR 2 access that can not be made is answered UR; a peer's gets the cause. A write of a register changes that register alone.
The places of Device Control 2's enable bit and of the CXL registers are presumed (log 6). That a peer's miss is answered PAGE at once, and kept until its record is
answered, is the model's choice (log 34). -/
def Obligations.OutsideAccesses : Prop :=
  ∀ (s : State) (fn : Fn) (off sd sp home : Nat) (asid : BitVec 16) (base : DWord) (imp : Import) (v : DWord), s.pstate ≠ 4 → repliesPaused s sd = false →
    let answered := fun (e : Instr) (r : Reply) => exec e s = .next { s with replies := s.replies ++ [r] }
    let importOf := s.imports.find? fun i => i.srcDev = sd ∧ i.srcPart = sp
    let bar := fun acc => Instr.bar2Access fn off acc
    let peer := fun acc => Instr.peerRequest sd sp home off acc
    ((fnOf s fn).bar2 = some (asid, base) → importOf = some imp → home ≤ 8 → off < 2 ^ 36 - 4096 →
      ∀ p ∈ [(bar, extEnv fn.part asid fn.hub, base + BitVec.ofNat 64 off), (peer, extEnv imp.part imp.asid 0, BitVec.ofNat 64 (home * 2 ^ 53 + off))],
        (∀ n ls, n ≤ 4096 → extPlaces s p.2.1 false true false (pieceRuns p.2.2 n) = .ok ls →
          answered (p.1 (.read n)) (.data (ls.flatMap fun q => rdBytes s q.1 q.2))) ∧
        (∀ bs l, bs.length ≤ 4096 → extPlaces s p.2.1 false false true (pieceRuns p.2.2 bs.length) = .ok [(l, bs.length)] → l.space = .phys →
          ∃ t, exec (p.1 (.write bs)) s = .next t ∧ t.replies = s.replies ++ [.done] ∧ t.ops = s.ops ∧
            ∀ k, mget t.mem k = if l.covers bs.length k then bs.getD (k - l.off) 0 else mget s.mem k) ∧
        (∀ x y l, extPlaces s p.2.1 true true true [(p.2.2, 8)] = .ok [(l, 8)] → l.space = .phys →
          let old : DWord := BitVec.ofNat 64 (rdNat s l 8)
          ∀ a ∈ [(ExtAmo.fetchAdd, old + x), (.swap, x), (.cas, if old = y then x else old)],
            ∃ t, exec (p.1 (.amo a.1 8 x y)) s = .next t ∧ t.replies = s.replies ++ [.data (toBytes old.toNat 8)] ∧ t.ops = s.ops ∧
              ∀ k, mget t.mem k = if l.covers 8 k then byteOf a.2 (k - l.off) else mget s.mem k)) ∧
    (importOf = some imp → home ≤ 8 → off < 2 ^ 41 → ∀ x y l,
      extPlaces s (extEnv imp.part imp.asid 0) true true true [(BitVec.ofNat 64 (home * 2 ^ 53 + off), 8)] = .ok [(l, 8)] → l.space = .phys →
      let old : DWord := BitVec.ofNat 64 (rdNat s l 8)
      ∀ a ∈ [(ExtAmo.min, if old.toInt < x.toInt then old else x), (.max, if old.toInt < x.toInt then x else old), (.minu, if old.toNat < x.toNat then old else x),
          (.maxu, if old.toNat < x.toNat then x else old), (.and, old &&& x), (.or, old ||| x), (.xor, old ^^^ x)],
        ∃ t, exec (peer (.amo a.1 8 x y)) s = .next t ∧ t.replies = s.replies ++ [.data (toBytes old.toNat 8)] ∧
          ∀ k, mget t.mem k = if l.covers 8 k then byteOf a.2 (k - l.off) else mget s.mem k) ∧
    ((fnOf s fn).bar2 = none → ∀ acc, answered (bar acc) .ur) ∧
    (∀ x y n, (fnOf s fn).bar2 = some (asid, base) → (2 ^ 36 < off + n → answered (bar (.read n)) .ur) ∧
      ∀ op ∈ [ExtAmo.min, .max, .minu, .maxu, .and, .or, .xor, .fadd, .fmin, .fmax], answered (bar (.amo op n x y)) .ur) ∧
    (∀ n, 8 < home → answered (peer (.read n)) (.fault 0x11)) ∧
    (∀ n, home ≤ 8 → off < 2 ^ 41 → importOf = none → answered (peer (.read n)) (.fault 0x12)) ∧
    (∀ n c va x, home ≤ 8 → off < 2 ^ 41 → importOf = some imp →
      extPlaces s (extEnv imp.part imp.asid 0) false true false (pieceRuns (BitVec.ofNat 64 (home * 2 ^ 53 + off)) n) = .fault c va (some x) none none →
      ∃ t w, exec (peer (.read n)) s = .next t ∧ t.replies = s.replies ++ [.fault c] ∧ w ∈ t.peerWaits ∧ w.dev = sd ∧ w.va = va ∧ ∃ y ∈ t.records, y.id = w.record) ∧
    (∀ n, off + n ≤ s.cxlSize → s.cxlBase + s.cxlSize ≤ 2 ^ 41 →
      let l := physLoc 8 (s.cxlBase + off)
      (hasEcc s l n = false → answered (.cxlMemAccess off (.read n)) (.data (rdBytes s l n))) ∧
      (hasEcc s l n = true → ∃ t, exec (.cxlMemAccess off (.read n)) s = .next t ∧ t.replies = s.replies ++ [.fault 0x70] ∧ t.mem = s.mem)) ∧
    (∀ bs, off + bs.length ≤ s.cxlSize → s.cxlBase + s.cxlSize ≤ 2 ^ 41 →
      let at_ := 8 * 2 ^ 53 + s.cxlBase + off
      ∃ t, exec (.cxlMemAccess off (.write bs)) s = .next t ∧ t.replies = s.replies ++ [.done] ∧
        ∀ k, mget t.mem k = if at_ ≤ k ∧ k < at_ + bs.length then bs.getD (k - at_) 0 else mget s.mem k) ∧
    (∀ n, s.cxlSize < off + n → answered (.cxlMemAccess off (.read n)) .ur) ∧
    (let writes := fun (r : HostReg) (t : State) => exec (.registerWrite r v) s = .next t
     (fn.part = 0 ∨ s.firmware.recovery = none →
       writes (.bar0 fn 0) (updFn fn (fun r => { r with mgBase := v &&& ~~~63 }) s) ∧
       writes (.bar0 fn 8) (updFn fn (fun r => { r with mgSize := v.toNat % 16 }) s) ∧
       writes (.bar0 fn 16) (updFn fn (fun r => { r with mgDb := v.extractLsb' 0 32 }) s) ∧
       ∀ q, q < 64 → writes (.bar0 fn (0x1000 + 8 * q)) { s with
         queues := s.queues.map fun c => if c.part = fn.part && c.q = q && c.hub = fn.hub then { c with wr := v.extractLsb' 0 32 } else c }) ∧
     (fn.part = 0 → s.outBuf = [] →
       writes (.bar0 fn 0x4000) { s with
         stallUs := if v.toNat / 2 ^ 32 = 0 then 1 else min (v.toNat / 2 ^ 32) 10000, tmaster := v.getLsbD 8, devId := v.toNat % 256 } ∧
       ∀ d, d < 256 → writes (.bar0 fn (0x5000 + 8 * d)) { s with routes := mset s.routes d (v.extractLsb' 0 16) }) ∧
     (∀ h, writes (.devCtl2 h) { s with atomicsOff := if v.getLsbD 6 then s.atomicsOff.filter fun x => x ≠ h else (s.atomicsOff.filter fun x => x ≠ h) ++ [h], cto := mset s.cto h (v.extractLsb' 0 5) } ∧
       writes (.cxlMode h) { s with cxl := if v = 0 then s.cxl.filter fun x => x ≠ h else (s.cxl.filter fun x => x ≠ h) ++ [h] }) ∧
     writes .cxlBase { s with cxlBase := v.toNat } ∧ writes .cxlSize { s with cxlSize := v.toNat } ∧
     (∀ x, x < 576 → let reg := fun o f => writes (.bar4 (x * 0x10000 + o) 8) (updDbg x f s)
       reg 0x10 (fun d => { d with gsel := v.extractLsb' 0 7 }) ∧
       ((dbgOf s x).tren = false → reg 0x20 (fun d => { d with trbase := v &&& 0xFFFFFFFFFF001 }) ∧ reg 0x28 (fun d => { d with trsize := max 8 (min (v.toNat % 32) 24) }) ∧
         reg 0x38 (fun d => { d with trq := v.extractLsb' 0 7 })) ∧
       ((dbgOf s x).tren = true → ∀ o ∈ [0x20, 0x28, 0x38], writes (.bar4 (x * 0x10000 + o) 8) s) ∧
       (∀ i, i < 8 → reg (0x80 + 16 * i) (fun d => { d with wpaddr := mset d.wpaddr i (v &&& 0x1FFFFFFFFFFFFFF) }) ∧
         reg (0x88 + 16 * i) (fun d => { d with
           wpcfg := mset d.wpcfg i ((v &&& 0x7F0036) ||| BitVec.ofNat 64 (min (v.toNat / 2 ^ 8 % 16) 12 * 2 ^ 8)) })) ∧
       ∀ i, i < 4 → reg (0x100 + 16 * i) (fun d => { d with bpaddr := mset d.bpaddr i (v &&& 0x1FFFFFFFFFFFFFC) }) ∧
         reg (0x108 + 16 * i) (fun d => { d with bpcfg := mset d.bpcfg i (v &&& 0x7F0001) })) ∧
     (∀ o n, o % 8 ≠ 0 ∨ n ≠ 8 → answered (.registerWrite (.bar4 o n) v) .ur) ∧
     ∀ p, p < 65 → let at_ := 0x03000100 + 32 * p
       writes (.bar4 at_ 8) (updPart p (fun x => { x with dmpAsid := v.extractLsb' 16 16, dmpEn := v.getLsbD 0 }) s) ∧
       writes (.bar4 (at_ + 8) 8) (updPart p (fun x => { x with dmpVa := v &&& 0x1FFFFFFFFFFFFC0 }) s) ∧
       writes (.bar4 (at_ + 16) 8) (updPart p (fun x => { x with dmpSize := v }) s))

/-- R389-R407, R413: the debug block. GCMD acts on the selected group, and RESUME and STEP on a stopped one, whose window writes take effect then: of LIVE as R24 says, also on a parked group, and of TSTATUS on its mask; PRCTL clears; TREN that rises resets
the ring and writes a sync set, which is TIME alone where no group is resident; a record goes to the ring's next place; a dump is written and counted in DMPST; the
hank is mirrored.
The cycles between two records, the order of a resume's writes, that a PC written to a group inside an instruction counts behind it, and that a write of TSTATUS reaches the mask that the window shows of a parked group, are the model's choices (log 30), and so is where
records that are still staged go when TREN rises again (log 41). -/
def Obligations.DebugEvents : Prop :=
  ∀ (s : State) (x : Nat) (g : Group), selected s x = some g → s.pstate ≠ 4 →
    let d := dbgOf s x
    let grp := fun (f : Group → Group) => updGroup g.key f s
    let going := fun (step : Bool) (g : Group) => { g with stopped := false, stepping := step, bpSkip := if g.priv then g.bpSkip else some g.pc }
    let dbg := fun (e : Instr) (d' : Dbg) => ∃ t, exec e s = .next t ∧ dbgOf t x = d' ∧ t.mem = s.mem ∧ t.grp = s.grp ∧ t.groups = s.groups
    (g.stopped = false → d.teamStop = false → findGroup s g.key = some g → g.phase = .running → tracedSlot s g.key = none →
      (∀ t, findTeam s (tkeyOf g.key) = some t → t.spindle = x) → exec (.gcmdStop x) s = .next (grp fun g => { g with stopped := true, stepping := false })) ∧
    (g.stopped = false → exec (.gcmdResume x false) s = .next s ∧ exec (.gcmdStep x) s = .next s) ∧
    (g.stopped = true → s.windowWrites = [] → exec (.gcmdResume x false) s = .next (grp (going false)) ∧ exec (.gcmdStep x) s = .next (grp (going true))) ∧
    (g.stopped = true → g.key = s.grp.key → s.grp.phase ≠ .absent → ∀ (v : DWord),
      (∀ n, n < 128 → s.windowWrites = [⟨g.key, 0x140 + 8 * n, v⟩] → exec (.gcmdResume x false) s = .next { s with windowWrites := [], grp := going false (setS n v s.grp) }) ∧
      (s.windowWrites = [⟨g.key, 8 * 26, v⟩] → exec (.gcmdResume x false) s = .next { s with
        windowWrites := [], grp := going false { s.grp with wpEn := v.extractLsb' 0 8 } }) ∧
      (s.windowWrites = [⟨g.key, 0x100, v⟩] → s.grp.wait.begun = false → s.grp.park = none → s.grp.set ≠ .suspended →
        exec (.gcmdResume x false) s = .next { s with
          windowWrites := [], grp := going false { s.grp with pc := v &&& ~~~3, decoded := none, wait := .none, eccPend := s.grp.eccPend.map EccDue.unnamed } }) ∧
      (s.windowWrites = [⟨g.key, 0x100, v⟩] → s.grp.wait.begun = true ∨ s.grp.park.isSome = true → exec (.gcmdResume x false) s = .next { s with
        windowWrites := [], grp := going false { s.grp with pcNext := if v &&& ~~~3 = s.grp.pc then none else some (v &&& ~~~3) } }) ∧
      (∀ p, s.grp.park = some p → s.grp.phase = .running →
        (s.windowWrites = [⟨g.key, 0x70, v⟩] → s.grp.live &&& v.extractLsb' 0 32 = 0 → ∃ t, exec (.gcmdResume x false) s = .next t ∧ t.grp.phase = .exiting ∧
          t.grp.live = 0 ∧ t.grp.park = none ∧ t.grp.held = none ∧ (∀ c, t.grp.cnt c = if s.grp.held = some c then s.grp.cnt c - 1 else s.grp.cnt c) ∧ t.mem = s.mem) ∧
        (s.windowWrites = [⟨g.key, 0xC0, v⟩] → ∃ t, exec (.gcmdResume x false) s = .next t ∧ t.grp.sregs = s.grp.sregs ∧ t.mem = s.mem ∧
          (v.getLsbD 2 = true → t.grp.park = some { p with mask := p.mask &&& v.extractLsb' 32 32 } ∧
            t.grp.replayMask = s.grp.replayMask.map fun m => m &&& v.extractLsb' 32 32) ∧
          (v.getLsbD 2 = false → t.grp.park = none ∧ t.grp.held = none)))) ∧
    (∀ f, exec (.prctlClr x f) s = .next (updDbg x (fun d => { d with counters := [], freeze := f }) s)) ∧
    (∀ off v, g.stopped = true → off % 8 = 0 → off < 0x4540 → exec (.groupWindowWrite x off v) s = .next { s with windowWrites := s.windowWrites ++ [⟨g.key, off, v⟩] }) ∧
    (∀ off v, g.stopped = false → exec (.groupWindowWrite x off v) s = .next s) ∧
    (∀ v : DWord, d.tren = true → v.getLsbD 7 = false → dbg (.traceEnable x v) { d with ctl := v.extractLsb' 0 12, trfull := false, slots := [], full := [] }) ∧
    (d.tren = true → d.sinceSync < 4096 → exec (.syncSet x) s = .next s) ∧
    (∀ r rest, d.staged = r :: rest → (d.wrap = true ∨ d.trwp.toNat < 2 ^ d.trsize) →
      let home := if d.trbase.getLsbD 0 then 10 else 8
      let a := d.trbase.toNat / 2 ^ 12 % 2 ^ 40 * 4096 + 16 * (d.trwp.toNat % 2 ^ d.trsize)
      let at_ := home * 2 ^ 53 + a
      let left := { d with staged := rest, trwp := d.trwp + 1, sinceSync := d.sinceSync + 1 }
      a < homeSize home → ∃ t, exec (.traceRecordWrite x) s = .next t ∧
        dbgOf t x = { left with trfull := d.tren && (d.trfull || (!d.wrap && decide (2 ^ d.trsize ≤ (d.trwp + 1).toNat))) } ∧
        ∀ k, mget t.mem k = if at_ ≤ k ∧ k < at_ + 16 then BitVec.ofNat 8 (r.toNat / 2 ^ (8 * (k - at_))) else mget s.mem k) ∧
    (∀ r rest, d.staged = r :: rest → d.wrap = false → 2 ^ d.trsize ≤ d.trwp.toNat → exec (.traceRecordWrite x) s = .next s) ∧
    (∀ y, residentOn s y = [] → s.now < 2 ^ 60 → s.cycles < 2 ^ 60 →
      let e := dbgOf s y
      let time : BitVec 128 := BitVec.ofNat 128 (3 + spindleFmt y % 2 ^ 11 * 2 ^ 8 + s.now * 2 ^ 64)
      let done := fun (i : Instr) (e' : Dbg) => ∃ t, exec i s = .next t ∧ dbgOf t y = e' ∧ t.mem = s.mem ∧ t.groups = s.groups
      (∀ v : DWord, e.tren = false → e.lost = 0 → v.getLsbD 7 = true → done (.traceEnable y v) { e with
        ctl := v.extractLsb' 0 12, trwp := 0, trfull := false, slots := [], full := [], staged := e.staged ++ [time], sinceSync := 0, lastRec := s.cycles / 10 }) ∧
      (e.tren = true → 4096 ≤ e.sinceSync → e.slots = [] → e.lost = 0 →
        done (.syncSet y) { e with staged := e.staged ++ [time], sinceSync := 0, lastRec := s.cycles / 10 })) ∧
    (∀ t a r, findTeam s t.key = some t → findGrid s t.key.launch = some a → t.phase = .ended → t.dumping = true → t.endRec = some r →
      let p := partOf s a.part
      if teamBusy s t.key = true ∨ tierBusy s t.key = true then exec (.coreDump t.key) s = .next s else ∃ u, exec (.coreDump t.key) s = .next u ∧ u.mem = (writeDump a t r s).mem ∧
        (partOf u a.part).dmpTaken = (if p.dmpTaken = 0xFFFF then p.dmpTaken else p.dmpTaken + 1) ∧
        (p.dmpSize.toNat < 64 → u.mem = s.mem ∧ (partOf u a.part).dmpBytes = 0 ∧ (partOf u a.part).dmpTrunc = true ∧ (partOf u a.part).dmpNested = false)) ∧
    exec .hankMirror s = .next { s with hankFlash := (s.hankFlash.filter fun r => s.hank.all fun x => x.seq % 4096 != r.seq % 4096) ++ s.hank }

/-- R370, R376, R377, R380-R382, R407, R409, R410: heat, the loss of power and resets, with their hank records. At 110 °C the device is off until a fundamental reset; what survives are
the mirrored hank, the firmware and its counters, and the memory that is not the device's volatile memory. A function-level reset takes a partition's resources away; that of the PF
interrupts a write of the boot region.
What a function-level reset leaves, and the record of a refused image, are the model's choices (log 17, 27, 32, 36), and so is how the device learns of temperatures: THERMWARN sets that of a die,
and THERMTRIP acts from 110 °C on (log 40). -/
def Obligations.HeatAndResets : Prop :=
  ∀ (s : State) (die temp p : Nat),
    let hanked := fun (t : State) (k : BitVec 8) (a b : DWord) => ∃ r ∈ t.hank, r.kind = k ∧ r.info0 = a ∧ r.info1 = b
    let lost := fun (t : State) => t.grp = .initial ∧ t.groups = [] ∧ t.teams = [] ∧ t.grids = [] ∧ t.ops = [] ∧ t.queues = [] ∧ t.tags = [] ∧ t.aspaces = [] ∧
      t.ports = List.replicate 16 .initial ∧ t.keys = [] ∧ t.parts = [] ∧ ∀ k, mget t.mem k = if k < 9 * 2 ^ 53 then 0 else mget s.mem k
    let heated := { s with temp := mset s.temp die (BitVec.ofNat 16 temp) }
    (s.pstate = 4 ∨ s.warnTemp = 0 ∨ s.warnTemp ≤ (mget s.temp die).toNat ∨ temp < s.warnTemp → exec (.thermwarn die temp) s = .next heated) ∧
    (s.pstate ≠ 4 → s.warnTemp ≠ 0 → (mget s.temp die).toNat < s.warnTemp → s.warnTemp ≤ temp → ∃ t, exec (.thermwarn die temp) s = .next t ∧ t.temp = heated.temp ∧
      t.grp.sregs = s.grp.sregs ∧ t.ops = s.ops ∧ hanked t 0x11 (BitVec.ofNat 64 temp) (BitVec.ofNat 64 s.warnTemp)) ∧
    (temp < 1760 → exec (.thermtrip die temp) s = .next s) ∧
    (mwf s.mem → 1760 ≤ temp → ∃ t, exec (.thermtrip die temp) s = .next t ∧ t.off = true ∧ lost t ∧ t.firmware = s.firmware ∧
      hanked t 0x10 (BitVec.ofNat 64 temp) 0 ∧ t.hankFlash = t.hank ∧ .host 0 ∈ t.linkDown ∧ .host 1 ∈ t.linkDown) ∧
    (mwf s.mem → ∃ t, exec .powerLoss s = .next t ∧ t.off = true ∧ lost t ∧ t.firmware = s.firmware ∧ t.hank = s.hankFlash ∧ t.hankFlash = s.hankFlash) ∧
    (mwf s.mem → ∃ t, exec .fundamentalReset s = .next t ∧ t.off = false ∧ lost t ∧ t.boots = s.boots + 1 ∧ hanked t 0x70 0 0 ∧ t.firmware.next = none ∧
      (let image := s.firmware.next.getD (s.firmware.version, s.firmware.svn, s.firmware.bodyHash)
       t.firmware.fuse = s.firmware.fuse ∧
       (s.firmware.broken = true ∨ s.firmware.writing ≠ none → ∃ r, t.firmware.recovery = some r ∧ 1 ≤ r.toNat ∧ r.toNat ≤ 4 ∧ hanked t 0x31 (r.setWidth 64) 0) ∧
       (s.firmware.broken = false → s.firmware.writing = none → t.firmware.version = image.1 ∧ t.firmware.svn = image.2.1 ∧
       (image.2.1.toNat < s.firmware.fuse.toNat → t.firmware.recovery = some 5 ∧ hanked t 0x31 5 0) ∧
       (s.firmware.fuse.toNat ≤ image.2.1.toNat → t.firmware.recovery = none ∧ hanked t 0x30 (image.1.setWidth 64) (image.2.1.setWidth 64))))) ∧
    (p ≤ 64 → ∃ t, exec (.functionLevelReset p) s = .next t ∧ hanked t 0x70 1 0 ∧ (∀ q, q = p ∨ (p = 0 ∧ q ≤ 64) → ∀ x ∈ t.tags, x.part ≠ q) ∧
      (p = 0 → t.firmware = if s.firmware.writing = none then s.firmware else { s.firmware with next := none, writing := none, broken := true }) ∧
      (p ≠ 0 → (∀ x ∈ t.tensors, x.part ≠ p) ∧ (∀ x ∈ t.records, x.queuePart ≠ p) ∧ (∀ x ∈ t.fns, x.fn.part ≠ p) ∧ t.firmware = s.firmware ∧
        partOf t p = (partOf t p).cleared ∧ (partOf t p).dmpVa = (partOf s p).dmpVa ∧ (partOf t p).dmpSize = (partOf s p).dmpSize ∧
        ∀ c ∈ t.queues, c.part = p → c.halted = true))
end

