-- ==== Sys2Proof/Laws/Frame.lean ====
section
/-! SUPPORT. The operations that leave the memory of the homes as it is: every one that retires, traps, parks, stops or releases, and
the change of a part of the state. -/

namespace Sys2Proof.Machine

theorem foldl_mem {α : Type} (f : State → α → State) (h : ∀ s x, (f s x).mem = s.mem) (l : List α) (s : State) :
    (l.foldl f s).mem = s.mem := by
  induction l generalizing s with
  | nil => rfl
  | cons x l ih => rw [List.foldl_cons, ih, h]

@[simp] theorem onGrp_mem (f : Group → Group) (s : State) : (onGrp f s).mem = s.mem := rfl

@[simp] theorem onTeam_mem (f : Team → Team) (s : State) : (onTeam f s).mem = s.mem := rfl

@[simp] theorem onGrid_mem (f : Grid → Grid) (s : State) : (onGrid f s).mem = s.mem := rfl

@[simp] theorem updGroup_mem (k : GKey) (f : Group → Group) (s : State) : (updGroup k f s).mem = s.mem := by unfold updGroup; split <;> simp

@[simp] theorem updTeam_mem (k : TKey) (f : Team → Team) (s : State) : (updTeam k f s).mem = s.mem := by unfold updTeam; split <;> simp

@[simp] theorem updGrid_mem (n : Nat) (f : Grid → Grid) (s : State) : (updGrid n f s).mem = s.mem := by unfold updGrid; split <;> simp

@[simp] theorem updGroups_mem (p : Group → Bool) (f : Group → Group) (s : State) : (updGroups p f s).mem = s.mem := rfl

@[simp] theorem checkout_mem (k : GKey) (s : State) : (checkout k s).mem = s.mem := by unfold checkout; split <;> simp

@[simp] theorem updPart_mem (p : Nat) (f : Partition → Partition) (s : State) : (updPart p f s).mem = s.mem := by unfold updPart; split <;> simp

@[simp] theorem updDbg_mem (n : Nat) (f : Dbg → Dbg) (s : State) : (updDbg n f s).mem = s.mem := by unfold updDbg; split <;> simp

@[simp] theorem updFn_mem (fn : Fn) (f : FnRegs → FnRegs) (s : State) : (updFn fn f s).mem = s.mem := by unfold updFn; split <;> simp

@[simp] theorem updPort_mem (n : Nat) (f : Port → Port) (s : State) : (updPort n f s).mem = s.mem := rfl

@[simp] theorem updOp_mem (id : Nat) (f : Op → Op) (s : State) : (updOp id f s).mem = s.mem := rfl

@[simp] theorem dropOp_mem (id : Nat) (s : State) : (dropOp id s).mem = s.mem := rfl

@[simp] theorem updPacket_mem (id : Nat) (f : Packet → Packet) (s : State) : (updPacket id f s).mem = s.mem := rfl

@[simp] theorem nextFree_mem (s : State) : (nextFree s).mem = s.mem := rfl

@[simp] theorem updTensor_mem (part : Nat) (h : Word) (f : Tensor → Tensor) (s : State) : (updTensor part h f s).mem = s.mem := rfl

@[simp] theorem hankAdd_mem (kind : BitVec 8) (sev : BitVec 4) (part : BitVec 8) (die : BitVec 4) (info0 info1 : DWord) (s : State) : (hankAdd kind sev part die info0 info1 s).mem = s.mem := by cases s; rfl

@[simp] theorem stage_mem (n bits : Nat) (mk : Nat → BitVec 128) (s : State) : (stage n bits mk s).mem = s.mem := by simp [stage]

@[simp] theorem blockRec_mem (k : GKey) (live : Word) (id : Nat) (pc : DWord) (s : State) : (blockRec k live id pc s).mem = s.mem := by
  unfold blockRec
  repeat (any_goals split)
  all_goals simp

@[simp] theorem syncRec_mem (k : GKey) (s : State) : (syncRec k s).mem = s.mem := by unfold syncRec; split <;> simp

@[simp] theorem launchRec_mem (n slot launch : Nat) (s : State) : (launchRec n slot launch s).mem = s.mem := by unfold launchRec; split <;> simp

@[simp] theorem syncSetRecs_mem (n : Nat) (s : State) : (syncSetRecs n s).mem = s.mem := by
  unfold syncSetRecs
  rw [foldl_mem _ fun s i => ?_, updDbg_mem, foldl_mem _ fun s i => ?_, stage_mem]
  · split <;> simp
  · split <;> simp

@[simp] theorem stopRec_mem (k : GKey) (why : Nat) (s : State) : (stopRec k why s).mem = s.mem := by unfold stopRec; split <;> simp

@[simp] theorem takeTraceSlot_mem (n : Nat) (x : Grid) (s : State) : (takeTraceSlot n x s).1.mem = s.mem := by
  unfold takeTraceSlot
  dsimp only
  repeat (any_goals split)
  all_goals first | rfl | simp

@[simp] theorem tracePlaced_mem (k : GKey) (s : State) : (tracePlaced k s).mem = s.mem := by
  unfold tracePlaced
  dsimp only
  repeat (any_goals split)
  all_goals first | rfl | simp

@[simp] theorem traceLeft_mem (n launch : Nat) (s : State) : (traceLeft n launch s).mem = s.mem := by unfold traceLeft; split <;> simp

@[simp] theorem stopOne_mem (k : GKey) (why : Nat) (s : State) : (stopOne k why s).mem = s.mem := by
  unfold stopOne
  repeat (any_goals split)
  all_goals simp

@[simp] theorem stopGroup_mem (k : GKey) (why : Nat) (s : State) : (stopGroup k why s).mem = s.mem := by
  unfold stopGroup
  dsimp only
  repeat (any_goals split)
  all_goals first | simp | (rw [foldl_mem _ fun s x => by split <;> simp]; simp)

@[simp] theorem hankEcc_mem (part : Nat) (l : Loc) (s : State) : (hankEcc part l s).mem = s.mem := by simp [hankEcc]

@[simp] theorem materialise_mem (part : Nat) (n : BitVec 16) (granule gen : Nat) (s : State) : (materialise part n granule gen s).mem = s.mem := by
  unfold materialise
  split
  · rfl
  · exact foldl_mem _ (fun s e => hankEcc_mem part e s) _ s

@[simp] theorem reserveCell_mem (n : BitVec 16) (granule : Nat) (s : State) : (reserveCell n granule s).mem = s.mem := by
  unfold reserveCell
  split <;> rfl

@[simp] theorem wake_mem (l : Loc) (n : Nat) (s : State) : (wake l n s).mem = s.mem := rfl

@[simp] theorem tlbFill_mem (es : List TlbEntry) (s : State) : (tlbFill es s).mem = s.mem := by unfold tlbFill; split <;> simp

@[simp] theorem toBack_mem (k : GKey) (s : State) : (toBack k s).mem = s.mem := by simp [toBack]

@[simp] theorem toActive_mem (k : GKey) (s : State) : (toActive k s).mem = s.mem := by simp [toActive]

@[simp] theorem toFront_mem (k : GKey) (s : State) : (toFront k s).mem = s.mem := by simp [toFront]

@[simp] theorem fillPlaces_mem (s : State) : (fillPlaces s).mem = s.mem := foldl_mem _ (fun s g => by repeat (any_goals split); all_goals simp) _ _

@[simp] theorem yieldPlace_mem (s : State) : (yieldPlace s).mem = s.mem := by unfold yieldPlace; split <;> simp

@[simp] theorem leavePlace_mem (s : State) : (leavePlace s).mem = s.mem := by unfold leavePlace; dsimp only; split <;> simp

@[simp] theorem suspend_mem (k : GKey) (s : State) : (suspend k s).mem = s.mem := by simp [suspend]

@[simp] theorem unsuspend_mem (k : GKey) (s : State) : (unsuspend k s).mem = s.mem := by
  unfold unsuspend
  repeat (any_goals split)
  all_goals first | rfl | simp

@[simp] theorem raiseVector_mem (fn : Fn) (v : Nat) (s : State) : (raiseVector fn v s).mem = s.mem := by simp [raiseVector]

@[simp] theorem updPage_mem (launch page : Nat) (f : Page → Page) (s : State) : (updPage launch page f s).mem = s.mem := by simp [updPage]

@[simp] theorem freeSlot_mem (c n : Nat) (s : State) : (freeSlot c n s).mem = s.mem := by
  unfold freeSlot
  dsimp only
  repeat (any_goals split)
  all_goals rfl

@[simp] theorem zeroSlot_mem (c n : Nat) (s : State) : (zeroSlot c n s).mem = s.mem := rfl

@[simp] theorem uncorrAt_mem (t : Team) (s : State) : (uncorrAt t s).mem = s.mem := by unfold uncorrAt; split <;> simp

@[simp] theorem uncorrStep_mem (s : State) : (uncorrStep s).mem = s.mem := by simp [uncorrStep]

@[simp] theorem leaveTag_mem (n : BitVec 16) (s : State) : (leaveTag n s).mem = s.mem := rfl

@[simp] theorem joinTag_mem (n : BitVec 16) (s : State) : (joinTag n s).mem = s.mem := rfl

@[simp] theorem finishPacket_mem (id : Nat) (detail : BitVec 16) (s : State) : (finishPacket id detail s).mem = s.mem := by
  unfold finishPacket
  repeat (any_goals split)
  all_goals simp

@[simp] theorem endTrees_mem (launch : Nat) (s : State) : (endTrees launch s).mem = s.mem := rfl

@[simp] theorem gridDone_mem (launch : Nat) (s : State) : (gridDone launch s).mem = s.mem := by
  unfold gridDone
  repeat (any_goals split)
  all_goals simp

@[simp] theorem endWaits_mem (launch page : Nat) (s : State) : (endWaits launch page s).mem = s.mem := by simp [endWaits, foldl_mem]

@[simp] theorem pageEnds_mem (launch page : Nat) (failed : Bool) (s : State) : (pageEnds launch page failed s).mem = s.mem := by simp [pageEnds]

@[simp] theorem dropGroups_mem (k : TKey) (s : State) : (dropGroups k s).mem = s.mem := by
  unfold dropGroups
  simp only [updGroups_mem]
  exact foldl_mem _ (fun s g => leaveTag_mem _ _) _ _

@[simp] theorem releaseTeam_mem (k : TKey) (failed : Bool) (s : State) : (releaseTeam k failed s).mem = s.mem := by
  unfold releaseTeam
  repeat (any_goals split)
  all_goals simp

@[simp] theorem dropCreels_mem (launch : Nat) (s : State) : (dropCreels launch s).mem = s.mem := by unfold dropCreels; split <;> rfl

@[simp] theorem endedRelease_mem (k : TKey) (s : State) : (endedRelease k s).mem = s.mem := by
  unfold endedRelease
  repeat (any_goals split)
  all_goals simp

@[simp] theorem finishTeam_mem (k : TKey) (s : State) : (finishTeam k s).mem = s.mem := by
  unfold finishTeam
  repeat (any_goals split)
  all_goals simp

@[simp] theorem endHalts_mem (k : GKey) (s : State) : (endHalts k s).mem = s.mem := rfl

@[simp] theorem retireGroup_mem (k : GKey) (s : State) : (retireGroup k s).mem = s.mem := by
  unfold retireGroup
  dsimp only
  repeat (any_goals split)
  all_goals first | rfl | simp

@[simp] theorem endTeam_mem (cause : BitVec 8) (tval epc : DWord) (unf : Word) (replay : Bool) (s : State) : (endTeam cause tval epc unf replay s).mem = s.mem := by unfold endTeam; dsimp only; split <;> simp

@[simp] theorem stall_mem (r : Reason) (s : State) : (stall r s).mem = s.mem := rfl

@[simp] theorem takeTrap_mem (cause : BitVec 8) (tval epc : DWord) (unf : Word) (replay : Bool) (s : State) : (takeTrap cause tval epc unf replay s).mem = s.mem := by
  unfold takeTrap
  dsimp only
  repeat (any_goals split)
  all_goals first | rfl | simp

@[simp] theorem decodeTrap_mem (cause : BitVec 8) (tval epc : DWord) (unf : Word) (replay : Bool) (s : State) : (decodeTrap cause tval epc unf replay s).mem = s.mem := by simp [decodeTrap]

@[simp] theorem trapHere_mem (cause : BitVec 8) (tval : DWord) (unf : Word) (replay : Bool) (s : State) : (trapHere cause tval unf replay s).mem = s.mem := by simp [trapHere]

@[simp] theorem afterRetire_mem (s : State) : (afterRetire s).mem = s.mem := by
  unfold afterRetire
  repeat (any_goals split)
  all_goals simp

@[simp] theorem retireTo_mem (npc : DWord) (s : State) : (retireTo npc s).mem = s.mem := by simp [retireTo]

@[simp] theorem retire_mem (s : State) : (retire s).mem = s.mem := by simp [retire]

@[simp] theorem retireWith_mem (f : Group → Group) (s : State) : (retireWith f s).mem = s.mem := by simp [retireWith]

@[simp] theorem takeEcc_mem (e : EccDue) (s : State) : (takeEcc e s).mem = s.mem := by simp [takeEcc]

@[simp] theorem reattempt_mem (s : State) : (reattempt s).mem = s.mem := by simp [reattempt]

@[simp] theorem noteProgress_mem (launch : Nat) (s : State) : (noteProgress launch s).mem = s.mem := by simp [noteProgress]

@[simp] theorem unmet_mem (r : Reason) (s : State) : (unmet r s).mem = s.mem := by unfold unmet; split <;> simp

@[simp] theorem waitOn_mem (w : Wait) (s : State) : (waitOn w s).mem = s.mem := rfl

@[simp] theorem addOp_mem (kind : OpKind) (acq rel : Bool) (host : Option HostFails) (comm : Bool) (s : State) :
    (addOp kind acq rel host comm s).mem = s.mem := rfl

@[simp] theorem copyWake_mem (k : GKey) (s : State) : (copyWake k s).mem = s.mem := by
  unfold copyWake asGroup
  repeat (any_goals split)
  all_goals simp

@[simp] theorem endOp_mem (o : Op) (c : CntClass) (s : State) : (endOp o c s).mem = s.mem := by
  unfold endOp
  dsimp only
  split <;> simp

@[simp] theorem noteHits_mem (rd wr : Bool) (len : Nat) (accs : List (Nat × DWord)) (s : State) : (noteHits rd wr len accs s).mem = s.mem :=
  foldl_mem _ (fun s x => by dsimp only; split <;> simp) _ _

theorem noteDone_mem (s t : State) : (noteDone s t).mem = t.mem := by
  unfold noteDone
  split <;> simp

@[simp] theorem openReg_mem (e : Loc) (s : State) : (openReg e s).mem = s.mem := by unfold openReg; split <;> simp

@[simp] theorem meetRegs_mem (i : Checks) (s : State) : (meetRegs i s).mem = s.mem := foldl_mem _ (fun s e => by simp) _ _

/-- An instruction leaves memory as it is where its body does, whether it is executed, stalls or traps. -/
theorem issue_mem {i : Instr} {s : State} {body : State → State} (h : ∀ u, (body u).mem = u.mem) : (issue i s body).mem = s.mem := by
  unfold issue issueChecked
  repeat (any_goals split)
  all_goals simp [h]

theorem acquired_mem {s : State} {body : State → State} (h : (body s).mem = s.mem) : (acquired s body).mem = s.mem := by
  unfold acquired
  split <;> simp [h]

theorem awaitOwn_mem {ks : List CommKind} {s : State} {body : State → State} (h : (body s).mem = s.mem) : (awaitOwn ks s body).mem = s.mem := by
  unfold awaitOwn
  split <;> simp [h]

theorem awaitS_mem {n : Nat} {s : State} {body : State → State} (h : (body s).mem = s.mem) : (awaitS n s body).mem = s.mem := by
  unfold awaitS
  split <;> simp [h]

theorem withRoom_mem {c : CntClass} {s : State} {body : State → State} (h : (body s).mem = s.mem) : (withRoom c s body).mem = s.mem := by
  unfold withRoom
  repeat (any_goals split)
  all_goals simp [h]

theorem eccFirst_mem {s : State} {p : EccDue → Bool} {body : State → State} (h : (body s).mem = s.mem) : (eccFirst p s body).mem = s.mem := by
  unfold eccFirst
  split <;> simp [h]

theorem atPoint_mem {ok : Bool} {s : State} {body : State → State} (h : (body s).mem = s.mem) : (atPoint ok s body).mem = s.mem := by
  unfold atPoint
  repeat (any_goals split)
  all_goals simp [noteDone_mem, h]

theorem syncOp_mem {s : State} {body : State → State} (h : (body s).mem = s.mem) : (syncOp s body).mem = s.mem := by
  unfold syncOp
  split
  · exact atPoint_mem h
  · exact h

theorem commOp_mem {s : State} {body : State → State} (h : (body s).mem = s.mem) : (commOp s body).mem = s.mem := by
  unfold commOp
  split
  · exact atPoint_mem h
  · exact h

end Sys2Proof.Machine
end

