-- ==== Sys2Proof/Laws/Map.lean ====
section
/-! SUPPORT. The laws of a store of numbered cells: what a read gives after a write, and that every operation keeps the canonical
form. -/

namespace Sys2Proof.Machine

theorem mget_mdrop {w : Nat} (m : SMap w) (k j : Nat) : mget (mdrop m k) j = if j = k then 0 else mget m j := by
  induction m with
  | nil => simp [mdrop, mget]
  | cons p r ih =>
    obtain ⟨a, v⟩ := p
    by_cases ha : a = k
    · subst ha
      by_cases hj : j = a
      · subst hj; simpa [mdrop] using ih
      · simp [mdrop, mget, ih, hj, Ne.symm hj]
    · by_cases hj : a = j
      · subst hj; simp [mdrop, mget, ha]
      · simp [mdrop, mget, ha, hj, ih]

theorem mget_minsert_other {w : Nat} (m : SMap w) (k j : Nat) (x : BitVec w) (h : j ≠ k) : mget (minsert m k x) j = mget m j := by
  induction m with
  | nil => simp [minsert, mget, Ne.symm h]
  | cons p r ih =>
    obtain ⟨a, v⟩ := p
    by_cases hk : k < a
    · simp [minsert, mget, hk, Ne.symm h]
    · simp [minsert, mget, hk, ih]

theorem mget_minsert_mdrop {w : Nat} (m : SMap w) (k : Nat) (x : BitVec w) : mget (minsert (mdrop m k) k x) k = x := by
  induction m with
  | nil => simp [mdrop, minsert, mget]
  | cons p r ih =>
    obtain ⟨a, v⟩ := p
    by_cases ha : a = k
    · simpa [mdrop, ha] using ih
    · by_cases hk : k < a
      · simp [mdrop, minsert, mget, ha, hk]
      · simp [mdrop, minsert, mget, ha, hk, ih]

/-- A read after a write: the value written at its cell, the old one at every other. -/
theorem mget_mset {w : Nat} (m : SMap w) (k j : Nat) (x : BitVec w) : mget (mset m k x) j = if j = k then x else mget m j := by
  unfold mset
  by_cases hx : x = 0
  · simp [hx, mget_mdrop]
  · rw [if_neg hx]
    by_cases hj : j = k
    · subst hj; simp [mget_minsert_mdrop]
    · simp [hj, mget_minsert_other, mget_mdrop]

@[simp] theorem mget_mset_same {w : Nat} (m : SMap w) (k : Nat) (x : BitVec w) : mget (mset m k x) k = x := by simp [mget_mset]

@[simp] theorem mget_mset_ne {w : Nat} (m : SMap w) (k j : Nat) (x : BitVec w) (h : j ≠ k) : mget (mset m k x) j = mget m j := by
  simp [mget_mset, h]

theorem mem_mdrop {w : Nat} {m : SMap w} {k : Nat} {p : Nat × BitVec w} (h : p ∈ mdrop m k) : p ∈ m ∧ p.1 ≠ k := by
  induction m with
  | nil => simp [mdrop] at h
  | cons q r ih =>
    obtain ⟨a, v⟩ := q
    by_cases ha : a = k
    · obtain ⟨h1, h2⟩ := ih (by simpa [mdrop, ha] using h)
      exact ⟨List.mem_cons_of_mem _ h1, h2⟩
    · rcases (by simpa [mdrop, ha] using h : p = (a, v) ∨ p ∈ mdrop r k) with rfl | h
      · exact ⟨List.mem_cons_self, ha⟩
      · exact ⟨List.mem_cons_of_mem _ (ih h).1, (ih h).2⟩

theorem mem_minsert {w : Nat} {m : SMap w} {k : Nat} {x : BitVec w} {p : Nat × BitVec w} (h : p ∈ minsert m k x) :
    p = (k, x) ∨ p ∈ m := by
  induction m with
  | nil => exact .inl (by simpa [minsert] using h)
  | cons q r ih =>
    obtain ⟨a, v⟩ := q
    by_cases hk : k < a
    · simpa [minsert, hk] using h
    · rcases (by simpa [minsert, hk] using h : p = (a, v) ∨ p ∈ minsert r k x) with rfl | h
      · exact .inr List.mem_cons_self
      · exact (ih h).imp_right (List.mem_cons_of_mem _)

theorem mwf_mdrop {w : Nat} {m : SMap w} (k : Nat) (h : mwf m) : mwf (mdrop m k) := by
  refine ⟨?_, fun p hp => h.2 p (mem_mdrop hp).1⟩
  have hs := h.1
  clear h
  induction m with
  | nil => exact List.Pairwise.nil
  | cons q r ih =>
    obtain ⟨a, v⟩ := q
    obtain ⟨h1, h2⟩ := List.pairwise_cons.1 hs
    by_cases ha : a = k
    · simpa [mdrop, ha] using ih h2
    · simp only [mdrop, ha, if_false]
      exact List.pairwise_cons.2 ⟨fun p hp => h1 p (mem_mdrop hp).1, ih h2⟩

theorem sorted_minsert {w : Nat} {m : SMap w} (k : Nat) (x : BitVec w) (hs : m.Pairwise fun p q => p.1 < q.1) (hk : ∀ p ∈ m, p.1 ≠ k) :
    (minsert m k x).Pairwise fun p q => p.1 < q.1 := by
  induction m with
  | nil => simp [minsert]
  | cons q r ih =>
    obtain ⟨a, v⟩ := q
    obtain ⟨h1, h2⟩ := List.pairwise_cons.1 hs
    by_cases hl : k < a
    · simp only [minsert, hl, if_true]
      refine List.pairwise_cons.2 ⟨fun p hp => ?_, hs⟩
      rcases List.mem_cons.1 hp with rfl | hp
      · exact hl
      · exact Nat.lt_trans hl (h1 p hp)
    · simp only [minsert, hl, if_false]
      refine List.pairwise_cons.2 ⟨fun p hp => ?_, ih h2 fun p hp => hk p (List.mem_cons_of_mem _ hp)⟩
      rcases mem_minsert hp with rfl | hp
      · have := hk (a, v) List.mem_cons_self
        simp only at this ⊢
        omega
      · exact h1 p hp

/-- A write keeps the canonical form. -/
theorem mwf_mset {w : Nat} {m : SMap w} (k : Nat) (x : BitVec w) (h : mwf m) : mwf (mset m k x) := by
  have hd := mwf_mdrop k h
  unfold mset
  by_cases hx : x = 0
  · simpa [hx] using hd
  · simp only [hx, if_false]
    refine ⟨sorted_minsert k x hd.1 fun p hp => (mem_mdrop hp).2, fun p hp => ?_⟩
    rcases mem_minsert hp with rfl | hp
    · exact hx
    · exact hd.2 p hp

theorem mwf_msets {w : Nat} (xs : List (BitVec w)) (m : SMap w) (k : Nat) (h : mwf m) : mwf (msets m k xs) := by
  induction xs generalizing m k with
  | nil => exact h
  | cons x xs ih => exact ih _ _ (mwf_mset k x h)

/-- Leaving cells out keeps the canonical form. -/
theorem mwf_filter {w : Nat} {m : SMap w} (p : Nat × BitVec w → Bool) (h : mwf m) : mwf (m.filter p) :=
  ⟨h.1.filter _, fun q hq => h.2 q (List.mem_filter.1 hq).1⟩

theorem mwf_mclear {w : Nat} {m : SMap w} (k n : Nat) (h : mwf m) : mwf (mclear m k n) := mwf_filter _ h

theorem mwf_nil {w : Nat} : mwf ([] : SMap w) := ⟨List.Pairwise.nil, fun _ h => nomatch h⟩

/-- A cell that is not listed holds 0. -/
theorem mget_of_not_mem {w : Nat} {m : SMap w} {k : Nat} (h : ∀ p ∈ m, p.1 ≠ k) : mget m k = 0 := by
  induction m with
  | nil => rfl
  | cons q r ih =>
    have := h q List.mem_cons_self
    simp [mget, this, ih fun p hp => h p (List.mem_cons_of_mem _ hp)]

end Sys2Proof.Machine
end

