-- ==== Sys2Proof/Laws/Memory.lean ====
section
/-! SUPPORT. The laws of memory: what a read gives after a write of bytes, and that every operation that writes memory keeps its canonical form. -/

namespace Sys2Proof.Machine

theorem wrByte_mem (l : Loc) (b : Byte) (s : State) : (wrByte l b s).mem = if l.space = .phys then mset s.mem l.off b else s.mem := by
  unfold wrByte
  split <;> simp_all

theorem wrByte_memWf {s : State} (l : Loc) (b : Byte) (h : s.memWf) : (wrByte l b s).memWf := by
  rw [State.memWf, wrByte_mem]
  split
  · exact mwf_mset _ _ h
  · exact h

theorem wrBytesGo_memWf (bs : List Byte) {s : State} (l : Loc) (h : s.memWf) : (wrBytesGo l bs s).memWf := by
  induction bs generalizing s l with
  | nil => exact h
  | cons b bs ih => exact ih _ (wrByte_memWf l b h)

/-- A write of memory by any agent keeps the canonical form. -/
theorem wrBytes_memWf {s : State} (l : Loc) (bs : List Byte) (h : s.memWf) : (wrBytes l bs s).memWf := by
  rw [State.memWf, wrBytes, wake_mem]
  exact wrBytesGo_memWf bs l h

theorem wrBytesGo_mget (bs : List Byte) (s : State) (l : Loc) (k : Nat) (hl : l.space = .phys) :
    mget (wrBytesGo l bs s).mem k = if l.off ≤ k ∧ k < l.off + bs.length then bs.getD (k - l.off) 0 else mget s.mem k := by
  induction bs generalizing s l with
  | nil => simp only [wrBytesGo, List.length_nil]; rw [if_neg (by omega)]
  | cons b bs ih =>
    have ho : (l.add 1).off = l.off + 1 := rfl
    rw [wrBytesGo, ih _ (l.add 1) (by simpa [Loc.add] using hl), wrByte_mem, if_pos hl, mget_mset, List.length_cons]
    by_cases hk : k = l.off
    · rw [if_neg (by omega), if_pos hk, if_pos (by omega), hk]
      simp
    · by_cases hin : (l.add 1).off ≤ k ∧ k < (l.add 1).off + bs.length
      · rw [if_pos hin, if_pos (by omega), show k - l.off = (k - (l.add 1).off) + 1 by omega]
        simp
      · rw [if_neg hin, if_neg hk, if_neg (by omega)]

/-- What memory reads after a write of bytes to it: the bytes written where they lie, and every other byte as it was. -/
theorem wrBytes_mget (s : State) (l : Loc) (bs : List Byte) (k : Nat) (hl : l.space = .phys) :
    mget (wrBytes l bs s).mem k = if l.covers bs.length k then bs.getD (k - l.off) 0 else mget s.mem k := by
  rw [wrBytes, wake_mem, wrBytesGo_mget _ _ _ _ hl]
  simp [Loc.covers, hl]

/-- A write to storage that is no memory of a home leaves memory as it is. -/
theorem wrBytes_mem_other (bs : List Byte) (s : State) (l : Loc) (hl : l.space ≠ .phys) : (wrBytes l bs s).mem = s.mem := by
  rw [wrBytes, wake_mem]
  induction bs generalizing s l with
  | nil => rfl
  | cons b bs ih => rw [wrBytesGo, ih _ _ (by simpa [Loc.add] using hl), wrByte_mem, if_neg hl]

theorem foldl_memWf {α : Type} (f : State → α → State) (h : ∀ s x, s.memWf → (f s x).memWf) (xs : List α) {s : State} (hs : s.memWf) :
    (xs.foldl f s).memWf := by
  induction xs generalizing s with
  | nil => exact hs
  | cons x xs ih => exact ih (h _ _ hs)

/-- The loss of the bytes of a destroyed key keeps the canonical form. -/
theorem loseLines_memWf {s : State} (gen : Nat) (h : s.memWf) : (loseLines gen s).memWf :=
  foldl_memWf _ (fun _ _ hs => mwf_mset _ _ hs) _ h

/-- The loss of power keeps the canonical form. -/
theorem cold_memWf {s : State} (h : s.memWf) : (cold s).memWf := mwf_filter _ h

/-- A cached leaf that agrees with the tables gives what they give, whether the access hits it or walks (R287). -/
theorem stage1_cached {s : State} {part va : Nat} {asid : BitVec 16} {e : TlbEntry} {a : ASpace}
    (he : (s.tlb.find? fun e => !e.stage2 && e.part = part && e.asid = asid && e.page = va / 4096) = some e)
    (ha : (s.aspaces.find? fun a => a.part = part ∧ a.asid = asid) = some a)
    (hw : s1Walk s part va 4 a.home a.gpa = .ok (e.out * 4096 + va % 4096) e.r e.w e.ct e.dt) :
    stage1 s part asid va = .ok (e.out * 4096 + va % 4096) e.r e.w e.ct e.dt := by
  simp only [stage1, he, ha, hw, ite_self]

end Sys2Proof.Machine
end

