-- ==== Sys2Proof/Laws/Ops.lean ====
section
/-! SUPPORT. What the shared operations of the instructions can do: issue, retirement, the writes of registers and the operand forms. -/

namespace Sys2Proof.Machine

theorem advance_quiet {g : Group} (npc : DWord) (hw : g.wait = .none) (hq : g.Quiet) : advance npc g = g.goTo npc := by
  obtain ⟨-, -, hh, hp, hr, hn⟩ := hq
  simp only [advance, finishHeld, hh, Group.goTo]
  cases g
  simp_all

/-- An instruction that names no register with an uncorrectable error leaves the registers as they are (R257). -/
theorem meetRegs_none {i : Checks} {s : State} (h : regErrs i s = []) : meetRegs i s = s := by
  have he : s.ecc.filter (fun _ => true) = s.ecc := List.filter_eq_self.mpr (by simp)
  simp [meetRegs, h, he]

/-- An instruction that the group executes normally does what its body does. -/
theorem issue_ready {i : Instr} {s : State} (h : Ready i s) (body : State → State) : issue i s body = body s := by
  obtain ⟨h1, h2, ⟨-, -, -, -, h3, -⟩, h4, h5, h6, h7⟩ := h
  have hr : replayEmpty (checksOf i) s.grp = false := by simp [replayEmpty, h3]
  simp [issue, issueChecked, h1, h2, h4, h5, Wait.onEvent, Wait.begun, hr, h6, meetRegs_none h7]

theorem afterRetire_quiet {s : State} (h : s.grp.Quiet) : afterRetire s = s := by
  obtain ⟨h1, h2, -⟩ := h
  simp [afterRetire, h1, h2]

theorem retireTo_quiet {s : State} (npc : DWord) (hw : s.grp.wait = .none) (hq : s.grp.Quiet) :
    retireTo npc s = { s with grp := s.grp.goTo npc } := by
  simp only [retireTo, onGrp, advance_quiet npc hw hq]
  exact afterRetire_quiet (by simpa [Group.goTo, Group.Quiet] using hq)

theorem retire_quiet {s : State} (hw : s.grp.wait = .none) (hq : s.grp.Quiet) :
    retire s = { s with grp := s.grp.goTo (s.grp.pc + 4) } := retireTo_quiet _ hw hq

/-- An attempt that ends without effect counts in CLK and leaves PC (R328). -/
theorem reattempt_quiet {s : State} (hw : s.grp.wait = .none) (hq : s.grp.Quiet) : reattempt s = { s with grp := s.grp.goTo s.grp.pc } :=
  retireTo_quiet _ hw hq

/-- With none of the group's own operations waiting for the commit of the present quantum, what waits for them goes on (R253, R328). -/
theorem awaitOwn_none {ks : List CommKind} {s : State} (h : NoComm ks s) (body : State → State) : awaitOwn ks s body = body s := by
  simp [awaitOwn, show (counts s && ks.any s.grp.comm) = false from h]

/-- With one that does, the attempt ends. -/
theorem awaitOwn_some {ks : List CommKind} {s : State} {k : CommKind} (hd : counts s = true) (hk : k ∈ ks) (hc : s.grp.comm k = true) (body : State → State) :
    awaitOwn ks s body = reattempt s := by
  simp only [awaitOwn, hd, Bool.true_and, if_pos (List.any_eq_true.mpr ⟨k, hk, hc⟩)]

/-- The same for the count that S has to come down to. -/
theorem awaitS_none {n : Nat} {s : State} (h : CommAtMost n s) (body : State → State) : awaitS n s body = body s := by
  unfold awaitS
  split
  · rename_i hc
    simp only [Bool.and_eq_true, decide_eq_true_eq] at hc
    exact absurd (h hc.1) (by omega)
  · rfl

theorem awaitS_some {n : Nat} {s : State} (hd : counts s = true) (h : n < s.grp.commS) (body : State → State) : awaitS n s body = reattempt s := by
  simp [awaitS, hd, h]

/-- An instruction whose class counter has room issues (R33). -/
theorem withRoom_issues {c : CntClass} {s : State} (hc : s.grp.cnt c ≠ 63) (h : CommAtMost 62 s) (body : State → State) : withRoom c s body = body s := by
  have hn : (c = .store && s.grp.held != some .store && counts s && decide (63 ≤ s.grp.commS)) = false := by
    cases hd : counts s with
    | false => simp
    | true =>
      have := h hd
      have : ¬ 63 ≤ s.grp.commS := by omega
      simp [this]
  simp [withRoom, hn, cntFull, hc]

/-- A change of the group's registers leaves it at the next instruction. -/
theorem retireWith_quiet {s : State} {g : Group} (f : Group → Group) (hf : f s.grp = g) (hw : g.wait = .none) (hq : g.Quiet)
    (hp : g.pc = s.grp.pc) : retireWith f s = { s with grp := g.goTo (s.grp.pc + 4) } := by
  have h := retire_quiet (s := onGrp f s) (by simpa [onGrp, hf] using hw) (by simpa [onGrp, hf] using hq)
  simpa [retireWith, onGrp, hf, hp] using h

/-- An instruction that only changes registers completes with the change. -/
theorem regInstr_completes {i : Instr} {s : State} {f : Group → Group} {g : Group} (h : Ready i s) (hx : exec i s = regInstr i f s)
    (hf : f s.grp = g) (hw : g.wait = .none) (hq : g.Quiet) (hp : g.pc = s.grp.pc) : Completes i s g := by
  rw [Completes, hx, regInstr, issue_ready h, retireWith_quiet f hf hw hq hp]

/-- A trap where the group has a handler changes the group alone (R46). -/
theorem takeTrap_enters {s : State} (cause : BitVec 8) (tval epc : DWord) (unf : Word) (replay : Bool) (h : HasHandler s.grp) (hs : s.grp.stepping = false) :
    takeTrap cause tval epc unf replay s = { s with grp := enterHandler cause tval epc unf replay s.grp } := by
  obtain ⟨h1, h2⟩ := h
  simp only [takeTrap, h2, Bool.or_false, decide_eq_true_eq, if_neg h1]
  simp [onGrp, enterHandler, hs]

/-- What follows an outcome is done where it is a next state, and there alone. -/
theorem thenDo_next {f : State → State} {r : Host.Outcome State Fault Refusal} {u : State} : thenDo f r = .next u ↔ ∃ t, r = .next t ∧ f t = u := by
  cases r <;> simp [thenDo]

/-- A group that may issue, with nothing left of an earlier instruction and no trap or breakpoint before it, runs the instruction at PC. -/
theorem turnOf_runs {s : State} (hm : mayIssue s s.grp = true) (hl : s.grp.live ≠ 0) (hh : s.grp.hits = none) (hp : s.grp.park = none)
    (hq : s.grp.posted = none) (hb : bpMatches s = false) : turnOf s = .runs := by
  simp [turnOf, mayGo, hm, hh, hp, hq, bpStops, hb]
  exact fun h => absurd h hl

/-- An access of the host to the debug window acts where the device is not dark, and there alone (R379, R386). -/
theorem debugWrite_eq (f : State → State) (s : State) : debugWrite f s = if dark s = true then s else f s := rfl

/-- A device that is on makes the head of its agenda, or its default move, and what follows it at once. -/
theorem step_on {s : State} (h : s.off = false) : step s = thenDo settle (match s.agenda with
    | m :: rest => runMove m { s with agenda := rest }
    | [] => moveDefault s) := by
  simp only [step, moveNext, h, Bool.false_eq_true, if_false] <;> rfl

theorem setS_eq (n : Nat) (v : DWord) (g : Group) : setS n v g = { g with sregs := if n = 127 then g.sregs else mset g.sregs n v } := by
  unfold setS
  split <;> simp_all

/-- Reading a scalar register after a write (R23). -/
theorem getS_setS (n j : Nat) (v : DWord) (g : Group) : getS (setS n v g) j = if j = 127 then 0 else if j = n then v else getS g j := by
  rw [setS_eq]
  by_cases hj : j = 127
  · simp [getS, hj]
  · by_cases hn : n = 127
    · subst hn; simp [getS, hj]
    · simp [getS, hj, hn, mget_mset]

/-- Reading a mask after a write of k1-k7 (R24). -/
theorem getK_setK (n j : Nat) (v : Word) (g : Group) (hn : n ≠ 0) : getK (setK n v g) j = if j = n then v else getK g j := by
  by_cases hj : j = 0
  · subst hj; simp [getK, setK, Ne.symm hn]
  · simp [getK, setK, hj, mget_mset]

/-- An instruction that writes one scalar register. -/
theorem writesScalar {i : Instr} {s : State} {d : BitVec 7} {f : Group → DWord} (h : Ready i s)
    (hx : exec i s = regInstr i (fun g => setS d.toNat (f g) g) s) : WritesScalar i s d (f s.grp) := by
  refine ⟨_, regInstr_completes h hx (setS_eq _ _ _) h.2.1 h.2.2.1 rfl, fun n => ?_⟩
  rw [← setS_eq]
  exact getS_setS _ _ _ _

/-- An instruction that sets CC. -/
theorem writesFlags {i : Instr} {s : State} {f : Group → CC} (h : Ready i s)
    (hx : exec i s = regInstr i (fun g => setCC (f g) g) s) : WritesFlags i s (f s.grp) :=
  regInstr_completes h hx rfl h.2.1 h.2.2.1 rfl

/-- An instruction that writes one mask of k1-k7. -/
theorem writesMask {i : Instr} {s : State} {d : BitVec 3} {f : Group → Word} (h : Ready i s) (hd : d.toNat ≠ 0)
    (hx : exec i s = regInstr i (fun g => setK d.toNat (f g) g) s) : WritesMask i s d (f s.grp) :=
  ⟨_, regInstr_completes h hx rfl h.2.1 h.2.2.1 rfl, fun _ => getK_setK _ _ _ _ hd⟩

/-- The elements that a list of writes leaves in a store. -/
theorem mget_foldl_mset {α : Type} {w : Nat} (ts : List α) (key : α → Nat) (f : α → BitVec w) (m : SMap w) (k : Nat) :
    mget (ts.foldl (fun m t => mset m (key t) (f t)) m) k =
      match ts.reverse.find? (fun t => key t = k) with | some t => f t | none => mget m k := by
  induction ts generalizing m with
  | nil => rfl
  | cons t ts ih =>
    simp only [List.foldl_cons, List.reverse_cons, List.find?_append, ih]
    cases hfind : ts.reverse.find? (fun t => key t = k) with
    | some u => simp
    | none =>
      by_cases hk : key t = k
      · simp [hk]
      · simp [hk, Ne.symm hk]

theorem mem_threads {m : Word} {t : Nat} : t ∈ threads m ↔ t < 32 ∧ tbit m t = true := by
  simp [threads, List.mem_filter]

end Sys2Proof.Machine
end

