-- ==== Sys2Proof/Laws/PerInstr.lean ====
section
/-! SUPPORT. Decoding what the encoder wrote gives the instruction back, one lemma for each instruction (R51-R60). -/

namespace Sys2Proof.Laws.RoundTrip

/-- The decoder reads the word of an instruction as that instruction. -/
def Statement (i : Instr) : Prop := ∀ w, i.isWord = true → encode i = some w → decode w.toNat = some i

theorem of_decode {n : Nat} {i : Instr} (hl : n < 2 ^ 32) (hd : decode n = some i) (hn : encodeNat i = some n) : Statement i := by
  intro w _ h
  simp only [encode, hn, Option.map_some, Option.some.injEq] at h
  subst h
  rw [BitVec.toNat_ofNat, Nat.mod_eq_of_lt hl]
  exact hd

theorem of_event {i : Instr} (h : i.isWord = false) : Statement i := fun _ hw _ => by simp [h] at hw


theorem major0 {n : Nat} (h : fld 26 6 n = 0) : decode n = decodeSys n := by
  unfold decode decodeMain
  rw [h]
  rfl

theorem major1 {n : Nat} (h : fld 26 6 n = 1) : decode n = decodeSalu n := by
  unfold decode decodeMain
  rw [h]
  rfl

theorem major2 {n : Nat} (h : fld 26 6 n = 2) : decode n = decodeSaddi n := by
  unfold decode decodeMain
  rw [h]
  rfl

theorem major3 {n : Nat} (h : fld 26 6 n = 3) : decode n = decodeSandi n := by
  unfold decode decodeMain
  rw [h]
  rfl

theorem major4 {n : Nat} (h : fld 26 6 n = 4) : decode n = decodeSori n := by
  unfold decode decodeMain
  rw [h]
  rfl

theorem major5 {n : Nat} (h : fld 26 6 n = 5) : decode n = decodeSxori n := by
  unfold decode decodeMain
  rw [h]
  rfl

theorem major6 {n : Nat} (h : fld 26 6 n = 6) : decode n = decodeSshi n := by
  unfold decode decodeMain
  rw [h]
  rfl

theorem major7 {n : Nat} (h : fld 26 6 n = 7) : decode n = decodeScmpi n := by
  unfold decode decodeMain
  rw [h]
  rfl

theorem major8 {n : Nat} (h : fld 26 6 n = 8) : decode n = decodeSli n := by
  unfold decode decodeMain
  rw [h]
  rfl

theorem major9 {n : Nat} (h : fld 26 6 n = 9) : decode n = decodeSld n := by
  unfold decode decodeMain
  rw [h]
  rfl

theorem major10 {n : Nat} (h : fld 26 6 n = 10) : decode n = decodeSst n := by
  unfold decode decodeMain
  rw [h]
  rfl

theorem major11 {n : Nat} (h : fld 26 6 n = 11) : decode n = decodeSmov n := by
  unfold decode decodeMain
  rw [h]
  rfl

theorem major12 {n : Nat} (h : fld 26 6 n = 12) : decode n = decodeB n := by
  unfold decode decodeMain
  rw [h]
  rfl

theorem major13 {n : Nat} (h : fld 26 6 n = 13) : decode n = decodeCall n := by
  unfold decode decodeMain
  rw [h]
  rfl

theorem major14 {n : Nat} (h : fld 26 6 n = 14) : decode n = decodeJmpr n := by
  unfold decode decodeMain
  rw [h]
  rfl

theorem major15 {n : Nat} (h : fld 26 6 n = 15) : decode n = decodeMask n := by
  unfold decode decodeMain
  rw [h]
  rfl

theorem major16 {n : Nat} (h : fld 26 6 n = 16) : decode n = decodeVia n := by
  unfold decode decodeMain
  rw [h]
  rfl

theorem major17 {n : Nat} (h : fld 26 6 n = 17) : decode n = decodeVib n := by
  unfold decode decodeMain
  rw [h]
  rfl

theorem major18 {n : Nat} (h : fld 26 6 n = 18) : decode n = decodeVbit n := by
  unfold decode decodeMain
  rw [h]
  rfl

theorem major19 {n : Nat} (h : fld 26 6 n = 19) : decode n = decodeVaddi n := by
  unfold decode decodeMain
  rw [h]
  rfl

theorem major20 {n : Nat} (h : fld 26 6 n = 20) : decode n = decodeVandi n := by
  unfold decode decodeMain
  rw [h]
  rfl

theorem major21 {n : Nat} (h : fld 26 6 n = 21) : decode n = decodeVori n := by
  unfold decode decodeMain
  rw [h]
  rfl

theorem major22 {n : Nat} (h : fld 26 6 n = 22) : decode n = decodeVxori n := by
  unfold decode decodeMain
  rw [h]
  rfl

theorem major23 {n : Nat} (h : fld 26 6 n = 23) : decode n = decodeVshi n := by
  unfold decode decodeMain
  rw [h]
  rfl

theorem major24 {n : Nat} (h : fld 26 6 n = 24) : decode n = decodeVfa n := by
  unfold decode decodeMain
  rw [h]
  rfl

theorem major25 {n : Nat} (h : fld 26 6 n = 25) : decode n = decodeVfb n := by
  unfold decode decodeMain
  rw [h]
  rfl

theorem major26 {n : Nat} (h : fld 26 6 n = 26) : decode n = decodeVdf n := by
  unfold decode decodeMain
  rw [h]
  rfl

theorem major27 {n : Nat} (h : fld 26 6 n = 27) : decode n = decodeVcvt n := by
  unfold decode decodeMain
  rw [h]
  rfl

theorem major28 {n : Nat} (h : fld 26 6 n = 28) : decode n = decodeVcmp n := by
  unfold decode decodeMain
  rw [h]
  rfl

theorem major29 {n : Nat} (h : fld 26 6 n = 29) : decode n = decodeVfcmp n := by
  unfold decode decodeMain
  rw [h]
  rfl

theorem major30 {n : Nat} (h : fld 26 6 n = 30) : decode n = decodeVxt n := by
  unfold decode decodeMain
  rw [h]
  rfl

theorem major31 {n : Nat} (h : fld 26 6 n = 31) : decode n = decodeVred n := by
  unfold decode decodeMain
  rw [h]
  rfl

theorem major32 {n : Nat} (h : fld 26 6 n = 32) : decode n = decodeVmov n := by
  unfold decode decodeMain
  rw [h]
  rfl

theorem major33 {n : Nat} (h : fld 26 6 n = 33) : decode n = decodeVld n := by
  unfold decode decodeMain
  rw [h]
  rfl

theorem major34 {n : Nat} (h : fld 26 6 n = 34) : decode n = decodeVldu n := by
  unfold decode decodeMain
  rw [h]
  rfl

theorem major35 {n : Nat} (h : fld 26 6 n = 35) : decode n = decodeVst n := by
  unfold decode decodeMain
  rw [h]
  rfl

theorem major36 {n : Nat} (h : fld 26 6 n = 36) : decode n = decodeVldx n := by
  unfold decode decodeMain
  rw [h]
  rfl

theorem major37 {n : Nat} (h : fld 26 6 n = 37) : decode n = decodeVamo n := by
  unfold decode decodeMain
  rw [h]
  rfl

theorem major38 {n : Nat} (h : fld 26 6 n = 38) : decode n = decodeVamx n := by
  unfold decode decodeMain
  rw [h]
  rfl

theorem major39 {n : Nat} (h : fld 26 6 n = 39) : decode n = decodeSamo n := by
  unfold decode decodeMain
  rw [h]
  rfl

theorem major40 {n : Nat} (h : fld 26 6 n = 40) : decode n = decodeTag n := by
  unfold decode decodeMain
  rw [h]
  rfl

theorem major41 {n : Nat} (h : fld 26 6 n = 41) : decode n = decodeCpy n := by
  unfold decode decodeMain
  rw [h]
  rfl

theorem major42 {n : Nat} (h : fld 26 6 n = 42) : decode n = decodeQue n := by
  unfold decode decodeMain
  rw [h]
  rfl

theorem major43 {n : Nat} (h : fld 26 6 n = 43) : decode n = decodeTen n := by
  unfold decode decodeMain
  rw [h]
  rfl

theorem major48 {n : Nat} (h : fld 26 6 n = 48) : decode n = decodeTile n := by
  unfold decode decodeMain
  rw [h]
  rfl

theorem major49 {n : Nat} (h : fld 26 6 n = 49) : decode n = decodeMma n := by
  unfold decode decodeMain
  rw [h]
  rfl

theorem major50 {n : Nat} (h : fld 26 6 n = 50) : decode n = decodeAcc n := by
  unfold decode decodeMain
  rw [h]
  rfl

theorem major56 {n : Nat} (h : fld 26 6 n = 56) : decode n = decodeReel n := by
  unfold decode decodeMain
  rw [h]
  rfl

theorem major57 {n : Nat} (h : fld 26 6 n = 57) : decode n = decodeCtxi n := by
  unfold decode decodeMain
  rw [h]
  rfl

theorem major58 {n : Nat} (h : fld 26 6 n = 58) : decode n = decodeFab n := if_pos h

theorem major59 {n : Nat} (h : fld 26 6 n = 59) : decode n = decodePage n := by
  unfold decode decodeMain
  rw [h]
  rfl

theorem major62 {n : Nat} (h : fld 26 6 n = 62) : decode n = decodeWait n := by
  unfold decode decodeMain
  rw [h]
  rfl

theorem fld_of {n hi x low lo len : Nat} (p q r : Nat) (hr : r = q * p) (hp : p = 2 ^ lo) (hq : q = 2 ^ len)
    (hn : n = hi * r + x * p + low)
    (hl : low < p) (hx : x < q) : fld lo len n = x := by
  have h : n = p * (q * hi + x) + low := by rw [hn, hr, Nat.mul_add, Nat.mul_comm p x, Nat.mul_comm hi, Nat.mul_comm q p, Nat.mul_assoc]
  have hp0 : 0 < p := by omega
  rw [fld, ← hp, ← hq, h, Nat.mul_add_div hp0, Nat.div_eq_of_lt hl, Nat.add_zero, Nat.mul_add_mod, Nat.mod_eq_of_lt hx]

theorem bits_of {n lo len : Nat} {x : BitVec len} (h : fld lo len n = x.toNat) : bits lo len n = x := BitVec.eq_of_toNat_eq h

theorem layout0 {n base : Nat} (c0 : Nat) (c1 : Nat) (c2 : Nat) (hn : n = base)
    (hb : base = c0 * 67108864 + c1 * 2097152 + c2 ∧ c0 < 64 ∧ c1 < 32 ∧ c2 < 2097152) :
    n < 4294967296 ∧
    fld 26 6 n = c0 ∧
    fld 0 21 n = c2 ∧
    fld 21 5 n = c1 := by
  obtain ⟨rfl, g0, g1, g2⟩ := hb
  subst hn
  exact ⟨by omega,
    fld_of (hi := 0) (low := c1 * 2097152 + c2) 67108864 64 4294967296 rfl rfl rfl (by omega) (by omega) (by omega),
    fld_of (hi := c0 * 32 + c1) (low := 0) 1 2097152 2097152 rfl rfl rfl (by omega) (by omega) (by omega),
    fld_of (hi := c0) (low := c2) 2097152 32 67108864 rfl rfl rfl (by omega) (by omega) (by omega)⟩

theorem layout1 {n base : Nat} (c0 : Nat) (c1 : Nat) (c2 : Nat) (x0 : BitVec 7) (hn : n = base + x0.toNat)
    (hb : base = c0 * 67108864 + c1 * 2097152 + c2 * 128 ∧ c0 < 64 ∧ c1 < 32 ∧ c2 < 16384) :
    n < 4294967296 ∧
    fld 26 6 n = c0 ∧
    fld 21 5 n = c1 ∧
    fld 7 14 n = c2 ∧
    bits 0 7 n = x0 := by
  have h0 := x0.isLt
  obtain ⟨rfl, g0, g1, g2⟩ := hb
  subst hn
  exact ⟨by omega,
    fld_of (hi := 0) (low := c1 * 2097152 + c2 * 128 + x0.toNat) 67108864 64 4294967296 rfl rfl rfl (by omega) (by omega) (by omega),
    fld_of (hi := c0) (low := c2 * 128 + x0.toNat) 2097152 32 67108864 rfl rfl rfl (by omega) (by omega) (by omega),
    fld_of (hi := c0 * 32 + c1) (low := x0.toNat) 128 16384 2097152 rfl rfl rfl (by omega) (by omega) (by omega),
    bits_of (fld_of (hi := c0 * 524288 + c1 * 16384 + c2) (low := 0) 1 128 128 rfl rfl rfl (by omega) (by omega) (by omega))⟩

theorem layout2 {n base : Nat} (c0 : Nat) (c1 : Nat) (c2 : Nat) (x0 : BitVec 14) (hn : n = base + x0.toNat)
    (hb : base = c0 * 67108864 + c1 * 2097152 + c2 * 16384 ∧ c0 < 64 ∧ c1 < 32 ∧ c2 < 128) :
    n < 4294967296 ∧
    fld 26 6 n = c0 ∧
    fld 14 7 n = c2 ∧
    fld 21 5 n = c1 ∧
    bits 0 14 n = x0 := by
  have h0 := x0.isLt
  obtain ⟨rfl, g0, g1, g2⟩ := hb
  subst hn
  exact ⟨by omega,
    fld_of (hi := 0) (low := c1 * 2097152 + c2 * 16384 + x0.toNat) 67108864 64 4294967296 rfl rfl rfl (by omega) (by omega) (by omega),
    fld_of (hi := c0 * 32 + c1) (low := x0.toNat) 16384 128 2097152 rfl rfl rfl (by omega) (by omega) (by omega),
    fld_of (hi := c0) (low := c2 * 16384 + x0.toNat) 2097152 32 67108864 rfl rfl rfl (by omega) (by omega) (by omega),
    bits_of (fld_of (hi := c0 * 4096 + c1 * 128 + c2) (low := 0) 1 16384 16384 rfl rfl rfl (by omega) (by omega) (by omega))⟩

theorem layout3 {n base : Nat} (c0 : Nat) (c1 : Nat) (c2 : Nat) (c3 : Nat) (x0 : BitVec 2) (x1 : BitVec 2) (hn : n = base + x0.toNat * 128 + x1.toNat)
    (hb : base = c0 * 67108864 + c1 * 2097152 + c2 * 512 + c3 * 4 ∧ c0 < 64 ∧ c1 < 32 ∧ c2 < 4096 ∧ c3 < 32) :
    n < 4294967296 ∧
    fld 26 6 n = c0 ∧
    fld 2 5 n = c3 ∧
    fld 21 5 n = c1 ∧
    fld 9 12 n = c2 ∧
    bits 7 2 n = x0 ∧
    bits 0 2 n = x1 := by
  have h0 := x0.isLt
  have h1 := x1.isLt
  obtain ⟨rfl, g0, g1, g2, g3⟩ := hb
  subst hn
  exact ⟨by omega,
    fld_of (hi := 0) (low := c1 * 2097152 + c2 * 512 + x0.toNat * 128 + c3 * 4 + x1.toNat) 67108864 64 4294967296 rfl rfl rfl (by omega) (by omega) (by omega),
    fld_of (hi := c0 * 524288 + c1 * 16384 + c2 * 4 + x0.toNat) (low := x1.toNat) 4 32 128 rfl rfl rfl (by omega) (by omega) (by omega),
    fld_of (hi := c0) (low := c2 * 512 + x0.toNat * 128 + c3 * 4 + x1.toNat) 2097152 32 67108864 rfl rfl rfl (by omega) (by omega) (by omega),
    fld_of (hi := c0 * 32 + c1) (low := x0.toNat * 128 + c3 * 4 + x1.toNat) 512 4096 2097152 rfl rfl rfl (by omega) (by omega) (by omega),
    bits_of (fld_of (hi := c0 * 131072 + c1 * 4096 + c2) (low := c3 * 4 + x1.toNat) 128 4 512 rfl rfl rfl (by omega) (by omega) (by omega)),
    bits_of (fld_of (hi := c0 * 16777216 + c1 * 524288 + c2 * 128 + x0.toNat * 32 + c3) (low := 0) 1 4 4 rfl rfl rfl (by omega) (by omega) (by omega))⟩

theorem layout4 {n base : Nat} (c0 : Nat) (c1 : Nat) (c2 : Nat) (c3 : Nat) (c4 : Nat) (x0 : BitVec 3) (x1 : BitVec 3) (x2 : BitVec 2) (hn : n = base + x0.toNat * 16384 + x1.toNat * 128 + x2.toNat)
    (hb : base = c0 * 67108864 + c1 * 2097152 + c2 * 131072 + c3 * 1024 + c4 * 4 ∧ c0 < 64 ∧ c1 < 32 ∧ c2 < 16 ∧ c3 < 16 ∧ c4 < 32) :
    n < 4294967296 ∧
    fld 26 6 n = c0 ∧
    fld 10 4 n = c3 ∧
    fld 17 4 n = c2 ∧
    fld 2 5 n = c4 ∧
    fld 21 5 n = c1 ∧
    bits 14 3 n = x0 ∧
    bits 7 3 n = x1 ∧
    bits 0 2 n = x2 := by
  have h0 := x0.isLt
  have h1 := x1.isLt
  have h2 := x2.isLt
  obtain ⟨rfl, g0, g1, g2, g3, g4⟩ := hb
  subst hn
  exact ⟨by omega,
    fld_of (hi := 0) (low := c1 * 2097152 + c2 * 131072 + x0.toNat * 16384 + c3 * 1024 + x1.toNat * 128 + c4 * 4 + x2.toNat) 67108864 64 4294967296 rfl rfl rfl (by omega) (by omega) (by omega),
    fld_of (hi := c0 * 4096 + c1 * 128 + c2 * 8 + x0.toNat) (low := x1.toNat * 128 + c4 * 4 + x2.toNat) 1024 16 16384 rfl rfl rfl (by omega) (by omega) (by omega),
    fld_of (hi := c0 * 32 + c1) (low := x0.toNat * 16384 + c3 * 1024 + x1.toNat * 128 + c4 * 4 + x2.toNat) 131072 16 2097152 rfl rfl rfl (by omega) (by omega) (by omega),
    fld_of (hi := c0 * 524288 + c1 * 16384 + c2 * 1024 + x0.toNat * 128 + c3 * 8 + x1.toNat) (low := x2.toNat) 4 32 128 rfl rfl rfl (by omega) (by omega) (by omega),
    fld_of (hi := c0) (low := c2 * 131072 + x0.toNat * 16384 + c3 * 1024 + x1.toNat * 128 + c4 * 4 + x2.toNat) 2097152 32 67108864 rfl rfl rfl (by omega) (by omega) (by omega),
    bits_of (fld_of (hi := c0 * 512 + c1 * 16 + c2) (low := c3 * 1024 + x1.toNat * 128 + c4 * 4 + x2.toNat) 16384 8 131072 rfl rfl rfl (by omega) (by omega) (by omega)),
    bits_of (fld_of (hi := c0 * 65536 + c1 * 2048 + c2 * 128 + x0.toNat * 16 + c3) (low := c4 * 4 + x2.toNat) 128 8 1024 rfl rfl rfl (by omega) (by omega) (by omega)),
    bits_of (fld_of (hi := c0 * 16777216 + c1 * 524288 + c2 * 32768 + x0.toNat * 4096 + c3 * 256 + x1.toNat * 32 + c4) (low := 0) 1 4 4 rfl rfl rfl (by omega) (by omega) (by omega))⟩

theorem layout5 {n base : Nat} (c0 : Nat) (c1 : Nat) (c2 : Nat) (x0 : BitVec 6) (hn : n = base + x0.toNat)
    (hb : base = c0 * 67108864 + c1 * 2097152 + c2 * 64 ∧ c0 < 64 ∧ c1 < 32 ∧ c2 < 32768) :
    n < 4294967296 ∧
    fld 26 6 n = c0 ∧
    fld 21 5 n = c1 ∧
    fld 6 15 n = c2 ∧
    bits 0 6 n = x0 := by
  have h0 := x0.isLt
  obtain ⟨rfl, g0, g1, g2⟩ := hb
  subst hn
  exact ⟨by omega,
    fld_of (hi := 0) (low := c1 * 2097152 + c2 * 64 + x0.toNat) 67108864 64 4294967296 rfl rfl rfl (by omega) (by omega) (by omega),
    fld_of (hi := c0) (low := c2 * 64 + x0.toNat) 2097152 32 67108864 rfl rfl rfl (by omega) (by omega) (by omega),
    fld_of (hi := c0 * 32 + c1) (low := x0.toNat) 64 32768 2097152 rfl rfl rfl (by omega) (by omega) (by omega),
    bits_of (fld_of (hi := c0 * 1048576 + c1 * 32768 + c2) (low := 0) 1 64 64 rfl rfl rfl (by omega) (by omega) (by omega))⟩

theorem layout6 {n base : Nat} (c0 : Nat) (c1 : Nat) (c2 : Nat) (x0 : BitVec 3) (hn : n = base + x0.toNat)
    (hb : base = c0 * 67108864 + c1 * 2097152 + c2 * 8 ∧ c0 < 64 ∧ c1 < 32 ∧ c2 < 262144) :
    n < 4294967296 ∧
    fld 26 6 n = c0 ∧
    fld 21 5 n = c1 ∧
    fld 3 18 n = c2 ∧
    bits 0 3 n = x0 := by
  have h0 := x0.isLt
  obtain ⟨rfl, g0, g1, g2⟩ := hb
  subst hn
  exact ⟨by omega,
    fld_of (hi := 0) (low := c1 * 2097152 + c2 * 8 + x0.toNat) 67108864 64 4294967296 rfl rfl rfl (by omega) (by omega) (by omega),
    fld_of (hi := c0) (low := c2 * 8 + x0.toNat) 2097152 32 67108864 rfl rfl rfl (by omega) (by omega) (by omega),
    fld_of (hi := c0 * 32 + c1) (low := x0.toNat) 8 262144 2097152 rfl rfl rfl (by omega) (by omega) (by omega),
    bits_of (fld_of (hi := c0 * 8388608 + c1 * 262144 + c2) (low := 0) 1 8 8 rfl rfl rfl (by omega) (by omega) (by omega))⟩

theorem layout7 {n base : Nat} (c0 : Nat) (c1 : Nat) (c2 : Nat) (c3 : Nat) (c4 : Nat) (x0 : BitVec 1) (x1 : BitVec 5) (x2 : BitVec 3) (hn : n = base + x0.toNat * 16384 + x1.toNat * 128 + x2.toNat)
    (hb : base = c0 * 67108864 + c1 * 2097152 + c2 * 32768 + c3 * 4096 + c4 * 8 ∧ c0 < 64 ∧ c1 < 32 ∧ c2 < 64 ∧ c3 < 4 ∧ c4 < 16) :
    n < 4294967296 ∧
    fld 26 6 n = c0 ∧
    fld 12 2 n = c3 ∧
    fld 15 6 n = c2 ∧
    fld 21 5 n = c1 ∧
    fld 3 4 n = c4 ∧
    bits 14 1 n = x0 ∧
    bits 7 5 n = x1 ∧
    bits 0 3 n = x2 := by
  have h0 := x0.isLt
  have h1 := x1.isLt
  have h2 := x2.isLt
  obtain ⟨rfl, g0, g1, g2, g3, g4⟩ := hb
  subst hn
  exact ⟨by omega,
    fld_of (hi := 0) (low := c1 * 2097152 + c2 * 32768 + x0.toNat * 16384 + c3 * 4096 + x1.toNat * 128 + c4 * 8 + x2.toNat) 67108864 64 4294967296 rfl rfl rfl (by omega) (by omega) (by omega),
    fld_of (hi := c0 * 4096 + c1 * 128 + c2 * 2 + x0.toNat) (low := x1.toNat * 128 + c4 * 8 + x2.toNat) 4096 4 16384 rfl rfl rfl (by omega) (by omega) (by omega),
    fld_of (hi := c0 * 32 + c1) (low := x0.toNat * 16384 + c3 * 4096 + x1.toNat * 128 + c4 * 8 + x2.toNat) 32768 64 2097152 rfl rfl rfl (by omega) (by omega) (by omega),
    fld_of (hi := c0) (low := c2 * 32768 + x0.toNat * 16384 + c3 * 4096 + x1.toNat * 128 + c4 * 8 + x2.toNat) 2097152 32 67108864 rfl rfl rfl (by omega) (by omega) (by omega),
    fld_of (hi := c0 * 524288 + c1 * 16384 + c2 * 256 + x0.toNat * 128 + c3 * 32 + x1.toNat) (low := x2.toNat) 8 16 128 rfl rfl rfl (by omega) (by omega) (by omega),
    bits_of (fld_of (hi := c0 * 2048 + c1 * 64 + c2) (low := c3 * 4096 + x1.toNat * 128 + c4 * 8 + x2.toNat) 16384 2 32768 rfl rfl rfl (by omega) (by omega) (by omega)),
    bits_of (fld_of (hi := c0 * 16384 + c1 * 512 + c2 * 8 + x0.toNat * 4 + c3) (low := c4 * 8 + x2.toNat) 128 32 4096 rfl rfl rfl (by omega) (by omega) (by omega)),
    bits_of (fld_of (hi := c0 * 8388608 + c1 * 262144 + c2 * 4096 + x0.toNat * 2048 + c3 * 512 + x1.toNat * 16 + c4) (low := 0) 1 8 8 rfl rfl rfl (by omega) (by omega) (by omega))⟩

theorem layout8 {n base : Nat} (c0 : Nat) (c1 : Nat) (c2 : Nat) (x0 : BitVec 4) (x1 : BitVec 7) (hn : n = base + x0.toNat * 128 + x1.toNat)
    (hb : base = c0 * 67108864 + c1 * 2097152 + c2 * 2048 ∧ c0 < 64 ∧ c1 < 32 ∧ c2 < 1024) :
    n < 4294967296 ∧
    fld 26 6 n = c0 ∧
    fld 11 10 n = c2 ∧
    fld 21 5 n = c1 ∧
    bits 7 4 n = x0 ∧
    bits 0 7 n = x1 := by
  have h0 := x0.isLt
  have h1 := x1.isLt
  obtain ⟨rfl, g0, g1, g2⟩ := hb
  subst hn
  exact ⟨by omega,
    fld_of (hi := 0) (low := c1 * 2097152 + c2 * 2048 + x0.toNat * 128 + x1.toNat) 67108864 64 4294967296 rfl rfl rfl (by omega) (by omega) (by omega),
    fld_of (hi := c0 * 32 + c1) (low := x0.toNat * 128 + x1.toNat) 2048 1024 2097152 rfl rfl rfl (by omega) (by omega) (by omega),
    fld_of (hi := c0) (low := c2 * 2048 + x0.toNat * 128 + x1.toNat) 2097152 32 67108864 rfl rfl rfl (by omega) (by omega) (by omega),
    bits_of (fld_of (hi := c0 * 32768 + c1 * 1024 + c2) (low := x1.toNat) 128 16 2048 rfl rfl rfl (by omega) (by omega) (by omega)),
    bits_of (fld_of (hi := c0 * 524288 + c1 * 16384 + c2 * 16 + x0.toNat) (low := 0) 1 128 128 rfl rfl rfl (by omega) (by omega) (by omega))⟩

theorem layout9 {n base : Nat} (c0 : Nat) (c1 : Nat) (c2 : Nat) (x0 : BitVec 7) (x1 : BitVec 4) (x2 : BitVec 7) (hn : n = base + x0.toNat * 16384 + x1.toNat * 128 + x2.toNat)
    (hb : base = c0 * 67108864 + c1 * 2097152 + c2 * 2048 ∧ c0 < 64 ∧ c1 < 32 ∧ c2 < 8) :
    n < 4294967296 ∧
    fld 26 6 n = c0 ∧
    fld 11 3 n = c2 ∧
    fld 21 5 n = c1 ∧
    bits 14 7 n = x0 ∧
    bits 7 4 n = x1 ∧
    bits 0 7 n = x2 := by
  have h0 := x0.isLt
  have h1 := x1.isLt
  have h2 := x2.isLt
  obtain ⟨rfl, g0, g1, g2⟩ := hb
  subst hn
  exact ⟨by omega,
    fld_of (hi := 0) (low := c1 * 2097152 + x0.toNat * 16384 + c2 * 2048 + x1.toNat * 128 + x2.toNat) 67108864 64 4294967296 rfl rfl rfl (by omega) (by omega) (by omega),
    fld_of (hi := c0 * 4096 + c1 * 128 + x0.toNat) (low := x1.toNat * 128 + x2.toNat) 2048 8 16384 rfl rfl rfl (by omega) (by omega) (by omega),
    fld_of (hi := c0) (low := x0.toNat * 16384 + c2 * 2048 + x1.toNat * 128 + x2.toNat) 2097152 32 67108864 rfl rfl rfl (by omega) (by omega) (by omega),
    bits_of (fld_of (hi := c0 * 32 + c1) (low := c2 * 2048 + x1.toNat * 128 + x2.toNat) 16384 128 2097152 rfl rfl rfl (by omega) (by omega) (by omega)),
    bits_of (fld_of (hi := c0 * 32768 + c1 * 1024 + x0.toNat * 8 + c2) (low := x2.toNat) 128 16 2048 rfl rfl rfl (by omega) (by omega) (by omega)),
    bits_of (fld_of (hi := c0 * 524288 + c1 * 16384 + x0.toNat * 128 + c2 * 16 + x1.toNat) (low := 0) 1 128 128 rfl rfl rfl (by omega) (by omega) (by omega))⟩

theorem layout10 {n base : Nat} (c0 : Nat) (c1 : Nat) (c2 : Nat) (x0 : BitVec 7) (x1 : BitVec 7) (hn : n = base + x0.toNat * 128 + x1.toNat)
    (hb : base = c0 * 67108864 + c1 * 2097152 + c2 * 16384 ∧ c0 < 64 ∧ c1 < 32 ∧ c2 < 128) :
    n < 4294967296 ∧
    fld 26 6 n = c0 ∧
    fld 14 7 n = c2 ∧
    fld 21 5 n = c1 ∧
    bits 7 7 n = x0 ∧
    bits 0 7 n = x1 := by
  have h0 := x0.isLt
  have h1 := x1.isLt
  obtain ⟨rfl, g0, g1, g2⟩ := hb
  subst hn
  exact ⟨by omega,
    fld_of (hi := 0) (low := c1 * 2097152 + c2 * 16384 + x0.toNat * 128 + x1.toNat) 67108864 64 4294967296 rfl rfl rfl (by omega) (by omega) (by omega),
    fld_of (hi := c0 * 32 + c1) (low := x0.toNat * 128 + x1.toNat) 16384 128 2097152 rfl rfl rfl (by omega) (by omega) (by omega),
    fld_of (hi := c0) (low := c2 * 16384 + x0.toNat * 128 + x1.toNat) 2097152 32 67108864 rfl rfl rfl (by omega) (by omega) (by omega),
    bits_of (fld_of (hi := c0 * 4096 + c1 * 128 + c2) (low := x1.toNat) 128 128 16384 rfl rfl rfl (by omega) (by omega) (by omega)),
    bits_of (fld_of (hi := c0 * 524288 + c1 * 16384 + c2 * 128 + x0.toNat) (low := 0) 1 128 128 rfl rfl rfl (by omega) (by omega) (by omega))⟩

theorem layout11 {n base : Nat} (c0 : Nat) (c1 : Nat) (c2 : Nat) (c3 : Nat) (x0 : BitVec 7) (hn : n = base + x0.toNat * 128)
    (hb : base = c0 * 67108864 + c1 * 2097152 + c2 * 16384 + c3 ∧ c0 < 64 ∧ c1 < 32 ∧ c2 < 128 ∧ c3 < 128) :
    n < 4294967296 ∧
    fld 26 6 n = c0 ∧
    fld 0 7 n = c3 ∧
    fld 14 7 n = c2 ∧
    fld 21 5 n = c1 ∧
    bits 7 7 n = x0 := by
  have h0 := x0.isLt
  obtain ⟨rfl, g0, g1, g2, g3⟩ := hb
  subst hn
  exact ⟨by omega,
    fld_of (hi := 0) (low := c1 * 2097152 + c2 * 16384 + x0.toNat * 128 + c3) 67108864 64 4294967296 rfl rfl rfl (by omega) (by omega) (by omega),
    fld_of (hi := c0 * 524288 + c1 * 16384 + c2 * 128 + x0.toNat) (low := 0) 1 128 128 rfl rfl rfl (by omega) (by omega) (by omega),
    fld_of (hi := c0 * 32 + c1) (low := x0.toNat * 128 + c3) 16384 128 2097152 rfl rfl rfl (by omega) (by omega) (by omega),
    fld_of (hi := c0) (low := c2 * 16384 + x0.toNat * 128 + c3) 2097152 32 67108864 rfl rfl rfl (by omega) (by omega) (by omega),
    bits_of (fld_of (hi := c0 * 4096 + c1 * 128 + c2) (low := c3) 128 128 16384 rfl rfl rfl (by omega) (by omega) (by omega))⟩

theorem layout12 {n base : Nat} (c0 : Nat) (c1 : Nat) (x0 : BitVec 7) (x1 : BitVec 7) (x2 : BitVec 7) (hn : n = base + x0.toNat * 16384 + x1.toNat * 128 + x2.toNat)
    (hb : base = c0 * 67108864 + c1 * 2097152 ∧ c0 < 64 ∧ c1 < 32) :
    n < 4294967296 ∧
    fld 26 6 n = c0 ∧
    fld 21 5 n = c1 ∧
    bits 14 7 n = x0 ∧
    bits 7 7 n = x1 ∧
    bits 0 7 n = x2 := by
  have h0 := x0.isLt
  have h1 := x1.isLt
  have h2 := x2.isLt
  obtain ⟨rfl, g0, g1⟩ := hb
  subst hn
  exact ⟨by omega,
    fld_of (hi := 0) (low := c1 * 2097152 + x0.toNat * 16384 + x1.toNat * 128 + x2.toNat) 67108864 64 4294967296 rfl rfl rfl (by omega) (by omega) (by omega),
    fld_of (hi := c0) (low := x0.toNat * 16384 + x1.toNat * 128 + x2.toNat) 2097152 32 67108864 rfl rfl rfl (by omega) (by omega) (by omega),
    bits_of (fld_of (hi := c0 * 32 + c1) (low := x1.toNat * 128 + x2.toNat) 16384 128 2097152 rfl rfl rfl (by omega) (by omega) (by omega)),
    bits_of (fld_of (hi := c0 * 4096 + c1 * 128 + x0.toNat) (low := x2.toNat) 128 128 16384 rfl rfl rfl (by omega) (by omega) (by omega)),
    bits_of (fld_of (hi := c0 * 524288 + c1 * 16384 + x0.toNat * 128 + x1.toNat) (low := 0) 1 128 128 rfl rfl rfl (by omega) (by omega) (by omega))⟩

theorem layout13 {n base : Nat} (c0 : Nat) (c1 : Nat) (c2 : Nat) (x0 : BitVec 7) (x1 : BitVec 7) (hn : n = base + x0.toNat * 16384 + x1.toNat * 128)
    (hb : base = c0 * 67108864 + c1 * 2097152 + c2 ∧ c0 < 64 ∧ c1 < 32 ∧ c2 < 128) :
    n < 4294967296 ∧
    fld 26 6 n = c0 ∧
    fld 0 7 n = c2 ∧
    fld 21 5 n = c1 ∧
    bits 14 7 n = x0 ∧
    bits 7 7 n = x1 := by
  have h0 := x0.isLt
  have h1 := x1.isLt
  obtain ⟨rfl, g0, g1, g2⟩ := hb
  subst hn
  exact ⟨by omega,
    fld_of (hi := 0) (low := c1 * 2097152 + x0.toNat * 16384 + x1.toNat * 128 + c2) 67108864 64 4294967296 rfl rfl rfl (by omega) (by omega) (by omega),
    fld_of (hi := c0 * 524288 + c1 * 16384 + x0.toNat * 128 + x1.toNat) (low := 0) 1 128 128 rfl rfl rfl (by omega) (by omega) (by omega),
    fld_of (hi := c0) (low := x0.toNat * 16384 + x1.toNat * 128 + c2) 2097152 32 67108864 rfl rfl rfl (by omega) (by omega) (by omega),
    bits_of (fld_of (hi := c0 * 32 + c1) (low := x1.toNat * 128 + c2) 16384 128 2097152 rfl rfl rfl (by omega) (by omega) (by omega)),
    bits_of (fld_of (hi := c0 * 4096 + c1 * 128 + x0.toNat) (low := c2) 128 128 16384 rfl rfl rfl (by omega) (by omega) (by omega))⟩

theorem layout14 {n base : Nat} (c0 : Nat) (x0 : BitVec 7) (x1 : BitVec 7) (x2 : BitVec 12) (hn : n = base + x0.toNat * 524288 + x1.toNat * 4096 + x2.toNat)
    (hb : base = c0 * 67108864 ∧ c0 < 64) :
    n < 4294967296 ∧
    fld 26 6 n = c0 ∧
    bits 19 7 n = x0 ∧
    bits 12 7 n = x1 ∧
    bits 0 12 n = x2 := by
  have h0 := x0.isLt
  have h1 := x1.isLt
  have h2 := x2.isLt
  obtain ⟨rfl, g0⟩ := hb
  subst hn
  exact ⟨by omega,
    fld_of (hi := 0) (low := x0.toNat * 524288 + x1.toNat * 4096 + x2.toNat) 67108864 64 4294967296 rfl rfl rfl (by omega) (by omega) (by omega),
    bits_of (fld_of (hi := c0) (low := x1.toNat * 4096 + x2.toNat) 524288 128 67108864 rfl rfl rfl (by omega) (by omega) (by omega)),
    bits_of (fld_of (hi := c0 * 128 + x0.toNat) (low := x2.toNat) 4096 128 524288 rfl rfl rfl (by omega) (by omega) (by omega)),
    bits_of (fld_of (hi := c0 * 16384 + x0.toNat * 128 + x1.toNat) (low := 0) 1 4096 4096 rfl rfl rfl (by omega) (by omega) (by omega))⟩

theorem layout15 {n base : Nat} (c0 : Nat) (c1 : Nat) (x0 : BitVec 7) (x1 : BitVec 7) (x2 : BitVec 6) (hn : n = base + x0.toNat * 524288 + x1.toNat * 4096 + x2.toNat)
    (hb : base = c0 * 67108864 + c1 * 64 ∧ c0 < 64 ∧ c1 < 64) :
    n < 4294967296 ∧
    fld 26 6 n = c0 ∧
    fld 6 6 n = c1 ∧
    bits 19 7 n = x0 ∧
    bits 12 7 n = x1 ∧
    bits 0 6 n = x2 := by
  have h0 := x0.isLt
  have h1 := x1.isLt
  have h2 := x2.isLt
  obtain ⟨rfl, g0, g1⟩ := hb
  subst hn
  exact ⟨by omega,
    fld_of (hi := 0) (low := x0.toNat * 524288 + x1.toNat * 4096 + c1 * 64 + x2.toNat) 67108864 64 4294967296 rfl rfl rfl (by omega) (by omega) (by omega),
    fld_of (hi := c0 * 16384 + x0.toNat * 128 + x1.toNat) (low := x2.toNat) 64 64 4096 rfl rfl rfl (by omega) (by omega) (by omega),
    bits_of (fld_of (hi := c0) (low := x1.toNat * 4096 + c1 * 64 + x2.toNat) 524288 128 67108864 rfl rfl rfl (by omega) (by omega) (by omega)),
    bits_of (fld_of (hi := c0 * 128 + x0.toNat) (low := c1 * 64 + x2.toNat) 4096 128 524288 rfl rfl rfl (by omega) (by omega) (by omega)),
    bits_of (fld_of (hi := c0 * 1048576 + x0.toNat * 8192 + x1.toNat * 64 + c1) (low := 0) 1 64 64 rfl rfl rfl (by omega) (by omega) (by omega))⟩

theorem layout16 {n base : Nat} (c0 : Nat) (c1 : Nat) (x0 : BitVec 7) (x1 : BitVec 12) (hn : n = base + x0.toNat * 4096 + x1.toNat)
    (hb : base = c0 * 67108864 + c1 * 524288 ∧ c0 < 64 ∧ c1 < 128) :
    n < 4294967296 ∧
    fld 26 6 n = c0 ∧
    fld 19 7 n = c1 ∧
    bits 12 7 n = x0 ∧
    bits 0 12 n = x1 := by
  have h0 := x0.isLt
  have h1 := x1.isLt
  obtain ⟨rfl, g0, g1⟩ := hb
  subst hn
  exact ⟨by omega,
    fld_of (hi := 0) (low := c1 * 524288 + x0.toNat * 4096 + x1.toNat) 67108864 64 4294967296 rfl rfl rfl (by omega) (by omega) (by omega),
    fld_of (hi := c0) (low := x0.toNat * 4096 + x1.toNat) 524288 128 67108864 rfl rfl rfl (by omega) (by omega) (by omega),
    bits_of (fld_of (hi := c0 * 128 + c1) (low := x1.toNat) 4096 128 524288 rfl rfl rfl (by omega) (by omega) (by omega)),
    bits_of (fld_of (hi := c0 * 16384 + c1 * 128 + x0.toNat) (low := 0) 1 4096 4096 rfl rfl rfl (by omega) (by omega) (by omega))⟩

theorem layout17 {n base : Nat} (c0 : Nat) (x0 : BitVec 7) (x1 : BitVec 1) (x2 : BitVec 2) (x3 : BitVec 16) (hn : n = base + x0.toNat * 524288 + x1.toNat * 262144 + x2.toNat * 65536 + x3.toNat)
    (hb : base = c0 * 67108864 ∧ c0 < 64) :
    n < 4294967296 ∧
    fld 26 6 n = c0 ∧
    bits 19 7 n = x0 ∧
    bits 18 1 n = x1 ∧
    bits 16 2 n = x2 ∧
    bits 0 16 n = x3 := by
  have h0 := x0.isLt
  have h1 := x1.isLt
  have h2 := x2.isLt
  have h3 := x3.isLt
  obtain ⟨rfl, g0⟩ := hb
  subst hn
  exact ⟨by omega,
    fld_of (hi := 0) (low := x0.toNat * 524288 + x1.toNat * 262144 + x2.toNat * 65536 + x3.toNat) 67108864 64 4294967296 rfl rfl rfl (by omega) (by omega) (by omega),
    bits_of (fld_of (hi := c0) (low := x1.toNat * 262144 + x2.toNat * 65536 + x3.toNat) 524288 128 67108864 rfl rfl rfl (by omega) (by omega) (by omega)),
    bits_of (fld_of (hi := c0 * 128 + x0.toNat) (low := x2.toNat * 65536 + x3.toNat) 262144 2 524288 rfl rfl rfl (by omega) (by omega) (by omega)),
    bits_of (fld_of (hi := c0 * 256 + x0.toNat * 2 + x1.toNat) (low := x3.toNat) 65536 4 262144 rfl rfl rfl (by omega) (by omega) (by omega)),
    bits_of (fld_of (hi := c0 * 1024 + x0.toNat * 8 + x1.toNat * 4 + x2.toNat) (low := 0) 1 65536 65536 rfl rfl rfl (by omega) (by omega) (by omega))⟩

theorem layout18 {n base : Nat} (c0 : Nat) (c1 : Nat) (x0 : BitVec 7) (x1 : BitVec 7) (x2 : BitVec 2) (x3 : BitVec 2) (x4 : BitVec 2) (x5 : BitVec 4) (hn : n = base + x0.toNat * 131072 + x1.toNat * 1024 + x2.toNat * 256 + x3.toNat * 64 + x4.toNat * 16 + x5.toNat)
    (hb : base = c0 * 67108864 + c1 * 16777216 ∧ c0 < 64 ∧ c1 < 4) :
    n < 4294967296 ∧
    fld 26 6 n = c0 ∧
    fld 24 2 n = c1 ∧
    bits 17 7 n = x0 ∧
    bits 10 7 n = x1 ∧
    bits 8 2 n = x2 ∧
    bits 6 2 n = x3 ∧
    bits 4 2 n = x4 ∧
    bits 0 4 n = x5 := by
  have h0 := x0.isLt
  have h1 := x1.isLt
  have h2 := x2.isLt
  have h3 := x3.isLt
  have h4 := x4.isLt
  have h5 := x5.isLt
  obtain ⟨rfl, g0, g1⟩ := hb
  subst hn
  exact ⟨by omega,
    fld_of (hi := 0) (low := c1 * 16777216 + x0.toNat * 131072 + x1.toNat * 1024 + x2.toNat * 256 + x3.toNat * 64 + x4.toNat * 16 + x5.toNat) 67108864 64 4294967296 rfl rfl rfl (by omega) (by omega) (by omega),
    fld_of (hi := c0) (low := x0.toNat * 131072 + x1.toNat * 1024 + x2.toNat * 256 + x3.toNat * 64 + x4.toNat * 16 + x5.toNat) 16777216 4 67108864 rfl rfl rfl (by omega) (by omega) (by omega),
    bits_of (fld_of (hi := c0 * 4 + c1) (low := x1.toNat * 1024 + x2.toNat * 256 + x3.toNat * 64 + x4.toNat * 16 + x5.toNat) 131072 128 16777216 rfl rfl rfl (by omega) (by omega) (by omega)),
    bits_of (fld_of (hi := c0 * 512 + c1 * 128 + x0.toNat) (low := x2.toNat * 256 + x3.toNat * 64 + x4.toNat * 16 + x5.toNat) 1024 128 131072 rfl rfl rfl (by omega) (by omega) (by omega)),
    bits_of (fld_of (hi := c0 * 65536 + c1 * 16384 + x0.toNat * 128 + x1.toNat) (low := x3.toNat * 64 + x4.toNat * 16 + x5.toNat) 256 4 1024 rfl rfl rfl (by omega) (by omega) (by omega)),
    bits_of (fld_of (hi := c0 * 262144 + c1 * 65536 + x0.toNat * 512 + x1.toNat * 4 + x2.toNat) (low := x4.toNat * 16 + x5.toNat) 64 4 256 rfl rfl rfl (by omega) (by omega) (by omega)),
    bits_of (fld_of (hi := c0 * 1048576 + c1 * 262144 + x0.toNat * 2048 + x1.toNat * 16 + x2.toNat * 4 + x3.toNat) (low := x5.toNat) 16 4 64 rfl rfl rfl (by omega) (by omega) (by omega)),
    bits_of (fld_of (hi := c0 * 4194304 + c1 * 1048576 + x0.toNat * 8192 + x1.toNat * 64 + x2.toNat * 16 + x3.toNat * 4 + x4.toNat) (low := 0) 1 16 16 rfl rfl rfl (by omega) (by omega) (by omega))⟩

theorem layout19 {n base : Nat} (c0 : Nat) (c1 : Nat) (c2 : Nat) (c3 : Nat) (x0 : BitVec 7) (x1 : BitVec 3) (hn : n = base + x0.toNat * 16384 + x1.toNat * 128)
    (hb : base = c0 * 67108864 + c1 * 2097152 + c2 * 1024 + c3 ∧ c0 < 64 ∧ c1 < 32 ∧ c2 < 16 ∧ c3 < 128) :
    n < 4294967296 ∧
    fld 26 6 n = c0 ∧
    fld 0 7 n = c3 ∧
    fld 10 4 n = c2 ∧
    fld 21 5 n = c1 ∧
    bits 14 7 n = x0 ∧
    bits 7 3 n = x1 := by
  have h0 := x0.isLt
  have h1 := x1.isLt
  obtain ⟨rfl, g0, g1, g2, g3⟩ := hb
  subst hn
  exact ⟨by omega,
    fld_of (hi := 0) (low := c1 * 2097152 + x0.toNat * 16384 + c2 * 1024 + x1.toNat * 128 + c3) 67108864 64 4294967296 rfl rfl rfl (by omega) (by omega) (by omega),
    fld_of (hi := c0 * 524288 + c1 * 16384 + x0.toNat * 128 + c2 * 8 + x1.toNat) (low := 0) 1 128 128 rfl rfl rfl (by omega) (by omega) (by omega),
    fld_of (hi := c0 * 4096 + c1 * 128 + x0.toNat) (low := x1.toNat * 128 + c3) 1024 16 16384 rfl rfl rfl (by omega) (by omega) (by omega),
    fld_of (hi := c0) (low := x0.toNat * 16384 + c2 * 1024 + x1.toNat * 128 + c3) 2097152 32 67108864 rfl rfl rfl (by omega) (by omega) (by omega),
    bits_of (fld_of (hi := c0 * 32 + c1) (low := c2 * 1024 + x1.toNat * 128 + c3) 16384 128 2097152 rfl rfl rfl (by omega) (by omega) (by omega)),
    bits_of (fld_of (hi := c0 * 65536 + c1 * 2048 + x0.toNat * 16 + c2) (low := c3) 128 8 1024 rfl rfl rfl (by omega) (by omega) (by omega))⟩

theorem layout20 {n base : Nat} (c0 : Nat) (c1 : Nat) (c2 : Nat) (c3 : Nat) (x0 : BitVec 3) (x1 : BitVec 7) (hn : n = base + x0.toNat * 16384 + x1.toNat * 128)
    (hb : base = c0 * 67108864 + c1 * 2097152 + c2 * 131072 + c3 ∧ c0 < 64 ∧ c1 < 32 ∧ c2 < 16 ∧ c3 < 128) :
    n < 4294967296 ∧
    fld 26 6 n = c0 ∧
    fld 0 7 n = c3 ∧
    fld 17 4 n = c2 ∧
    fld 21 5 n = c1 ∧
    bits 14 3 n = x0 ∧
    bits 7 7 n = x1 := by
  have h0 := x0.isLt
  have h1 := x1.isLt
  obtain ⟨rfl, g0, g1, g2, g3⟩ := hb
  subst hn
  exact ⟨by omega,
    fld_of (hi := 0) (low := c1 * 2097152 + c2 * 131072 + x0.toNat * 16384 + x1.toNat * 128 + c3) 67108864 64 4294967296 rfl rfl rfl (by omega) (by omega) (by omega),
    fld_of (hi := c0 * 524288 + c1 * 16384 + c2 * 1024 + x0.toNat * 128 + x1.toNat) (low := 0) 1 128 128 rfl rfl rfl (by omega) (by omega) (by omega),
    fld_of (hi := c0 * 32 + c1) (low := x0.toNat * 16384 + x1.toNat * 128 + c3) 131072 16 2097152 rfl rfl rfl (by omega) (by omega) (by omega),
    fld_of (hi := c0) (low := c2 * 131072 + x0.toNat * 16384 + x1.toNat * 128 + c3) 2097152 32 67108864 rfl rfl rfl (by omega) (by omega) (by omega),
    bits_of (fld_of (hi := c0 * 512 + c1 * 16 + c2) (low := x1.toNat * 128 + c3) 16384 8 131072 rfl rfl rfl (by omega) (by omega) (by omega)),
    bits_of (fld_of (hi := c0 * 4096 + c1 * 128 + c2 * 8 + x0.toNat) (low := c3) 128 128 16384 rfl rfl rfl (by omega) (by omega) (by omega))⟩

theorem layout21 {n base : Nat} (c0 : Nat) (x0 : BitVec 5) (x1 : BitVec 21) (hn : n = base + x0.toNat * 2097152 + x1.toNat)
    (hb : base = c0 * 67108864 ∧ c0 < 64) :
    n < 4294967296 ∧
    fld 26 6 n = c0 ∧
    bits 21 5 n = x0 ∧
    bits 0 21 n = x1 := by
  have h0 := x0.isLt
  have h1 := x1.isLt
  obtain ⟨rfl, g0⟩ := hb
  subst hn
  exact ⟨by omega,
    fld_of (hi := 0) (low := x0.toNat * 2097152 + x1.toNat) 67108864 64 4294967296 rfl rfl rfl (by omega) (by omega) (by omega),
    bits_of (fld_of (hi := c0) (low := x1.toNat) 2097152 32 67108864 rfl rfl rfl (by omega) (by omega) (by omega)),
    bits_of (fld_of (hi := c0 * 32 + x0.toNat) (low := 0) 1 2097152 2097152 rfl rfl rfl (by omega) (by omega) (by omega))⟩

theorem layout22 {n base : Nat} (c0 : Nat) (x0 : BitVec 26) (hn : n = base + x0.toNat)
    (hb : base = c0 * 67108864 ∧ c0 < 64) :
    n < 4294967296 ∧
    fld 26 6 n = c0 ∧
    bits 0 26 n = x0 := by
  have h0 := x0.isLt
  obtain ⟨rfl, g0⟩ := hb
  subst hn
  exact ⟨by omega,
    fld_of (hi := 0) (low := x0.toNat) 67108864 64 4294967296 rfl rfl rfl (by omega) (by omega) (by omega),
    bits_of (fld_of (hi := c0) (low := 0) 1 67108864 67108864 rfl rfl rfl (by omega) (by omega) (by omega))⟩

theorem layout23 {n base : Nat} (c0 : Nat) (c1 : Nat) (c2 : Nat) (c3 : Nat) (c4 : Nat) (x0 : BitVec 3) (x1 : BitVec 3) (x2 : BitVec 3) (hn : n = base + x0.toNat * 16384 + x1.toNat * 128 + x2.toNat)
    (hb : base = c0 * 67108864 + c1 * 2097152 + c2 * 131072 + c3 * 1024 + c4 * 8 ∧ c0 < 64 ∧ c1 < 32 ∧ c2 < 16 ∧ c3 < 16 ∧ c4 < 16) :
    n < 4294967296 ∧
    fld 26 6 n = c0 ∧
    fld 10 4 n = c3 ∧
    fld 17 4 n = c2 ∧
    fld 21 5 n = c1 ∧
    fld 3 4 n = c4 ∧
    bits 14 3 n = x0 ∧
    bits 7 3 n = x1 ∧
    bits 0 3 n = x2 := by
  have h0 := x0.isLt
  have h1 := x1.isLt
  have h2 := x2.isLt
  obtain ⟨rfl, g0, g1, g2, g3, g4⟩ := hb
  subst hn
  exact ⟨by omega,
    fld_of (hi := 0) (low := c1 * 2097152 + c2 * 131072 + x0.toNat * 16384 + c3 * 1024 + x1.toNat * 128 + c4 * 8 + x2.toNat) 67108864 64 4294967296 rfl rfl rfl (by omega) (by omega) (by omega),
    fld_of (hi := c0 * 4096 + c1 * 128 + c2 * 8 + x0.toNat) (low := x1.toNat * 128 + c4 * 8 + x2.toNat) 1024 16 16384 rfl rfl rfl (by omega) (by omega) (by omega),
    fld_of (hi := c0 * 32 + c1) (low := x0.toNat * 16384 + c3 * 1024 + x1.toNat * 128 + c4 * 8 + x2.toNat) 131072 16 2097152 rfl rfl rfl (by omega) (by omega) (by omega),
    fld_of (hi := c0) (low := c2 * 131072 + x0.toNat * 16384 + c3 * 1024 + x1.toNat * 128 + c4 * 8 + x2.toNat) 2097152 32 67108864 rfl rfl rfl (by omega) (by omega) (by omega),
    fld_of (hi := c0 * 524288 + c1 * 16384 + c2 * 1024 + x0.toNat * 128 + c3 * 8 + x1.toNat) (low := x2.toNat) 8 16 128 rfl rfl rfl (by omega) (by omega) (by omega),
    bits_of (fld_of (hi := c0 * 512 + c1 * 16 + c2) (low := c3 * 1024 + x1.toNat * 128 + c4 * 8 + x2.toNat) 16384 8 131072 rfl rfl rfl (by omega) (by omega) (by omega)),
    bits_of (fld_of (hi := c0 * 65536 + c1 * 2048 + c2 * 128 + x0.toNat * 16 + c3) (low := c4 * 8 + x2.toNat) 128 8 1024 rfl rfl rfl (by omega) (by omega) (by omega)),
    bits_of (fld_of (hi := c0 * 8388608 + c1 * 262144 + c2 * 16384 + x0.toNat * 2048 + c3 * 128 + x1.toNat * 16 + c4) (low := 0) 1 8 8 rfl rfl rfl (by omega) (by omega) (by omega))⟩

theorem layout24 {n base : Nat} (c0 : Nat) (c1 : Nat) (c2 : Nat) (c3 : Nat) (c4 : Nat) (x0 : BitVec 3) (x1 : BitVec 3) (hn : n = base + x0.toNat * 16384 + x1.toNat * 128)
    (hb : base = c0 * 67108864 + c1 * 2097152 + c2 * 131072 + c3 * 1024 + c4 ∧ c0 < 64 ∧ c1 < 32 ∧ c2 < 16 ∧ c3 < 16 ∧ c4 < 128) :
    n < 4294967296 ∧
    fld 26 6 n = c0 ∧
    fld 0 7 n = c4 ∧
    fld 10 4 n = c3 ∧
    fld 17 4 n = c2 ∧
    fld 21 5 n = c1 ∧
    bits 14 3 n = x0 ∧
    bits 7 3 n = x1 := by
  have h0 := x0.isLt
  have h1 := x1.isLt
  obtain ⟨rfl, g0, g1, g2, g3, g4⟩ := hb
  subst hn
  exact ⟨by omega,
    fld_of (hi := 0) (low := c1 * 2097152 + c2 * 131072 + x0.toNat * 16384 + c3 * 1024 + x1.toNat * 128 + c4) 67108864 64 4294967296 rfl rfl rfl (by omega) (by omega) (by omega),
    fld_of (hi := c0 * 524288 + c1 * 16384 + c2 * 1024 + x0.toNat * 128 + c3 * 8 + x1.toNat) (low := 0) 1 128 128 rfl rfl rfl (by omega) (by omega) (by omega),
    fld_of (hi := c0 * 4096 + c1 * 128 + c2 * 8 + x0.toNat) (low := x1.toNat * 128 + c4) 1024 16 16384 rfl rfl rfl (by omega) (by omega) (by omega),
    fld_of (hi := c0 * 32 + c1) (low := x0.toNat * 16384 + c3 * 1024 + x1.toNat * 128 + c4) 131072 16 2097152 rfl rfl rfl (by omega) (by omega) (by omega),
    fld_of (hi := c0) (low := c2 * 131072 + x0.toNat * 16384 + c3 * 1024 + x1.toNat * 128 + c4) 2097152 32 67108864 rfl rfl rfl (by omega) (by omega) (by omega),
    bits_of (fld_of (hi := c0 * 512 + c1 * 16 + c2) (low := c3 * 1024 + x1.toNat * 128 + c4) 16384 8 131072 rfl rfl rfl (by omega) (by omega) (by omega)),
    bits_of (fld_of (hi := c0 * 65536 + c1 * 2048 + c2 * 128 + x0.toNat * 16 + c3) (low := c4) 128 8 1024 rfl rfl rfl (by omega) (by omega) (by omega))⟩

theorem layout25 {n base : Nat} (c0 : Nat) (c1 : Nat) (c2 : Nat) (x0 : BitVec 3) (x1 : BitVec 7) (x2 : BitVec 7) (hn : n = base + x0.toNat * 16384 + x1.toNat * 128 + x2.toNat)
    (hb : base = c0 * 67108864 + c1 * 2097152 + c2 * 131072 ∧ c0 < 64 ∧ c1 < 32 ∧ c2 < 16) :
    n < 4294967296 ∧
    fld 26 6 n = c0 ∧
    fld 17 4 n = c2 ∧
    fld 21 5 n = c1 ∧
    bits 14 3 n = x0 ∧
    bits 7 7 n = x1 ∧
    bits 0 7 n = x2 := by
  have h0 := x0.isLt
  have h1 := x1.isLt
  have h2 := x2.isLt
  obtain ⟨rfl, g0, g1, g2⟩ := hb
  subst hn
  exact ⟨by omega,
    fld_of (hi := 0) (low := c1 * 2097152 + c2 * 131072 + x0.toNat * 16384 + x1.toNat * 128 + x2.toNat) 67108864 64 4294967296 rfl rfl rfl (by omega) (by omega) (by omega),
    fld_of (hi := c0 * 32 + c1) (low := x0.toNat * 16384 + x1.toNat * 128 + x2.toNat) 131072 16 2097152 rfl rfl rfl (by omega) (by omega) (by omega),
    fld_of (hi := c0) (low := c2 * 131072 + x0.toNat * 16384 + x1.toNat * 128 + x2.toNat) 2097152 32 67108864 rfl rfl rfl (by omega) (by omega) (by omega),
    bits_of (fld_of (hi := c0 * 512 + c1 * 16 + c2) (low := x1.toNat * 128 + x2.toNat) 16384 8 131072 rfl rfl rfl (by omega) (by omega) (by omega)),
    bits_of (fld_of (hi := c0 * 4096 + c1 * 128 + c2 * 8 + x0.toNat) (low := x2.toNat) 128 128 16384 rfl rfl rfl (by omega) (by omega) (by omega)),
    bits_of (fld_of (hi := c0 * 524288 + c1 * 16384 + c2 * 1024 + x0.toNat * 128 + x1.toNat) (low := 0) 1 128 128 rfl rfl rfl (by omega) (by omega) (by omega))⟩

theorem layout26 {n base : Nat} (c0 : Nat) (c1 : Nat) (c2 : Nat) (x0 : BitVec 7) (x1 : BitVec 3) (x2 : BitVec 7) (hn : n = base + x0.toNat * 16384 + x1.toNat * 128 + x2.toNat)
    (hb : base = c0 * 67108864 + c1 * 2097152 + c2 * 1024 ∧ c0 < 64 ∧ c1 < 32 ∧ c2 < 16) :
    n < 4294967296 ∧
    fld 26 6 n = c0 ∧
    fld 10 4 n = c2 ∧
    fld 21 5 n = c1 ∧
    bits 14 7 n = x0 ∧
    bits 7 3 n = x1 ∧
    bits 0 7 n = x2 := by
  have h0 := x0.isLt
  have h1 := x1.isLt
  have h2 := x2.isLt
  obtain ⟨rfl, g0, g1, g2⟩ := hb
  subst hn
  exact ⟨by omega,
    fld_of (hi := 0) (low := c1 * 2097152 + x0.toNat * 16384 + c2 * 1024 + x1.toNat * 128 + x2.toNat) 67108864 64 4294967296 rfl rfl rfl (by omega) (by omega) (by omega),
    fld_of (hi := c0 * 4096 + c1 * 128 + x0.toNat) (low := x1.toNat * 128 + x2.toNat) 1024 16 16384 rfl rfl rfl (by omega) (by omega) (by omega),
    fld_of (hi := c0) (low := x0.toNat * 16384 + c2 * 1024 + x1.toNat * 128 + x2.toNat) 2097152 32 67108864 rfl rfl rfl (by omega) (by omega) (by omega),
    bits_of (fld_of (hi := c0 * 32 + c1) (low := c2 * 1024 + x1.toNat * 128 + x2.toNat) 16384 128 2097152 rfl rfl rfl (by omega) (by omega) (by omega)),
    bits_of (fld_of (hi := c0 * 65536 + c1 * 2048 + x0.toNat * 16 + c2) (low := x2.toNat) 128 8 1024 rfl rfl rfl (by omega) (by omega) (by omega)),
    bits_of (fld_of (hi := c0 * 524288 + c1 * 16384 + x0.toNat * 128 + c2 * 8 + x1.toNat) (low := 0) 1 128 128 rfl rfl rfl (by omega) (by omega) (by omega))⟩

theorem layout27 {n base : Nat} (c0 : Nat) (c1 : Nat) (c2 : Nat) (c3 : Nat) (x0 : BitVec 3) (x1 : BitVec 7) (hn : n = base + x0.toNat * 16384 + x1.toNat)
    (hb : base = c0 * 67108864 + c1 * 2097152 + c2 * 131072 + c3 * 128 ∧ c0 < 64 ∧ c1 < 32 ∧ c2 < 16 ∧ c3 < 128) :
    n < 4294967296 ∧
    fld 26 6 n = c0 ∧
    fld 17 4 n = c2 ∧
    fld 21 5 n = c1 ∧
    fld 7 7 n = c3 ∧
    bits 14 3 n = x0 ∧
    bits 0 7 n = x1 := by
  have h0 := x0.isLt
  have h1 := x1.isLt
  obtain ⟨rfl, g0, g1, g2, g3⟩ := hb
  subst hn
  exact ⟨by omega,
    fld_of (hi := 0) (low := c1 * 2097152 + c2 * 131072 + x0.toNat * 16384 + c3 * 128 + x1.toNat) 67108864 64 4294967296 rfl rfl rfl (by omega) (by omega) (by omega),
    fld_of (hi := c0 * 32 + c1) (low := x0.toNat * 16384 + c3 * 128 + x1.toNat) 131072 16 2097152 rfl rfl rfl (by omega) (by omega) (by omega),
    fld_of (hi := c0) (low := c2 * 131072 + x0.toNat * 16384 + c3 * 128 + x1.toNat) 2097152 32 67108864 rfl rfl rfl (by omega) (by omega) (by omega),
    fld_of (hi := c0 * 4096 + c1 * 128 + c2 * 8 + x0.toNat) (low := x1.toNat) 128 128 16384 rfl rfl rfl (by omega) (by omega) (by omega),
    bits_of (fld_of (hi := c0 * 512 + c1 * 16 + c2) (low := c3 * 128 + x1.toNat) 16384 8 131072 rfl rfl rfl (by omega) (by omega) (by omega)),
    bits_of (fld_of (hi := c0 * 524288 + c1 * 16384 + c2 * 1024 + x0.toNat * 128 + c3) (low := 0) 1 128 128 rfl rfl rfl (by omega) (by omega) (by omega))⟩

theorem layout28 {n base : Nat} (c0 : Nat) (c1 : Nat) (x0 : BitVec 6) (x1 : BitVec 6) (x2 : BitVec 6) (x3 : BitVec 6) (hn : n = base + x0.toNat * 1048576 + x1.toNat * 16384 + x2.toNat * 256 + x3.toNat * 4)
    (hb : base = c0 * 67108864 + c1 ∧ c0 < 64 ∧ c1 < 4) :
    n < 4294967296 ∧
    fld 26 6 n = c0 ∧
    fld 0 2 n = c1 ∧
    bits 20 6 n = x0 ∧
    bits 14 6 n = x1 ∧
    bits 8 6 n = x2 ∧
    bits 2 6 n = x3 := by
  have h0 := x0.isLt
  have h1 := x1.isLt
  have h2 := x2.isLt
  have h3 := x3.isLt
  obtain ⟨rfl, g0, g1⟩ := hb
  subst hn
  exact ⟨by omega,
    fld_of (hi := 0) (low := x0.toNat * 1048576 + x1.toNat * 16384 + x2.toNat * 256 + x3.toNat * 4 + c1) 67108864 64 4294967296 rfl rfl rfl (by omega) (by omega) (by omega),
    fld_of (hi := c0 * 16777216 + x0.toNat * 262144 + x1.toNat * 4096 + x2.toNat * 64 + x3.toNat) (low := 0) 1 4 4 rfl rfl rfl (by omega) (by omega) (by omega),
    bits_of (fld_of (hi := c0) (low := x1.toNat * 16384 + x2.toNat * 256 + x3.toNat * 4 + c1) 1048576 64 67108864 rfl rfl rfl (by omega) (by omega) (by omega)),
    bits_of (fld_of (hi := c0 * 64 + x0.toNat) (low := x2.toNat * 256 + x3.toNat * 4 + c1) 16384 64 1048576 rfl rfl rfl (by omega) (by omega) (by omega)),
    bits_of (fld_of (hi := c0 * 4096 + x0.toNat * 64 + x1.toNat) (low := x3.toNat * 4 + c1) 256 64 16384 rfl rfl rfl (by omega) (by omega) (by omega)),
    bits_of (fld_of (hi := c0 * 262144 + x0.toNat * 4096 + x1.toNat * 64 + x2.toNat) (low := c1) 4 64 256 rfl rfl rfl (by omega) (by omega) (by omega))⟩

theorem layout29 {n base : Nat} (c0 : Nat) (c1 : Nat) (x0 : BitVec 2) (x1 : BitVec 7) (x2 : BitVec 7) (x3 : BitVec 7) (hn : n = base + x0.toNat * 16777216 + x1.toNat * 16384 + x2.toNat * 128 + x3.toNat)
    (hb : base = c0 * 67108864 + c1 * 2097152 ∧ c0 < 64 ∧ c1 < 8) :
    n < 4294967296 ∧
    fld 26 6 n = c0 ∧
    fld 21 3 n = c1 ∧
    bits 24 2 n = x0 ∧
    bits 14 7 n = x1 ∧
    bits 7 7 n = x2 ∧
    bits 0 7 n = x3 := by
  have h0 := x0.isLt
  have h1 := x1.isLt
  have h2 := x2.isLt
  have h3 := x3.isLt
  obtain ⟨rfl, g0, g1⟩ := hb
  subst hn
  exact ⟨by omega,
    fld_of (hi := 0) (low := x0.toNat * 16777216 + c1 * 2097152 + x1.toNat * 16384 + x2.toNat * 128 + x3.toNat) 67108864 64 4294967296 rfl rfl rfl (by omega) (by omega) (by omega),
    fld_of (hi := c0 * 4 + x0.toNat) (low := x1.toNat * 16384 + x2.toNat * 128 + x3.toNat) 2097152 8 16777216 rfl rfl rfl (by omega) (by omega) (by omega),
    bits_of (fld_of (hi := c0) (low := c1 * 2097152 + x1.toNat * 16384 + x2.toNat * 128 + x3.toNat) 16777216 4 67108864 rfl rfl rfl (by omega) (by omega) (by omega)),
    bits_of (fld_of (hi := c0 * 32 + x0.toNat * 8 + c1) (low := x2.toNat * 128 + x3.toNat) 16384 128 2097152 rfl rfl rfl (by omega) (by omega) (by omega)),
    bits_of (fld_of (hi := c0 * 4096 + x0.toNat * 1024 + c1 * 128 + x1.toNat) (low := x3.toNat) 128 128 16384 rfl rfl rfl (by omega) (by omega) (by omega)),
    bits_of (fld_of (hi := c0 * 524288 + x0.toNat * 131072 + c1 * 16384 + x1.toNat * 128 + x2.toNat) (low := 0) 1 128 128 rfl rfl rfl (by omega) (by omega) (by omega))⟩

theorem layout30 {n base : Nat} (c0 : Nat) (c1 : Nat) (c2 : Nat) (x0 : BitVec 2) (x1 : BitVec 7) (x2 : BitVec 7) (hn : n = base + x0.toNat * 16777216 + x1.toNat * 16384 + x2.toNat * 128)
    (hb : base = c0 * 67108864 + c1 * 2097152 + c2 ∧ c0 < 64 ∧ c1 < 8 ∧ c2 < 128) :
    n < 4294967296 ∧
    fld 26 6 n = c0 ∧
    fld 0 7 n = c2 ∧
    fld 21 3 n = c1 ∧
    bits 24 2 n = x0 ∧
    bits 14 7 n = x1 ∧
    bits 7 7 n = x2 := by
  have h0 := x0.isLt
  have h1 := x1.isLt
  have h2 := x2.isLt
  obtain ⟨rfl, g0, g1, g2⟩ := hb
  subst hn
  exact ⟨by omega,
    fld_of (hi := 0) (low := x0.toNat * 16777216 + c1 * 2097152 + x1.toNat * 16384 + x2.toNat * 128 + c2) 67108864 64 4294967296 rfl rfl rfl (by omega) (by omega) (by omega),
    fld_of (hi := c0 * 524288 + x0.toNat * 131072 + c1 * 16384 + x1.toNat * 128 + x2.toNat) (low := 0) 1 128 128 rfl rfl rfl (by omega) (by omega) (by omega),
    fld_of (hi := c0 * 4 + x0.toNat) (low := x1.toNat * 16384 + x2.toNat * 128 + c2) 2097152 8 16777216 rfl rfl rfl (by omega) (by omega) (by omega),
    bits_of (fld_of (hi := c0) (low := c1 * 2097152 + x1.toNat * 16384 + x2.toNat * 128 + c2) 16777216 4 67108864 rfl rfl rfl (by omega) (by omega) (by omega)),
    bits_of (fld_of (hi := c0 * 32 + x0.toNat * 8 + c1) (low := x2.toNat * 128 + c2) 16384 128 2097152 rfl rfl rfl (by omega) (by omega) (by omega)),
    bits_of (fld_of (hi := c0 * 4096 + x0.toNat * 1024 + c1 * 128 + x1.toNat) (low := c2) 128 128 16384 rfl rfl rfl (by omega) (by omega) (by omega))⟩

theorem layout31 {n base : Nat} (c0 : Nat) (x0 : BitVec 2) (x1 : BitVec 7) (x2 : BitVec 7) (x3 : BitVec 10) (hn : n = base + x0.toNat * 16777216 + x1.toNat * 131072 + x2.toNat * 1024 + x3.toNat)
    (hb : base = c0 * 67108864 ∧ c0 < 64) :
    n < 4294967296 ∧
    fld 26 6 n = c0 ∧
    bits 24 2 n = x0 ∧
    bits 17 7 n = x1 ∧
    bits 10 7 n = x2 ∧
    bits 0 10 n = x3 := by
  have h0 := x0.isLt
  have h1 := x1.isLt
  have h2 := x2.isLt
  have h3 := x3.isLt
  obtain ⟨rfl, g0⟩ := hb
  subst hn
  exact ⟨by omega,
    fld_of (hi := 0) (low := x0.toNat * 16777216 + x1.toNat * 131072 + x2.toNat * 1024 + x3.toNat) 67108864 64 4294967296 rfl rfl rfl (by omega) (by omega) (by omega),
    bits_of (fld_of (hi := c0) (low := x1.toNat * 131072 + x2.toNat * 1024 + x3.toNat) 16777216 4 67108864 rfl rfl rfl (by omega) (by omega) (by omega)),
    bits_of (fld_of (hi := c0 * 4 + x0.toNat) (low := x2.toNat * 1024 + x3.toNat) 131072 128 16777216 rfl rfl rfl (by omega) (by omega) (by omega)),
    bits_of (fld_of (hi := c0 * 512 + x0.toNat * 128 + x1.toNat) (low := x3.toNat) 1024 128 131072 rfl rfl rfl (by omega) (by omega) (by omega)),
    bits_of (fld_of (hi := c0 * 65536 + x0.toNat * 16384 + x1.toNat * 128 + x2.toNat) (low := 0) 1 1024 1024 rfl rfl rfl (by omega) (by omega) (by omega))⟩

theorem layout32 {n base : Nat} (c0 : Nat) (c1 : Nat) (x0 : BitVec 2) (x1 : BitVec 7) (x2 : BitVec 7) (x3 : BitVec 5) (hn : n = base + x0.toNat * 16777216 + x1.toNat * 131072 + x2.toNat * 1024 + x3.toNat)
    (hb : base = c0 * 67108864 + c1 * 32 ∧ c0 < 64 ∧ c1 < 32) :
    n < 4294967296 ∧
    fld 26 6 n = c0 ∧
    fld 5 5 n = c1 ∧
    bits 24 2 n = x0 ∧
    bits 17 7 n = x1 ∧
    bits 10 7 n = x2 ∧
    bits 0 5 n = x3 := by
  have h0 := x0.isLt
  have h1 := x1.isLt
  have h2 := x2.isLt
  have h3 := x3.isLt
  obtain ⟨rfl, g0, g1⟩ := hb
  subst hn
  exact ⟨by omega,
    fld_of (hi := 0) (low := x0.toNat * 16777216 + x1.toNat * 131072 + x2.toNat * 1024 + c1 * 32 + x3.toNat) 67108864 64 4294967296 rfl rfl rfl (by omega) (by omega) (by omega),
    fld_of (hi := c0 * 65536 + x0.toNat * 16384 + x1.toNat * 128 + x2.toNat) (low := x3.toNat) 32 32 1024 rfl rfl rfl (by omega) (by omega) (by omega),
    bits_of (fld_of (hi := c0) (low := x1.toNat * 131072 + x2.toNat * 1024 + c1 * 32 + x3.toNat) 16777216 4 67108864 rfl rfl rfl (by omega) (by omega) (by omega)),
    bits_of (fld_of (hi := c0 * 4 + x0.toNat) (low := x2.toNat * 1024 + c1 * 32 + x3.toNat) 131072 128 16777216 rfl rfl rfl (by omega) (by omega) (by omega)),
    bits_of (fld_of (hi := c0 * 512 + x0.toNat * 128 + x1.toNat) (low := c1 * 32 + x3.toNat) 1024 128 131072 rfl rfl rfl (by omega) (by omega) (by omega)),
    bits_of (fld_of (hi := c0 * 2097152 + x0.toNat * 524288 + x1.toNat * 4096 + x2.toNat * 32 + c1) (low := 0) 1 32 32 rfl rfl rfl (by omega) (by omega) (by omega))⟩

theorem layout33 {n base : Nat} (c0 : Nat) (c1 : Nat) (c2 : Nat) (x0 : BitVec 2) (x1 : BitVec 3) (x2 : BitVec 7) (x3 : BitVec 7) (hn : n = base + x0.toNat * 16777216 + x1.toNat * 16384 + x2.toNat * 128 + x3.toNat)
    (hb : base = c0 * 67108864 + c1 * 2097152 + c2 * 131072 ∧ c0 < 64 ∧ c1 < 8 ∧ c2 < 16) :
    n < 4294967296 ∧
    fld 26 6 n = c0 ∧
    fld 17 4 n = c2 ∧
    fld 21 3 n = c1 ∧
    bits 24 2 n = x0 ∧
    bits 14 3 n = x1 ∧
    bits 7 7 n = x2 ∧
    bits 0 7 n = x3 := by
  have h0 := x0.isLt
  have h1 := x1.isLt
  have h2 := x2.isLt
  have h3 := x3.isLt
  obtain ⟨rfl, g0, g1, g2⟩ := hb
  subst hn
  exact ⟨by omega,
    fld_of (hi := 0) (low := x0.toNat * 16777216 + c1 * 2097152 + c2 * 131072 + x1.toNat * 16384 + x2.toNat * 128 + x3.toNat) 67108864 64 4294967296 rfl rfl rfl (by omega) (by omega) (by omega),
    fld_of (hi := c0 * 32 + x0.toNat * 8 + c1) (low := x1.toNat * 16384 + x2.toNat * 128 + x3.toNat) 131072 16 2097152 rfl rfl rfl (by omega) (by omega) (by omega),
    fld_of (hi := c0 * 4 + x0.toNat) (low := c2 * 131072 + x1.toNat * 16384 + x2.toNat * 128 + x3.toNat) 2097152 8 16777216 rfl rfl rfl (by omega) (by omega) (by omega),
    bits_of (fld_of (hi := c0) (low := c1 * 2097152 + c2 * 131072 + x1.toNat * 16384 + x2.toNat * 128 + x3.toNat) 16777216 4 67108864 rfl rfl rfl (by omega) (by omega) (by omega)),
    bits_of (fld_of (hi := c0 * 512 + x0.toNat * 128 + c1 * 16 + c2) (low := x2.toNat * 128 + x3.toNat) 16384 8 131072 rfl rfl rfl (by omega) (by omega) (by omega)),
    bits_of (fld_of (hi := c0 * 4096 + x0.toNat * 1024 + c1 * 128 + c2 * 8 + x1.toNat) (low := x3.toNat) 128 128 16384 rfl rfl rfl (by omega) (by omega) (by omega)),
    bits_of (fld_of (hi := c0 * 524288 + x0.toNat * 131072 + c1 * 16384 + c2 * 1024 + x1.toNat * 128 + x2.toNat) (low := 0) 1 128 128 rfl rfl rfl (by omega) (by omega) (by omega))⟩

theorem layout34 {n base : Nat} (c0 : Nat) (c1 : Nat) (c2 : Nat) (x0 : BitVec 2) (x1 : BitVec 7) (x2 : BitVec 7) (x3 : BitVec 5) (hn : n = base + x0.toNat * 16777216 + x1.toNat * 16384 + x2.toNat * 128 + x3.toNat)
    (hb : base = c0 * 67108864 + c1 * 2097152 + c2 * 32 ∧ c0 < 64 ∧ c1 < 8 ∧ c2 < 4) :
    n < 4294967296 ∧
    fld 26 6 n = c0 ∧
    fld 21 3 n = c1 ∧
    fld 5 2 n = c2 ∧
    bits 24 2 n = x0 ∧
    bits 14 7 n = x1 ∧
    bits 7 7 n = x2 ∧
    bits 0 5 n = x3 := by
  have h0 := x0.isLt
  have h1 := x1.isLt
  have h2 := x2.isLt
  have h3 := x3.isLt
  obtain ⟨rfl, g0, g1, g2⟩ := hb
  subst hn
  exact ⟨by omega,
    fld_of (hi := 0) (low := x0.toNat * 16777216 + c1 * 2097152 + x1.toNat * 16384 + x2.toNat * 128 + c2 * 32 + x3.toNat) 67108864 64 4294967296 rfl rfl rfl (by omega) (by omega) (by omega),
    fld_of (hi := c0 * 4 + x0.toNat) (low := x1.toNat * 16384 + x2.toNat * 128 + c2 * 32 + x3.toNat) 2097152 8 16777216 rfl rfl rfl (by omega) (by omega) (by omega),
    fld_of (hi := c0 * 524288 + x0.toNat * 131072 + c1 * 16384 + x1.toNat * 128 + x2.toNat) (low := x3.toNat) 32 4 128 rfl rfl rfl (by omega) (by omega) (by omega),
    bits_of (fld_of (hi := c0) (low := c1 * 2097152 + x1.toNat * 16384 + x2.toNat * 128 + c2 * 32 + x3.toNat) 16777216 4 67108864 rfl rfl rfl (by omega) (by omega) (by omega)),
    bits_of (fld_of (hi := c0 * 32 + x0.toNat * 8 + c1) (low := x2.toNat * 128 + c2 * 32 + x3.toNat) 16384 128 2097152 rfl rfl rfl (by omega) (by omega) (by omega)),
    bits_of (fld_of (hi := c0 * 4096 + x0.toNat * 1024 + c1 * 128 + x1.toNat) (low := c2 * 32 + x3.toNat) 128 128 16384 rfl rfl rfl (by omega) (by omega) (by omega)),
    bits_of (fld_of (hi := c0 * 2097152 + x0.toNat * 524288 + c1 * 65536 + x1.toNat * 512 + x2.toNat * 4 + c2) (low := 0) 1 32 32 rfl rfl rfl (by omega) (by omega) (by omega))⟩

theorem layout35 {n base : Nat} (c0 : Nat) (c1 : Nat) (c2 : Nat) (c3 : Nat) (x0 : BitVec 2) (x1 : BitVec 5) (x2 : BitVec 7) (hn : n = base + x0.toNat * 16777216 + x1.toNat * 16384 + x2.toNat * 128)
    (hb : base = c0 * 67108864 + c1 * 2097152 + c2 * 524288 + c3 ∧ c0 < 64 ∧ c1 < 8 ∧ c2 < 4 ∧ c3 < 128) :
    n < 4294967296 ∧
    fld 26 6 n = c0 ∧
    fld 0 7 n = c3 ∧
    fld 19 2 n = c2 ∧
    fld 21 3 n = c1 ∧
    bits 24 2 n = x0 ∧
    bits 14 5 n = x1 ∧
    bits 7 7 n = x2 := by
  have h0 := x0.isLt
  have h1 := x1.isLt
  have h2 := x2.isLt
  obtain ⟨rfl, g0, g1, g2, g3⟩ := hb
  subst hn
  exact ⟨by omega,
    fld_of (hi := 0) (low := x0.toNat * 16777216 + c1 * 2097152 + c2 * 524288 + x1.toNat * 16384 + x2.toNat * 128 + c3) 67108864 64 4294967296 rfl rfl rfl (by omega) (by omega) (by omega),
    fld_of (hi := c0 * 524288 + x0.toNat * 131072 + c1 * 16384 + c2 * 4096 + x1.toNat * 128 + x2.toNat) (low := 0) 1 128 128 rfl rfl rfl (by omega) (by omega) (by omega),
    fld_of (hi := c0 * 32 + x0.toNat * 8 + c1) (low := x1.toNat * 16384 + x2.toNat * 128 + c3) 524288 4 2097152 rfl rfl rfl (by omega) (by omega) (by omega),
    fld_of (hi := c0 * 4 + x0.toNat) (low := c2 * 524288 + x1.toNat * 16384 + x2.toNat * 128 + c3) 2097152 8 16777216 rfl rfl rfl (by omega) (by omega) (by omega),
    bits_of (fld_of (hi := c0) (low := c1 * 2097152 + c2 * 524288 + x1.toNat * 16384 + x2.toNat * 128 + c3) 16777216 4 67108864 rfl rfl rfl (by omega) (by omega) (by omega)),
    bits_of (fld_of (hi := c0 * 128 + x0.toNat * 32 + c1 * 4 + c2) (low := x2.toNat * 128 + c3) 16384 32 524288 rfl rfl rfl (by omega) (by omega) (by omega)),
    bits_of (fld_of (hi := c0 * 4096 + x0.toNat * 1024 + c1 * 128 + c2 * 32 + x1.toNat) (low := c3) 128 128 16384 rfl rfl rfl (by omega) (by omega) (by omega))⟩

theorem layout36 {n base : Nat} (c0 : Nat) (c1 : Nat) (c2 : Nat) (x0 : BitVec 2) (x1 : BitVec 7) (hn : n = base + x0.toNat * 16777216 + x1.toNat * 16384)
    (hb : base = c0 * 67108864 + c1 * 2097152 + c2 ∧ c0 < 64 ∧ c1 < 8 ∧ c2 < 16384) :
    n < 4294967296 ∧
    fld 26 6 n = c0 ∧
    fld 0 14 n = c2 ∧
    fld 21 3 n = c1 ∧
    bits 24 2 n = x0 ∧
    bits 14 7 n = x1 := by
  have h0 := x0.isLt
  have h1 := x1.isLt
  obtain ⟨rfl, g0, g1, g2⟩ := hb
  subst hn
  exact ⟨by omega,
    fld_of (hi := 0) (low := x0.toNat * 16777216 + c1 * 2097152 + x1.toNat * 16384 + c2) 67108864 64 4294967296 rfl rfl rfl (by omega) (by omega) (by omega),
    fld_of (hi := c0 * 4096 + x0.toNat * 1024 + c1 * 128 + x1.toNat) (low := 0) 1 16384 16384 rfl rfl rfl (by omega) (by omega) (by omega),
    fld_of (hi := c0 * 4 + x0.toNat) (low := x1.toNat * 16384 + c2) 2097152 8 16777216 rfl rfl rfl (by omega) (by omega) (by omega),
    bits_of (fld_of (hi := c0) (low := c1 * 2097152 + x1.toNat * 16384 + c2) 16777216 4 67108864 rfl rfl rfl (by omega) (by omega) (by omega)),
    bits_of (fld_of (hi := c0 * 32 + x0.toNat * 8 + c1) (low := c2) 16384 128 2097152 rfl rfl rfl (by omega) (by omega) (by omega))⟩

theorem layout37 {n base : Nat} (c0 : Nat) (c1 : Nat) (c2 : Nat) (x0 : BitVec 2) (x1 : BitVec 7) (x2 : BitVec 7) (x3 : BitVec 1) (hn : n = base + x0.toNat * 16777216 + x1.toNat * 16384 + x2.toNat * 128 + x3.toNat)
    (hb : base = c0 * 67108864 + c1 * 2097152 + c2 * 2 ∧ c0 < 64 ∧ c1 < 8 ∧ c2 < 64) :
    n < 4294967296 ∧
    fld 26 6 n = c0 ∧
    fld 1 6 n = c2 ∧
    fld 21 3 n = c1 ∧
    bits 24 2 n = x0 ∧
    bits 14 7 n = x1 ∧
    bits 7 7 n = x2 ∧
    bits 0 1 n = x3 := by
  have h0 := x0.isLt
  have h1 := x1.isLt
  have h2 := x2.isLt
  have h3 := x3.isLt
  obtain ⟨rfl, g0, g1, g2⟩ := hb
  subst hn
  exact ⟨by omega,
    fld_of (hi := 0) (low := x0.toNat * 16777216 + c1 * 2097152 + x1.toNat * 16384 + x2.toNat * 128 + c2 * 2 + x3.toNat) 67108864 64 4294967296 rfl rfl rfl (by omega) (by omega) (by omega),
    fld_of (hi := c0 * 524288 + x0.toNat * 131072 + c1 * 16384 + x1.toNat * 128 + x2.toNat) (low := x3.toNat) 2 64 128 rfl rfl rfl (by omega) (by omega) (by omega),
    fld_of (hi := c0 * 4 + x0.toNat) (low := x1.toNat * 16384 + x2.toNat * 128 + c2 * 2 + x3.toNat) 2097152 8 16777216 rfl rfl rfl (by omega) (by omega) (by omega),
    bits_of (fld_of (hi := c0) (low := c1 * 2097152 + x1.toNat * 16384 + x2.toNat * 128 + c2 * 2 + x3.toNat) 16777216 4 67108864 rfl rfl rfl (by omega) (by omega) (by omega)),
    bits_of (fld_of (hi := c0 * 32 + x0.toNat * 8 + c1) (low := x2.toNat * 128 + c2 * 2 + x3.toNat) 16384 128 2097152 rfl rfl rfl (by omega) (by omega) (by omega)),
    bits_of (fld_of (hi := c0 * 4096 + x0.toNat * 1024 + c1 * 128 + x1.toNat) (low := c2 * 2 + x3.toNat) 128 128 16384 rfl rfl rfl (by omega) (by omega) (by omega)),
    bits_of (fld_of (hi := c0 * 33554432 + x0.toNat * 8388608 + c1 * 1048576 + x1.toNat * 8192 + x2.toNat * 64 + c2) (low := 0) 1 2 2 rfl rfl rfl (by omega) (by omega) (by omega))⟩

theorem layout38 {n base : Nat} (c0 : Nat) (x0 : BitVec 2) (x1 : BitVec 7) (x2 : BitVec 7) (x3 : BitVec 2) (x4 : BitVec 2) (x5 : BitVec 2) (x6 : BitVec 4) (hn : n = base + x0.toNat * 16777216 + x1.toNat * 131072 + x2.toNat * 1024 + x3.toNat * 256 + x4.toNat * 64 + x5.toNat * 16 + x6.toNat)
    (hb : base = c0 * 67108864 ∧ c0 < 64) :
    n < 4294967296 ∧
    fld 26 6 n = c0 ∧
    bits 24 2 n = x0 ∧
    bits 17 7 n = x1 ∧
    bits 10 7 n = x2 ∧
    bits 8 2 n = x3 ∧
    bits 6 2 n = x4 ∧
    bits 4 2 n = x5 ∧
    bits 0 4 n = x6 := by
  have h0 := x0.isLt
  have h1 := x1.isLt
  have h2 := x2.isLt
  have h3 := x3.isLt
  have h4 := x4.isLt
  have h5 := x5.isLt
  have h6 := x6.isLt
  obtain ⟨rfl, g0⟩ := hb
  subst hn
  exact ⟨by omega,
    fld_of (hi := 0) (low := x0.toNat * 16777216 + x1.toNat * 131072 + x2.toNat * 1024 + x3.toNat * 256 + x4.toNat * 64 + x5.toNat * 16 + x6.toNat) 67108864 64 4294967296 rfl rfl rfl (by omega) (by omega) (by omega),
    bits_of (fld_of (hi := c0) (low := x1.toNat * 131072 + x2.toNat * 1024 + x3.toNat * 256 + x4.toNat * 64 + x5.toNat * 16 + x6.toNat) 16777216 4 67108864 rfl rfl rfl (by omega) (by omega) (by omega)),
    bits_of (fld_of (hi := c0 * 4 + x0.toNat) (low := x2.toNat * 1024 + x3.toNat * 256 + x4.toNat * 64 + x5.toNat * 16 + x6.toNat) 131072 128 16777216 rfl rfl rfl (by omega) (by omega) (by omega)),
    bits_of (fld_of (hi := c0 * 512 + x0.toNat * 128 + x1.toNat) (low := x3.toNat * 256 + x4.toNat * 64 + x5.toNat * 16 + x6.toNat) 1024 128 131072 rfl rfl rfl (by omega) (by omega) (by omega)),
    bits_of (fld_of (hi := c0 * 65536 + x0.toNat * 16384 + x1.toNat * 128 + x2.toNat) (low := x4.toNat * 64 + x5.toNat * 16 + x6.toNat) 256 4 1024 rfl rfl rfl (by omega) (by omega) (by omega)),
    bits_of (fld_of (hi := c0 * 262144 + x0.toNat * 65536 + x1.toNat * 512 + x2.toNat * 4 + x3.toNat) (low := x5.toNat * 16 + x6.toNat) 64 4 256 rfl rfl rfl (by omega) (by omega) (by omega)),
    bits_of (fld_of (hi := c0 * 1048576 + x0.toNat * 262144 + x1.toNat * 2048 + x2.toNat * 16 + x3.toNat * 4 + x4.toNat) (low := x6.toNat) 16 4 64 rfl rfl rfl (by omega) (by omega) (by omega)),
    bits_of (fld_of (hi := c0 * 4194304 + x0.toNat * 1048576 + x1.toNat * 8192 + x2.toNat * 64 + x3.toNat * 16 + x4.toNat * 4 + x5.toNat) (low := 0) 1 16 16 rfl rfl rfl (by omega) (by omega) (by omega))⟩

theorem layout39 {n base : Nat} (c0 : Nat) (c1 : Nat) (x0 : BitVec 2) (x1 : BitVec 7) (x2 : BitVec 7) (x3 : BitVec 1) (x4 : BitVec 2) (x5 : BitVec 2) (x6 : BitVec 4) (hn : n = base + x0.toNat * 16777216 + x1.toNat * 131072 + x2.toNat * 1024 + x3.toNat * 256 + x4.toNat * 64 + x5.toNat * 16 + x6.toNat)
    (hb : base = c0 * 67108864 + c1 * 512 ∧ c0 < 64 ∧ c1 < 2) :
    n < 4294967296 ∧
    fld 26 6 n = c0 ∧
    fld 9 1 n = c1 ∧
    bits 24 2 n = x0 ∧
    bits 17 7 n = x1 ∧
    bits 10 7 n = x2 ∧
    bits 8 1 n = x3 ∧
    bits 6 2 n = x4 ∧
    bits 4 2 n = x5 ∧
    bits 0 4 n = x6 := by
  have h0 := x0.isLt
  have h1 := x1.isLt
  have h2 := x2.isLt
  have h3 := x3.isLt
  have h4 := x4.isLt
  have h5 := x5.isLt
  have h6 := x6.isLt
  obtain ⟨rfl, g0, g1⟩ := hb
  subst hn
  exact ⟨by omega,
    fld_of (hi := 0) (low := x0.toNat * 16777216 + x1.toNat * 131072 + x2.toNat * 1024 + c1 * 512 + x3.toNat * 256 + x4.toNat * 64 + x5.toNat * 16 + x6.toNat) 67108864 64 4294967296 rfl rfl rfl (by omega) (by omega) (by omega),
    fld_of (hi := c0 * 65536 + x0.toNat * 16384 + x1.toNat * 128 + x2.toNat) (low := x3.toNat * 256 + x4.toNat * 64 + x5.toNat * 16 + x6.toNat) 512 2 1024 rfl rfl rfl (by omega) (by omega) (by omega),
    bits_of (fld_of (hi := c0) (low := x1.toNat * 131072 + x2.toNat * 1024 + c1 * 512 + x3.toNat * 256 + x4.toNat * 64 + x5.toNat * 16 + x6.toNat) 16777216 4 67108864 rfl rfl rfl (by omega) (by omega) (by omega)),
    bits_of (fld_of (hi := c0 * 4 + x0.toNat) (low := x2.toNat * 1024 + c1 * 512 + x3.toNat * 256 + x4.toNat * 64 + x5.toNat * 16 + x6.toNat) 131072 128 16777216 rfl rfl rfl (by omega) (by omega) (by omega)),
    bits_of (fld_of (hi := c0 * 512 + x0.toNat * 128 + x1.toNat) (low := c1 * 512 + x3.toNat * 256 + x4.toNat * 64 + x5.toNat * 16 + x6.toNat) 1024 128 131072 rfl rfl rfl (by omega) (by omega) (by omega)),
    bits_of (fld_of (hi := c0 * 131072 + x0.toNat * 32768 + x1.toNat * 256 + x2.toNat * 2 + c1) (low := x4.toNat * 64 + x5.toNat * 16 + x6.toNat) 256 2 512 rfl rfl rfl (by omega) (by omega) (by omega)),
    bits_of (fld_of (hi := c0 * 262144 + x0.toNat * 65536 + x1.toNat * 512 + x2.toNat * 4 + c1 * 2 + x3.toNat) (low := x5.toNat * 16 + x6.toNat) 64 4 256 rfl rfl rfl (by omega) (by omega) (by omega)),
    bits_of (fld_of (hi := c0 * 1048576 + x0.toNat * 262144 + x1.toNat * 2048 + x2.toNat * 16 + c1 * 8 + x3.toNat * 4 + x4.toNat) (low := x6.toNat) 16 4 64 rfl rfl rfl (by omega) (by omega) (by omega)),
    bits_of (fld_of (hi := c0 * 4194304 + x0.toNat * 1048576 + x1.toNat * 8192 + x2.toNat * 64 + c1 * 32 + x3.toNat * 16 + x4.toNat * 4 + x5.toNat) (low := 0) 1 16 16 rfl rfl rfl (by omega) (by omega) (by omega))⟩

theorem layout40 {n base : Nat} (c0 : Nat) (c1 : Nat) (x0 : BitVec 2) (x1 : BitVec 3) (x2 : BitVec 7) (x3 : BitVec 7) (x4 : BitVec 5) (hn : n = base + x0.toNat * 16777216 + x1.toNat * 2097152 + x2.toNat * 16384 + x3.toNat * 128 + x4.toNat)
    (hb : base = c0 * 67108864 + c1 * 32 ∧ c0 < 64 ∧ c1 < 4) :
    n < 4294967296 ∧
    fld 26 6 n = c0 ∧
    fld 5 2 n = c1 ∧
    bits 24 2 n = x0 ∧
    bits 21 3 n = x1 ∧
    bits 14 7 n = x2 ∧
    bits 7 7 n = x3 ∧
    bits 0 5 n = x4 := by
  have h0 := x0.isLt
  have h1 := x1.isLt
  have h2 := x2.isLt
  have h3 := x3.isLt
  have h4 := x4.isLt
  obtain ⟨rfl, g0, g1⟩ := hb
  subst hn
  exact ⟨by omega,
    fld_of (hi := 0) (low := x0.toNat * 16777216 + x1.toNat * 2097152 + x2.toNat * 16384 + x3.toNat * 128 + c1 * 32 + x4.toNat) 67108864 64 4294967296 rfl rfl rfl (by omega) (by omega) (by omega),
    fld_of (hi := c0 * 524288 + x0.toNat * 131072 + x1.toNat * 16384 + x2.toNat * 128 + x3.toNat) (low := x4.toNat) 32 4 128 rfl rfl rfl (by omega) (by omega) (by omega),
    bits_of (fld_of (hi := c0) (low := x1.toNat * 2097152 + x2.toNat * 16384 + x3.toNat * 128 + c1 * 32 + x4.toNat) 16777216 4 67108864 rfl rfl rfl (by omega) (by omega) (by omega)),
    bits_of (fld_of (hi := c0 * 4 + x0.toNat) (low := x2.toNat * 16384 + x3.toNat * 128 + c1 * 32 + x4.toNat) 2097152 8 16777216 rfl rfl rfl (by omega) (by omega) (by omega)),
    bits_of (fld_of (hi := c0 * 32 + x0.toNat * 8 + x1.toNat) (low := x3.toNat * 128 + c1 * 32 + x4.toNat) 16384 128 2097152 rfl rfl rfl (by omega) (by omega) (by omega)),
    bits_of (fld_of (hi := c0 * 4096 + x0.toNat * 1024 + x1.toNat * 128 + x2.toNat) (low := c1 * 32 + x4.toNat) 128 128 16384 rfl rfl rfl (by omega) (by omega) (by omega)),
    bits_of (fld_of (hi := c0 * 2097152 + x0.toNat * 524288 + x1.toNat * 65536 + x2.toNat * 512 + x3.toNat * 4 + c1) (low := 0) 1 32 32 rfl rfl rfl (by omega) (by omega) (by omega))⟩

theorem layout41 {n base : Nat} (c0 : Nat) (c1 : Nat) (c2 : Nat) (c3 : Nat) (x0 : BitVec 4) (x1 : BitVec 7) (hn : n = base + x0.toNat * 16384 + x1.toNat)
    (hb : base = c0 * 67108864 + c1 * 2097152 + c2 * 262144 + c3 * 128 ∧ c0 < 64 ∧ c1 < 32 ∧ c2 < 8 ∧ c3 < 128) :
    n < 4294967296 ∧
    fld 26 6 n = c0 ∧
    fld 18 3 n = c2 ∧
    fld 21 5 n = c1 ∧
    fld 7 7 n = c3 ∧
    bits 14 4 n = x0 ∧
    bits 0 7 n = x1 := by
  have h0 := x0.isLt
  have h1 := x1.isLt
  obtain ⟨rfl, g0, g1, g2, g3⟩ := hb
  subst hn
  exact ⟨by omega,
    fld_of (hi := 0) (low := c1 * 2097152 + c2 * 262144 + x0.toNat * 16384 + c3 * 128 + x1.toNat) 67108864 64 4294967296 rfl rfl rfl (by omega) (by omega) (by omega),
    fld_of (hi := c0 * 32 + c1) (low := x0.toNat * 16384 + c3 * 128 + x1.toNat) 262144 8 2097152 rfl rfl rfl (by omega) (by omega) (by omega),
    fld_of (hi := c0) (low := c2 * 262144 + x0.toNat * 16384 + c3 * 128 + x1.toNat) 2097152 32 67108864 rfl rfl rfl (by omega) (by omega) (by omega),
    fld_of (hi := c0 * 4096 + c1 * 128 + c2 * 16 + x0.toNat) (low := x1.toNat) 128 128 16384 rfl rfl rfl (by omega) (by omega) (by omega),
    bits_of (fld_of (hi := c0 * 256 + c1 * 8 + c2) (low := c3 * 128 + x1.toNat) 16384 16 262144 rfl rfl rfl (by omega) (by omega) (by omega)),
    bits_of (fld_of (hi := c0 * 524288 + c1 * 16384 + c2 * 2048 + x0.toNat * 128 + c3) (low := 0) 1 128 128 rfl rfl rfl (by omega) (by omega) (by omega))⟩

theorem layout42 {n base : Nat} (c0 : Nat) (c1 : Nat) (c2 : Nat) (c3 : Nat) (x0 : BitVec 4) (x1 : BitVec 7) (hn : n = base + x0.toNat * 16384 + x1.toNat * 128)
    (hb : base = c0 * 67108864 + c1 * 2097152 + c2 * 262144 + c3 ∧ c0 < 64 ∧ c1 < 32 ∧ c2 < 8 ∧ c3 < 128) :
    n < 4294967296 ∧
    fld 26 6 n = c0 ∧
    fld 0 7 n = c3 ∧
    fld 18 3 n = c2 ∧
    fld 21 5 n = c1 ∧
    bits 14 4 n = x0 ∧
    bits 7 7 n = x1 := by
  have h0 := x0.isLt
  have h1 := x1.isLt
  obtain ⟨rfl, g0, g1, g2, g3⟩ := hb
  subst hn
  exact ⟨by omega,
    fld_of (hi := 0) (low := c1 * 2097152 + c2 * 262144 + x0.toNat * 16384 + x1.toNat * 128 + c3) 67108864 64 4294967296 rfl rfl rfl (by omega) (by omega) (by omega),
    fld_of (hi := c0 * 524288 + c1 * 16384 + c2 * 2048 + x0.toNat * 128 + x1.toNat) (low := 0) 1 128 128 rfl rfl rfl (by omega) (by omega) (by omega),
    fld_of (hi := c0 * 32 + c1) (low := x0.toNat * 16384 + x1.toNat * 128 + c3) 262144 8 2097152 rfl rfl rfl (by omega) (by omega) (by omega),
    fld_of (hi := c0) (low := c2 * 262144 + x0.toNat * 16384 + x1.toNat * 128 + c3) 2097152 32 67108864 rfl rfl rfl (by omega) (by omega) (by omega),
    bits_of (fld_of (hi := c0 * 256 + c1 * 8 + c2) (low := x1.toNat * 128 + c3) 16384 16 262144 rfl rfl rfl (by omega) (by omega) (by omega)),
    bits_of (fld_of (hi := c0 * 4096 + c1 * 128 + c2 * 16 + x0.toNat) (low := c3) 128 128 16384 rfl rfl rfl (by omega) (by omega) (by omega))⟩

theorem layout43 {n base : Nat} (c0 : Nat) (c1 : Nat) (c2 : Nat) (c3 : Nat) (x0 : BitVec 7) (x1 : BitVec 4) (hn : n = base + x0.toNat * 16384 + x1.toNat * 128)
    (hb : base = c0 * 67108864 + c1 * 2097152 + c2 * 2048 + c3 ∧ c0 < 64 ∧ c1 < 32 ∧ c2 < 8 ∧ c3 < 128) :
    n < 4294967296 ∧
    fld 26 6 n = c0 ∧
    fld 0 7 n = c3 ∧
    fld 11 3 n = c2 ∧
    fld 21 5 n = c1 ∧
    bits 14 7 n = x0 ∧
    bits 7 4 n = x1 := by
  have h0 := x0.isLt
  have h1 := x1.isLt
  obtain ⟨rfl, g0, g1, g2, g3⟩ := hb
  subst hn
  exact ⟨by omega,
    fld_of (hi := 0) (low := c1 * 2097152 + x0.toNat * 16384 + c2 * 2048 + x1.toNat * 128 + c3) 67108864 64 4294967296 rfl rfl rfl (by omega) (by omega) (by omega),
    fld_of (hi := c0 * 524288 + c1 * 16384 + x0.toNat * 128 + c2 * 16 + x1.toNat) (low := 0) 1 128 128 rfl rfl rfl (by omega) (by omega) (by omega),
    fld_of (hi := c0 * 4096 + c1 * 128 + x0.toNat) (low := x1.toNat * 128 + c3) 2048 8 16384 rfl rfl rfl (by omega) (by omega) (by omega),
    fld_of (hi := c0) (low := x0.toNat * 16384 + c2 * 2048 + x1.toNat * 128 + c3) 2097152 32 67108864 rfl rfl rfl (by omega) (by omega) (by omega),
    bits_of (fld_of (hi := c0 * 32 + c1) (low := c2 * 2048 + x1.toNat * 128 + c3) 16384 128 2097152 rfl rfl rfl (by omega) (by omega) (by omega)),
    bits_of (fld_of (hi := c0 * 32768 + c1 * 1024 + x0.toNat * 8 + c2) (low := c3) 128 16 2048 rfl rfl rfl (by omega) (by omega) (by omega))⟩

theorem layout44 {n base : Nat} (c0 : Nat) (c1 : Nat) (c2 : Nat) (c3 : Nat) (c4 : Nat) (x0 : BitVec 4) (x1 : BitVec 4) (hn : n = base + x0.toNat * 16384 + x1.toNat * 128)
    (hb : base = c0 * 67108864 + c1 * 2097152 + c2 * 262144 + c3 * 2048 + c4 ∧ c0 < 64 ∧ c1 < 32 ∧ c2 < 8 ∧ c3 < 8 ∧ c4 < 128) :
    n < 4294967296 ∧
    fld 26 6 n = c0 ∧
    fld 0 7 n = c4 ∧
    fld 11 3 n = c3 ∧
    fld 18 3 n = c2 ∧
    fld 21 5 n = c1 ∧
    bits 14 4 n = x0 ∧
    bits 7 4 n = x1 := by
  have h0 := x0.isLt
  have h1 := x1.isLt
  obtain ⟨rfl, g0, g1, g2, g3, g4⟩ := hb
  subst hn
  exact ⟨by omega,
    fld_of (hi := 0) (low := c1 * 2097152 + c2 * 262144 + x0.toNat * 16384 + c3 * 2048 + x1.toNat * 128 + c4) 67108864 64 4294967296 rfl rfl rfl (by omega) (by omega) (by omega),
    fld_of (hi := c0 * 524288 + c1 * 16384 + c2 * 2048 + x0.toNat * 128 + c3 * 16 + x1.toNat) (low := 0) 1 128 128 rfl rfl rfl (by omega) (by omega) (by omega),
    fld_of (hi := c0 * 4096 + c1 * 128 + c2 * 16 + x0.toNat) (low := x1.toNat * 128 + c4) 2048 8 16384 rfl rfl rfl (by omega) (by omega) (by omega),
    fld_of (hi := c0 * 32 + c1) (low := x0.toNat * 16384 + c3 * 2048 + x1.toNat * 128 + c4) 262144 8 2097152 rfl rfl rfl (by omega) (by omega) (by omega),
    fld_of (hi := c0) (low := c2 * 262144 + x0.toNat * 16384 + c3 * 2048 + x1.toNat * 128 + c4) 2097152 32 67108864 rfl rfl rfl (by omega) (by omega) (by omega),
    bits_of (fld_of (hi := c0 * 256 + c1 * 8 + c2) (low := c3 * 2048 + x1.toNat * 128 + c4) 16384 16 262144 rfl rfl rfl (by omega) (by omega) (by omega)),
    bits_of (fld_of (hi := c0 * 32768 + c1 * 1024 + c2 * 128 + x0.toNat * 8 + c3) (low := c4) 128 16 2048 rfl rfl rfl (by omega) (by omega) (by omega))⟩

theorem layout45 {n base : Nat} (c0 : Nat) (c1 : Nat) (c2 : Nat) (x0 : BitVec 4) (x1 : BitVec 7) (x2 : BitVec 7) (hn : n = base + x0.toNat * 16384 + x1.toNat * 128 + x2.toNat)
    (hb : base = c0 * 67108864 + c1 * 2097152 + c2 * 262144 ∧ c0 < 64 ∧ c1 < 32 ∧ c2 < 8) :
    n < 4294967296 ∧
    fld 26 6 n = c0 ∧
    fld 18 3 n = c2 ∧
    fld 21 5 n = c1 ∧
    bits 14 4 n = x0 ∧
    bits 7 7 n = x1 ∧
    bits 0 7 n = x2 := by
  have h0 := x0.isLt
  have h1 := x1.isLt
  have h2 := x2.isLt
  obtain ⟨rfl, g0, g1, g2⟩ := hb
  subst hn
  exact ⟨by omega,
    fld_of (hi := 0) (low := c1 * 2097152 + c2 * 262144 + x0.toNat * 16384 + x1.toNat * 128 + x2.toNat) 67108864 64 4294967296 rfl rfl rfl (by omega) (by omega) (by omega),
    fld_of (hi := c0 * 32 + c1) (low := x0.toNat * 16384 + x1.toNat * 128 + x2.toNat) 262144 8 2097152 rfl rfl rfl (by omega) (by omega) (by omega),
    fld_of (hi := c0) (low := c2 * 262144 + x0.toNat * 16384 + x1.toNat * 128 + x2.toNat) 2097152 32 67108864 rfl rfl rfl (by omega) (by omega) (by omega),
    bits_of (fld_of (hi := c0 * 256 + c1 * 8 + c2) (low := x1.toNat * 128 + x2.toNat) 16384 16 262144 rfl rfl rfl (by omega) (by omega) (by omega)),
    bits_of (fld_of (hi := c0 * 4096 + c1 * 128 + c2 * 16 + x0.toNat) (low := x2.toNat) 128 128 16384 rfl rfl rfl (by omega) (by omega) (by omega)),
    bits_of (fld_of (hi := c0 * 524288 + c1 * 16384 + c2 * 2048 + x0.toNat * 128 + x1.toNat) (low := 0) 1 128 128 rfl rfl rfl (by omega) (by omega) (by omega))⟩

theorem layout46 {n base : Nat} (c0 : Nat) (c1 : Nat) (c2 : Nat) (c3 : Nat) (x0 : BitVec 4) (hn : n = base + x0.toNat * 16384)
    (hb : base = c0 * 67108864 + c1 * 2097152 + c2 * 262144 + c3 ∧ c0 < 64 ∧ c1 < 32 ∧ c2 < 8 ∧ c3 < 16384) :
    n < 4294967296 ∧
    fld 26 6 n = c0 ∧
    fld 0 14 n = c3 ∧
    fld 18 3 n = c2 ∧
    fld 21 5 n = c1 ∧
    bits 14 4 n = x0 := by
  have h0 := x0.isLt
  obtain ⟨rfl, g0, g1, g2, g3⟩ := hb
  subst hn
  exact ⟨by omega,
    fld_of (hi := 0) (low := c1 * 2097152 + c2 * 262144 + x0.toNat * 16384 + c3) 67108864 64 4294967296 rfl rfl rfl (by omega) (by omega) (by omega),
    fld_of (hi := c0 * 4096 + c1 * 128 + c2 * 16 + x0.toNat) (low := 0) 1 16384 16384 rfl rfl rfl (by omega) (by omega) (by omega),
    fld_of (hi := c0 * 32 + c1) (low := x0.toNat * 16384 + c3) 262144 8 2097152 rfl rfl rfl (by omega) (by omega) (by omega),
    fld_of (hi := c0) (low := c2 * 262144 + x0.toNat * 16384 + c3) 2097152 32 67108864 rfl rfl rfl (by omega) (by omega) (by omega),
    bits_of (fld_of (hi := c0 * 256 + c1 * 8 + c2) (low := c3) 16384 16 262144 rfl rfl rfl (by omega) (by omega) (by omega))⟩

theorem layout47 {n base : Nat} (c0 : Nat) (c1 : Nat) (c2 : Nat) (c3 : Nat) (c4 : Nat) (x0 : BitVec 3) (x1 : BitVec 4) (x2 : BitVec 4) (hn : n = base + x0.toNat * 16384 + x1.toNat * 128 + x2.toNat)
    (hb : base = c0 * 67108864 + c1 * 2097152 + c2 * 131072 + c3 * 2048 + c4 * 16 ∧ c0 < 64 ∧ c1 < 32 ∧ c2 < 16 ∧ c3 < 8 ∧ c4 < 8) :
    n < 4294967296 ∧
    fld 26 6 n = c0 ∧
    fld 11 3 n = c3 ∧
    fld 17 4 n = c2 ∧
    fld 21 5 n = c1 ∧
    fld 4 3 n = c4 ∧
    bits 14 3 n = x0 ∧
    bits 7 4 n = x1 ∧
    bits 0 4 n = x2 := by
  have h0 := x0.isLt
  have h1 := x1.isLt
  have h2 := x2.isLt
  obtain ⟨rfl, g0, g1, g2, g3, g4⟩ := hb
  subst hn
  exact ⟨by omega,
    fld_of (hi := 0) (low := c1 * 2097152 + c2 * 131072 + x0.toNat * 16384 + c3 * 2048 + x1.toNat * 128 + c4 * 16 + x2.toNat) 67108864 64 4294967296 rfl rfl rfl (by omega) (by omega) (by omega),
    fld_of (hi := c0 * 4096 + c1 * 128 + c2 * 8 + x0.toNat) (low := x1.toNat * 128 + c4 * 16 + x2.toNat) 2048 8 16384 rfl rfl rfl (by omega) (by omega) (by omega),
    fld_of (hi := c0 * 32 + c1) (low := x0.toNat * 16384 + c3 * 2048 + x1.toNat * 128 + c4 * 16 + x2.toNat) 131072 16 2097152 rfl rfl rfl (by omega) (by omega) (by omega),
    fld_of (hi := c0) (low := c2 * 131072 + x0.toNat * 16384 + c3 * 2048 + x1.toNat * 128 + c4 * 16 + x2.toNat) 2097152 32 67108864 rfl rfl rfl (by omega) (by omega) (by omega),
    fld_of (hi := c0 * 524288 + c1 * 16384 + c2 * 1024 + x0.toNat * 128 + c3 * 16 + x1.toNat) (low := x2.toNat) 16 8 128 rfl rfl rfl (by omega) (by omega) (by omega),
    bits_of (fld_of (hi := c0 * 512 + c1 * 16 + c2) (low := c3 * 2048 + x1.toNat * 128 + c4 * 16 + x2.toNat) 16384 8 131072 rfl rfl rfl (by omega) (by omega) (by omega)),
    bits_of (fld_of (hi := c0 * 32768 + c1 * 1024 + c2 * 64 + x0.toNat * 8 + c3) (low := c4 * 16 + x2.toNat) 128 16 2048 rfl rfl rfl (by omega) (by omega) (by omega)),
    bits_of (fld_of (hi := c0 * 4194304 + c1 * 131072 + c2 * 8192 + x0.toNat * 1024 + c3 * 128 + x1.toNat * 8 + c4) (low := 0) 1 16 16 rfl rfl rfl (by omega) (by omega) (by omega))⟩

theorem layout48 {n base : Nat} (c0 : Nat) (c1 : Nat) (c2 : Nat) (c3 : Nat) (x0 : BitVec 3) (hn : n = base + x0.toNat * 16384)
    (hb : base = c0 * 67108864 + c1 * 2097152 + c2 * 131072 + c3 ∧ c0 < 64 ∧ c1 < 32 ∧ c2 < 16 ∧ c3 < 16384) :
    n < 4294967296 ∧
    fld 26 6 n = c0 ∧
    fld 0 14 n = c3 ∧
    fld 17 4 n = c2 ∧
    fld 21 5 n = c1 ∧
    bits 14 3 n = x0 := by
  have h0 := x0.isLt
  obtain ⟨rfl, g0, g1, g2, g3⟩ := hb
  subst hn
  exact ⟨by omega,
    fld_of (hi := 0) (low := c1 * 2097152 + c2 * 131072 + x0.toNat * 16384 + c3) 67108864 64 4294967296 rfl rfl rfl (by omega) (by omega) (by omega),
    fld_of (hi := c0 * 4096 + c1 * 128 + c2 * 8 + x0.toNat) (low := 0) 1 16384 16384 rfl rfl rfl (by omega) (by omega) (by omega),
    fld_of (hi := c0 * 32 + c1) (low := x0.toNat * 16384 + c3) 131072 16 2097152 rfl rfl rfl (by omega) (by omega) (by omega),
    fld_of (hi := c0) (low := c2 * 131072 + x0.toNat * 16384 + c3) 2097152 32 67108864 rfl rfl rfl (by omega) (by omega) (by omega),
    bits_of (fld_of (hi := c0 * 512 + c1 * 16 + c2) (low := c3) 16384 8 131072 rfl rfl rfl (by omega) (by omega) (by omega))⟩

theorem layout49 {n base : Nat} (c0 : Nat) (c1 : Nat) (c2 : Nat) (x0 : BitVec 7) (x1 : BitVec 7) (x2 : BitVec 1) (hn : n = base + x0.toNat * 16384 + x1.toNat * 128 + x2.toNat)
    (hb : base = c0 * 67108864 + c1 * 2097152 + c2 * 2 ∧ c0 < 64 ∧ c1 < 32 ∧ c2 < 64) :
    n < 4294967296 ∧
    fld 26 6 n = c0 ∧
    fld 1 6 n = c2 ∧
    fld 21 5 n = c1 ∧
    bits 14 7 n = x0 ∧
    bits 7 7 n = x1 ∧
    bits 0 1 n = x2 := by
  have h0 := x0.isLt
  have h1 := x1.isLt
  have h2 := x2.isLt
  obtain ⟨rfl, g0, g1, g2⟩ := hb
  subst hn
  exact ⟨by omega,
    fld_of (hi := 0) (low := c1 * 2097152 + x0.toNat * 16384 + x1.toNat * 128 + c2 * 2 + x2.toNat) 67108864 64 4294967296 rfl rfl rfl (by omega) (by omega) (by omega),
    fld_of (hi := c0 * 524288 + c1 * 16384 + x0.toNat * 128 + x1.toNat) (low := x2.toNat) 2 64 128 rfl rfl rfl (by omega) (by omega) (by omega),
    fld_of (hi := c0) (low := x0.toNat * 16384 + x1.toNat * 128 + c2 * 2 + x2.toNat) 2097152 32 67108864 rfl rfl rfl (by omega) (by omega) (by omega),
    bits_of (fld_of (hi := c0 * 32 + c1) (low := x1.toNat * 128 + c2 * 2 + x2.toNat) 16384 128 2097152 rfl rfl rfl (by omega) (by omega) (by omega)),
    bits_of (fld_of (hi := c0 * 4096 + c1 * 128 + x0.toNat) (low := c2 * 2 + x2.toNat) 128 128 16384 rfl rfl rfl (by omega) (by omega) (by omega)),
    bits_of (fld_of (hi := c0 * 33554432 + c1 * 1048576 + x0.toNat * 8192 + x1.toNat * 64 + c2) (low := 0) 1 2 2 rfl rfl rfl (by omega) (by omega) (by omega))⟩

theorem layout50 {n base : Nat} (c0 : Nat) (c1 : Nat) (c2 : Nat) (c3 : Nat) (x0 : BitVec 7) (x1 : BitVec 1) (hn : n = base + x0.toNat * 128 + x1.toNat)
    (hb : base = c0 * 67108864 + c1 * 2097152 + c2 * 16384 + c3 * 2 ∧ c0 < 64 ∧ c1 < 32 ∧ c2 < 128 ∧ c3 < 64) :
    n < 4294967296 ∧
    fld 26 6 n = c0 ∧
    fld 1 6 n = c3 ∧
    fld 14 7 n = c2 ∧
    fld 21 5 n = c1 ∧
    bits 7 7 n = x0 ∧
    bits 0 1 n = x1 := by
  have h0 := x0.isLt
  have h1 := x1.isLt
  obtain ⟨rfl, g0, g1, g2, g3⟩ := hb
  subst hn
  exact ⟨by omega,
    fld_of (hi := 0) (low := c1 * 2097152 + c2 * 16384 + x0.toNat * 128 + c3 * 2 + x1.toNat) 67108864 64 4294967296 rfl rfl rfl (by omega) (by omega) (by omega),
    fld_of (hi := c0 * 524288 + c1 * 16384 + c2 * 128 + x0.toNat) (low := x1.toNat) 2 64 128 rfl rfl rfl (by omega) (by omega) (by omega),
    fld_of (hi := c0 * 32 + c1) (low := x0.toNat * 128 + c3 * 2 + x1.toNat) 16384 128 2097152 rfl rfl rfl (by omega) (by omega) (by omega),
    fld_of (hi := c0) (low := c2 * 16384 + x0.toNat * 128 + c3 * 2 + x1.toNat) 2097152 32 67108864 rfl rfl rfl (by omega) (by omega) (by omega),
    bits_of (fld_of (hi := c0 * 4096 + c1 * 128 + c2) (low := c3 * 2 + x1.toNat) 128 128 16384 rfl rfl rfl (by omega) (by omega) (by omega)),
    bits_of (fld_of (hi := c0 * 33554432 + c1 * 1048576 + c2 * 8192 + x0.toNat * 64 + c3) (low := 0) 1 2 2 rfl rfl rfl (by omega) (by omega) (by omega))⟩

theorem layout51 {n base : Nat} (c0 : Nat) (c1 : Nat) (c2 : Nat) (x0 : BitVec 7) (x1 : BitVec 7) (x2 : BitVec 3) (hn : n = base + x0.toNat * 16384 + x1.toNat * 128 + x2.toNat)
    (hb : base = c0 * 67108864 + c1 * 2097152 + c2 * 8 ∧ c0 < 64 ∧ c1 < 32 ∧ c2 < 16) :
    n < 4294967296 ∧
    fld 26 6 n = c0 ∧
    fld 21 5 n = c1 ∧
    fld 3 4 n = c2 ∧
    bits 14 7 n = x0 ∧
    bits 7 7 n = x1 ∧
    bits 0 3 n = x2 := by
  have h0 := x0.isLt
  have h1 := x1.isLt
  have h2 := x2.isLt
  obtain ⟨rfl, g0, g1, g2⟩ := hb
  subst hn
  exact ⟨by omega,
    fld_of (hi := 0) (low := c1 * 2097152 + x0.toNat * 16384 + x1.toNat * 128 + c2 * 8 + x2.toNat) 67108864 64 4294967296 rfl rfl rfl (by omega) (by omega) (by omega),
    fld_of (hi := c0) (low := x0.toNat * 16384 + x1.toNat * 128 + c2 * 8 + x2.toNat) 2097152 32 67108864 rfl rfl rfl (by omega) (by omega) (by omega),
    fld_of (hi := c0 * 524288 + c1 * 16384 + x0.toNat * 128 + x1.toNat) (low := x2.toNat) 8 16 128 rfl rfl rfl (by omega) (by omega) (by omega),
    bits_of (fld_of (hi := c0 * 32 + c1) (low := x1.toNat * 128 + c2 * 8 + x2.toNat) 16384 128 2097152 rfl rfl rfl (by omega) (by omega) (by omega)),
    bits_of (fld_of (hi := c0 * 4096 + c1 * 128 + x0.toNat) (low := c2 * 8 + x2.toNat) 128 128 16384 rfl rfl rfl (by omega) (by omega) (by omega)),
    bits_of (fld_of (hi := c0 * 8388608 + c1 * 262144 + x0.toNat * 2048 + x1.toNat * 16 + c2) (low := 0) 1 8 8 rfl rfl rfl (by omega) (by omega) (by omega))⟩

theorem layout52 {n base : Nat} (c0 : Nat) (c1 : Nat) (c2 : Nat) (x0 : BitVec 7) (x1 : BitVec 2) (hn : n = base + x0.toNat * 16384 + x1.toNat)
    (hb : base = c0 * 67108864 + c1 * 2097152 + c2 * 4 ∧ c0 < 64 ∧ c1 < 32 ∧ c2 < 4096) :
    n < 4294967296 ∧
    fld 26 6 n = c0 ∧
    fld 2 12 n = c2 ∧
    fld 21 5 n = c1 ∧
    bits 14 7 n = x0 ∧
    bits 0 2 n = x1 := by
  have h0 := x0.isLt
  have h1 := x1.isLt
  obtain ⟨rfl, g0, g1, g2⟩ := hb
  subst hn
  exact ⟨by omega,
    fld_of (hi := 0) (low := c1 * 2097152 + x0.toNat * 16384 + c2 * 4 + x1.toNat) 67108864 64 4294967296 rfl rfl rfl (by omega) (by omega) (by omega),
    fld_of (hi := c0 * 4096 + c1 * 128 + x0.toNat) (low := x1.toNat) 4 4096 16384 rfl rfl rfl (by omega) (by omega) (by omega),
    fld_of (hi := c0) (low := x0.toNat * 16384 + c2 * 4 + x1.toNat) 2097152 32 67108864 rfl rfl rfl (by omega) (by omega) (by omega),
    bits_of (fld_of (hi := c0 * 32 + c1) (low := c2 * 4 + x1.toNat) 16384 128 2097152 rfl rfl rfl (by omega) (by omega) (by omega)),
    bits_of (fld_of (hi := c0 * 16777216 + c1 * 524288 + x0.toNat * 4096 + c2) (low := 0) 1 4 4 rfl rfl rfl (by omega) (by omega) (by omega))⟩

theorem nop : Statement (.nop) := by
  obtain ⟨hl, hm, e0, e1⟩ := layout0 (base := 0x00000000) 0 0 0 rfl (by decide)
  refine of_decode hl ((major0 hm).trans ?_) rfl
  unfold decodeSys
  rw [e0, e1]
  rfl

theorem exit : Statement (.exit) := by
  obtain ⟨hl, hm, e0, e1⟩ := layout0 (base := 0x00200000) 0 1 0 rfl (by decide)
  refine of_decode hl ((major0 hm).trans ?_) rfl
  unfold decodeSys
  rw [e0, e1]
  rfl

theorem trap (n : BitVec 7) : Statement (.trap n) := by
  obtain ⟨hl, hm, e0, e1, e2⟩ := layout1 (base := 0x00400000) 0 2 0 n rfl (by decide)
  refine of_decode hl ((major0 hm).trans ?_) rfl
  unfold decodeSys
  rw [e0, e1, e2]
  rfl

theorem eret : Statement (.eret) := by
  obtain ⟨hl, hm, e0, e1⟩ := layout0 (base := 0x00600000) 0 3 0 rfl (by decide)
  refine of_decode hl ((major0 hm).trans ?_) rfl
  unfold decodeSys
  rw [e0, e1]
  rfl

theorem brk (n : BitVec 7) : Statement (.brk n) := by
  obtain ⟨hl, hm, e0, e1, e2⟩ := layout1 (base := 0x00800000) 0 4 0 n rfl (by decide)
  refine of_decode hl ((major0 hm).trans ?_) rfl
  unfold decodeSys
  rw [e0, e1, e2]
  rfl

theorem mark (im : BitVec 14) : Statement (.mark im) := by
  obtain ⟨hl, hm, e0, e1, e2⟩ := layout2 (base := 0x00A00000) 0 5 0 im rfl (by decide)
  refine of_decode hl ((major0 hm).trans ?_) rfl
  unfold decodeSys
  rw [e0, e1, e2]
  rfl

theorem fence (o : BitVec 2) (s : BitVec 2) : Statement (.fence o s) := by
  obtain ⟨hl, hm, e0, e1, e2, e3, e4⟩ := layout3 (base := 0x00C00000) 0 6 0 0 o s rfl (by decide)
  refine of_decode hl ((major0 hm).trans ?_) rfl
  unfold decodeSys
  rw [e0, e1, e2, e3, e4]
  rfl

theorem fencex (p : BitVec 3) (q : BitVec 3) (s : BitVec 2) : Statement (.fencex p q s) := by
  obtain ⟨hl, hm, e0, e1, e2, e3, e4, e5, e6⟩ := layout4 (base := 0x00E00000) 0 7 0 0 0 p q s rfl (by decide)
  refine of_decode hl ((major0 hm).trans ?_) rfl
  unfold decodeSys
  rw [e0, e1, e2, e3, e4, e5, e6]
  rfl

theorem yield : Statement (.yield) := by
  obtain ⟨hl, hm, e0, e1⟩ := layout0 (base := 0x01000000) 0 8 0 rfl (by decide)
  refine of_decode hl ((major0 hm).trans ?_) rfl
  unfold decodeSys
  rw [e0, e1]
  rfl

theorem yieldc (n : BitVec 6) : Statement (.yieldc n) := by
  obtain ⟨hl, hm, e0, e1, e2⟩ := layout5 (base := 0x01200000) 0 9 0 n rfl (by decide)
  refine of_decode hl ((major0 hm).trans ?_) rfl
  unfold decodeSys
  rw [e0, e1, e2]
  rfl

theorem window (n : BitVec 3) : Statement (.window n) := by
  obtain ⟨hl, hm, e0, e1, e2⟩ := layout6 (base := 0x01400000) 0 10 0 n rfl (by decide)
  refine of_decode hl ((major0 hm).trans ?_) rfl
  unfold decodeSys
  rw [e0, e1, e2]
  rfl

theorem donate (d : BitVec 1) (a : BitVec 5) (k : BitVec 3) : Statement (.donate d a k) := by
  obtain ⟨hl, hm, e0, e1, e2, e3, e4, e5, e6⟩ := layout7 (base := 0x01600000) 0 11 0 0 0 d a k rfl (by decide)
  refine of_decode hl ((major0 hm).trans ?_) rfl
  unfold decodeSys
  rw [e0, e1, e2, e3, e4, e5, e6]
  rfl

theorem bar (n : BitVec 4) (c : BitVec 7) : Statement (.bar n c) := by
  obtain ⟨hl, hm, e0, e1, e2, e3⟩ := layout8 (base := 0x01800000) 0 12 0 n c rfl (by decide)
  refine of_decode hl ((major0 hm).trans ?_) rfl
  unfold decodeSys
  rw [e0, e1, e2, e3]
  rfl

theorem bara (d : BitVec 7) (n : BitVec 4) (c : BitVec 7) : Statement (.bara d n c) := by
  obtain ⟨hl, hm, e0, e1, e2, e3, e4⟩ := layout9 (base := 0x01A00000) 0 13 0 d n c rfl (by decide)
  refine of_decode hl ((major0 hm).trans ?_) rfl
  unfold decodeSys
  rw [e0, e1, e2, e3, e4]
  rfl

theorem barw (n : BitVec 4) (b : BitVec 7) : Statement (.barw n b) := by
  obtain ⟨hl, hm, e0, e1, e2, e3⟩ := layout8 (base := 0x01C00000) 0 14 0 n b rfl (by decide)
  refine of_decode hl ((major0 hm).trans ?_) rfl
  unfold decodeSys
  rw [e0, e1, e2, e3]
  rfl

theorem waita (a : BitVec 7) (b : BitVec 7) : Statement (.waita a b) := by
  obtain ⟨hl, hm, e0, e1, e2, e3⟩ := layout10 (base := 0x01E00000) 0 15 0 a b rfl (by decide)
  refine of_decode hl ((major0 hm).trans ?_) rfl
  unfold decodeSys
  rw [e0, e1, e2, e3]
  rfl

theorem wakea (a : BitVec 7) : Statement (.wakea a) := by
  obtain ⟨hl, hm, e0, e1, e2, e3⟩ := layout11 (base := 0x02000000) 0 16 0 0 a rfl (by decide)
  refine of_decode hl ((major0 hm).trans ?_) rfl
  unfold decodeSys
  rw [e0, e1, e2, e3]
  rfl

theorem haltg (a : BitVec 7) : Statement (.haltg a) := by
  obtain ⟨hl, hm, e0, e1, e2, e3⟩ := layout11 (base := 0x02200000) 0 17 0 0 a rfl (by decide)
  refine of_decode hl ((major0 hm).trans ?_) rfl
  unfold decodeSys
  rw [e0, e1, e2, e3]
  rfl

theorem haltgRes (a : BitVec 7) : Statement (.haltgRes a) := by
  obtain ⟨hl, hm, e0, e1, e2, e3⟩ := layout11 (base := 0x02204000) 0 17 1 0 a rfl (by decide)
  refine of_decode hl ((major0 hm).trans ?_) rfl
  unfold decodeSys
  rw [e0, e1, e2, e3]
  rfl

theorem mbatch (n : BitVec 3) : Statement (.mbatch n) := by
  obtain ⟨hl, hm, e0, e1, e2⟩ := layout6 (base := 0x02400000) 0 18 0 n rfl (by decide)
  refine of_decode hl ((major0 hm).trans ?_) rfl
  unfold decodeSys
  rw [e0, e1, e2]
  rfl

theorem mwait (n : BitVec 3) : Statement (.mwait n) := by
  obtain ⟨hl, hm, e0, e1, e2⟩ := layout6 (base := 0x02600000) 0 19 0 n rfl (by decide)
  refine of_decode hl ((major0 hm).trans ?_) rfl
  unfold decodeSys
  rw [e0, e1, e2]
  rfl

theorem sadd (d : BitVec 7) (a : BitVec 7) (b : BitVec 7) : Statement (.sadd d a b) := by
  obtain ⟨hl, hm, e0, e1, e2, e3⟩ := layout12 (base := 0x04000000) 1 0 d a b rfl (by decide)
  refine of_decode hl ((major1 hm).trans ?_) rfl
  unfold decodeSalu
  rw [e0, e1, e2, e3]
  rfl

theorem ssub (d : BitVec 7) (a : BitVec 7) (b : BitVec 7) : Statement (.ssub d a b) := by
  obtain ⟨hl, hm, e0, e1, e2, e3⟩ := layout12 (base := 0x04200000) 1 1 d a b rfl (by decide)
  refine of_decode hl ((major1 hm).trans ?_) rfl
  unfold decodeSalu
  rw [e0, e1, e2, e3]
  rfl

theorem smul (d : BitVec 7) (a : BitVec 7) (b : BitVec 7) : Statement (.smul d a b) := by
  obtain ⟨hl, hm, e0, e1, e2, e3⟩ := layout12 (base := 0x04400000) 1 2 d a b rfl (by decide)
  refine of_decode hl ((major1 hm).trans ?_) rfl
  unfold decodeSalu
  rw [e0, e1, e2, e3]
  rfl

theorem smulh (d : BitVec 7) (a : BitVec 7) (b : BitVec 7) : Statement (.smulh d a b) := by
  obtain ⟨hl, hm, e0, e1, e2, e3⟩ := layout12 (base := 0x04600000) 1 3 d a b rfl (by decide)
  refine of_decode hl ((major1 hm).trans ?_) rfl
  unfold decodeSalu
  rw [e0, e1, e2, e3]
  rfl

theorem smulhu (d : BitVec 7) (a : BitVec 7) (b : BitVec 7) : Statement (.smulhu d a b) := by
  obtain ⟨hl, hm, e0, e1, e2, e3⟩ := layout12 (base := 0x04800000) 1 4 d a b rfl (by decide)
  refine of_decode hl ((major1 hm).trans ?_) rfl
  unfold decodeSalu
  rw [e0, e1, e2, e3]
  rfl

theorem sdiv (d : BitVec 7) (a : BitVec 7) (b : BitVec 7) : Statement (.sdiv d a b) := by
  obtain ⟨hl, hm, e0, e1, e2, e3⟩ := layout12 (base := 0x04A00000) 1 5 d a b rfl (by decide)
  refine of_decode hl ((major1 hm).trans ?_) rfl
  unfold decodeSalu
  rw [e0, e1, e2, e3]
  rfl

theorem sdivu (d : BitVec 7) (a : BitVec 7) (b : BitVec 7) : Statement (.sdivu d a b) := by
  obtain ⟨hl, hm, e0, e1, e2, e3⟩ := layout12 (base := 0x04C00000) 1 6 d a b rfl (by decide)
  refine of_decode hl ((major1 hm).trans ?_) rfl
  unfold decodeSalu
  rw [e0, e1, e2, e3]
  rfl

theorem srem (d : BitVec 7) (a : BitVec 7) (b : BitVec 7) : Statement (.srem d a b) := by
  obtain ⟨hl, hm, e0, e1, e2, e3⟩ := layout12 (base := 0x04E00000) 1 7 d a b rfl (by decide)
  refine of_decode hl ((major1 hm).trans ?_) rfl
  unfold decodeSalu
  rw [e0, e1, e2, e3]
  rfl

theorem sremu (d : BitVec 7) (a : BitVec 7) (b : BitVec 7) : Statement (.sremu d a b) := by
  obtain ⟨hl, hm, e0, e1, e2, e3⟩ := layout12 (base := 0x05000000) 1 8 d a b rfl (by decide)
  refine of_decode hl ((major1 hm).trans ?_) rfl
  unfold decodeSalu
  rw [e0, e1, e2, e3]
  rfl

theorem sand (d : BitVec 7) (a : BitVec 7) (b : BitVec 7) : Statement (.sand d a b) := by
  obtain ⟨hl, hm, e0, e1, e2, e3⟩ := layout12 (base := 0x05200000) 1 9 d a b rfl (by decide)
  refine of_decode hl ((major1 hm).trans ?_) rfl
  unfold decodeSalu
  rw [e0, e1, e2, e3]
  rfl

theorem sor (d : BitVec 7) (a : BitVec 7) (b : BitVec 7) : Statement (.sor d a b) := by
  obtain ⟨hl, hm, e0, e1, e2, e3⟩ := layout12 (base := 0x05400000) 1 10 d a b rfl (by decide)
  refine of_decode hl ((major1 hm).trans ?_) rfl
  unfold decodeSalu
  rw [e0, e1, e2, e3]
  rfl

theorem sxor (d : BitVec 7) (a : BitVec 7) (b : BitVec 7) : Statement (.sxor d a b) := by
  obtain ⟨hl, hm, e0, e1, e2, e3⟩ := layout12 (base := 0x05600000) 1 11 d a b rfl (by decide)
  refine of_decode hl ((major1 hm).trans ?_) rfl
  unfold decodeSalu
  rw [e0, e1, e2, e3]
  rfl

theorem sandn (d : BitVec 7) (a : BitVec 7) (b : BitVec 7) : Statement (.sandn d a b) := by
  obtain ⟨hl, hm, e0, e1, e2, e3⟩ := layout12 (base := 0x05800000) 1 12 d a b rfl (by decide)
  refine of_decode hl ((major1 hm).trans ?_) rfl
  unfold decodeSalu
  rw [e0, e1, e2, e3]
  rfl

theorem sshl (d : BitVec 7) (a : BitVec 7) (b : BitVec 7) : Statement (.sshl d a b) := by
  obtain ⟨hl, hm, e0, e1, e2, e3⟩ := layout12 (base := 0x05A00000) 1 13 d a b rfl (by decide)
  refine of_decode hl ((major1 hm).trans ?_) rfl
  unfold decodeSalu
  rw [e0, e1, e2, e3]
  rfl

theorem sshr (d : BitVec 7) (a : BitVec 7) (b : BitVec 7) : Statement (.sshr d a b) := by
  obtain ⟨hl, hm, e0, e1, e2, e3⟩ := layout12 (base := 0x05C00000) 1 14 d a b rfl (by decide)
  refine of_decode hl ((major1 hm).trans ?_) rfl
  unfold decodeSalu
  rw [e0, e1, e2, e3]
  rfl

theorem ssra (d : BitVec 7) (a : BitVec 7) (b : BitVec 7) : Statement (.ssra d a b) := by
  obtain ⟨hl, hm, e0, e1, e2, e3⟩ := layout12 (base := 0x05E00000) 1 15 d a b rfl (by decide)
  refine of_decode hl ((major1 hm).trans ?_) rfl
  unfold decodeSalu
  rw [e0, e1, e2, e3]
  rfl

theorem smin (d : BitVec 7) (a : BitVec 7) (b : BitVec 7) : Statement (.smin d a b) := by
  obtain ⟨hl, hm, e0, e1, e2, e3⟩ := layout12 (base := 0x06000000) 1 16 d a b rfl (by decide)
  refine of_decode hl ((major1 hm).trans ?_) rfl
  unfold decodeSalu
  rw [e0, e1, e2, e3]
  rfl

theorem smax (d : BitVec 7) (a : BitVec 7) (b : BitVec 7) : Statement (.smax d a b) := by
  obtain ⟨hl, hm, e0, e1, e2, e3⟩ := layout12 (base := 0x06200000) 1 17 d a b rfl (by decide)
  refine of_decode hl ((major1 hm).trans ?_) rfl
  unfold decodeSalu
  rw [e0, e1, e2, e3]
  rfl

theorem sminu (d : BitVec 7) (a : BitVec 7) (b : BitVec 7) : Statement (.sminu d a b) := by
  obtain ⟨hl, hm, e0, e1, e2, e3⟩ := layout12 (base := 0x06400000) 1 18 d a b rfl (by decide)
  refine of_decode hl ((major1 hm).trans ?_) rfl
  unfold decodeSalu
  rw [e0, e1, e2, e3]
  rfl

theorem smaxu (d : BitVec 7) (a : BitVec 7) (b : BitVec 7) : Statement (.smaxu d a b) := by
  obtain ⟨hl, hm, e0, e1, e2, e3⟩ := layout12 (base := 0x06600000) 1 19 d a b rfl (by decide)
  refine of_decode hl ((major1 hm).trans ?_) rfl
  unfold decodeSalu
  rw [e0, e1, e2, e3]
  rfl

theorem scmp (a : BitVec 7) (b : BitVec 7) : Statement (.scmp a b) := by
  obtain ⟨hl, hm, e0, e1, e2, e3⟩ := layout10 (base := 0x06800000) 1 20 0 a b rfl (by decide)
  refine of_decode hl ((major1 hm).trans ?_) rfl
  unfold decodeSalu
  rw [e0, e1, e2, e3]
  rfl

theorem scmpu (a : BitVec 7) (b : BitVec 7) : Statement (.scmpu a b) := by
  obtain ⟨hl, hm, e0, e1, e2, e3⟩ := layout10 (base := 0x06A00000) 1 21 0 a b rfl (by decide)
  refine of_decode hl ((major1 hm).trans ?_) rfl
  unfold decodeSalu
  rw [e0, e1, e2, e3]
  rfl

theorem ssel (d : BitVec 7) (a : BitVec 7) (b : BitVec 7) : Statement (.ssel d a b) := by
  obtain ⟨hl, hm, e0, e1, e2, e3⟩ := layout12 (base := 0x06C00000) 1 22 d a b rfl (by decide)
  refine of_decode hl ((major1 hm).trans ?_) rfl
  unfold decodeSalu
  rw [e0, e1, e2, e3]
  rfl

theorem spopc (d : BitVec 7) (a : BitVec 7) : Statement (.spopc d a) := by
  obtain ⟨hl, hm, e0, e1, e2, e3⟩ := layout13 (base := 0x06E00000) 1 23 0 d a rfl (by decide)
  refine of_decode hl ((major1 hm).trans ?_) rfl
  unfold decodeSalu
  rw [e0, e1, e2, e3]
  rfl

theorem sclz (d : BitVec 7) (a : BitVec 7) : Statement (.sclz d a) := by
  obtain ⟨hl, hm, e0, e1, e2, e3⟩ := layout13 (base := 0x07000000) 1 24 0 d a rfl (by decide)
  refine of_decode hl ((major1 hm).trans ?_) rfl
  unfold decodeSalu
  rw [e0, e1, e2, e3]
  rfl

theorem sctz (d : BitVec 7) (a : BitVec 7) : Statement (.sctz d a) := by
  obtain ⟨hl, hm, e0, e1, e2, e3⟩ := layout13 (base := 0x07200000) 1 25 0 d a rfl (by decide)
  refine of_decode hl ((major1 hm).trans ?_) rfl
  unfold decodeSalu
  rw [e0, e1, e2, e3]
  rfl

theorem sbrev (d : BitVec 7) (a : BitVec 7) : Statement (.sbrev d a) := by
  obtain ⟨hl, hm, e0, e1, e2, e3⟩ := layout13 (base := 0x07400000) 1 26 0 d a rfl (by decide)
  refine of_decode hl ((major1 hm).trans ?_) rfl
  unfold decodeSalu
  rw [e0, e1, e2, e3]
  rfl

theorem sbfe (d : BitVec 7) (a : BitVec 7) (b : BitVec 7) : Statement (.sbfe d a b) := by
  obtain ⟨hl, hm, e0, e1, e2, e3⟩ := layout12 (base := 0x07600000) 1 27 d a b rfl (by decide)
  refine of_decode hl ((major1 hm).trans ?_) rfl
  unfold decodeSalu
  rw [e0, e1, e2, e3]
  rfl

theorem sbfi (d : BitVec 7) (a : BitVec 7) (b : BitVec 7) : Statement (.sbfi d a b) := by
  obtain ⟨hl, hm, e0, e1, e2, e3⟩ := layout12 (base := 0x07800000) 1 28 d a b rfl (by decide)
  refine of_decode hl ((major1 hm).trans ?_) rfl
  unfold decodeSalu
  rw [e0, e1, e2, e3]
  rfl

theorem saddi (d : BitVec 7) (a : BitVec 7) (im : BitVec 12) : Statement (.saddi d a im) := by
  obtain ⟨hl, hm, e0, e1, e2⟩ := layout14 (base := 0x08000000) 2 d a im rfl (by decide)
  refine of_decode hl ((major2 hm).trans ?_) rfl
  unfold decodeSaddi
  rw [e0, e1, e2]

theorem sandi (d : BitVec 7) (a : BitVec 7) (im : BitVec 12) : Statement (.sandi d a im) := by
  obtain ⟨hl, hm, e0, e1, e2⟩ := layout14 (base := 0x0C000000) 3 d a im rfl (by decide)
  refine of_decode hl ((major3 hm).trans ?_) rfl
  unfold decodeSandi
  rw [e0, e1, e2]

theorem sori (d : BitVec 7) (a : BitVec 7) (im : BitVec 12) : Statement (.sori d a im) := by
  obtain ⟨hl, hm, e0, e1, e2⟩ := layout14 (base := 0x10000000) 4 d a im rfl (by decide)
  refine of_decode hl ((major4 hm).trans ?_) rfl
  unfold decodeSori
  rw [e0, e1, e2]

theorem sxori (d : BitVec 7) (a : BitVec 7) (im : BitVec 12) : Statement (.sxori d a im) := by
  obtain ⟨hl, hm, e0, e1, e2⟩ := layout14 (base := 0x14000000) 5 d a im rfl (by decide)
  refine of_decode hl ((major5 hm).trans ?_) rfl
  unfold decodeSxori
  rw [e0, e1, e2]

theorem sshli (d : BitVec 7) (a : BitVec 7) (n : BitVec 6) : Statement (.sshli d a n) := by
  obtain ⟨hl, hm, e0, e1, e2, e3⟩ := layout15 (base := 0x18000000) 6 0 d a n rfl (by decide)
  refine of_decode hl ((major6 hm).trans ?_) rfl
  unfold decodeSshi
  rw [e0, e1, e2, e3]
  rfl

theorem sshri (d : BitVec 7) (a : BitVec 7) (n : BitVec 6) : Statement (.sshri d a n) := by
  obtain ⟨hl, hm, e0, e1, e2, e3⟩ := layout15 (base := 0x18000040) 6 1 d a n rfl (by decide)
  refine of_decode hl ((major6 hm).trans ?_) rfl
  unfold decodeSshi
  rw [e0, e1, e2, e3]
  rfl

theorem ssrai (d : BitVec 7) (a : BitVec 7) (n : BitVec 6) : Statement (.ssrai d a n) := by
  obtain ⟨hl, hm, e0, e1, e2, e3⟩ := layout15 (base := 0x18000080) 6 2 d a n rfl (by decide)
  refine of_decode hl ((major6 hm).trans ?_) rfl
  unfold decodeSshi
  rw [e0, e1, e2, e3]
  rfl

theorem scmpi (a : BitVec 7) (im : BitVec 12) : Statement (.scmpi a im) := by
  obtain ⟨hl, hm, e0, e1, e2⟩ := layout16 (base := 0x1C000000) 7 0 a im rfl (by decide)
  refine of_decode hl ((major7 hm).trans ?_) rfl
  unfold decodeScmpi
  rw [e0, e1, e2]
  rfl

theorem scmpiu (a : BitVec 7) (im : BitVec 12) : Statement (.scmpiu a im) := by
  obtain ⟨hl, hm, e0, e1, e2⟩ := layout16 (base := 0x1C080000) 7 1 a im rfl (by decide)
  refine of_decode hl ((major7 hm).trans ?_) rfl
  unfold decodeScmpi
  rw [e0, e1, e2]
  rfl

theorem sli (d : BitVec 7) (z : BitVec 1) (h : BitVec 2) (im : BitVec 16) : Statement (.sli d z h im) := by
  obtain ⟨hl, hm, e0, e1, e2, e3⟩ := layout17 (base := 0x20000000) 8 d z h im rfl (by decide)
  refine of_decode hl ((major8 hm).trans ?_) rfl
  unfold decodeSli
  rw [e0, e1, e2, e3]

theorem sld (d : BitVec 7) (a : BitVec 7) (w : BitVec 2) (o : BitVec 2) (s : BitVec 2) (n : BitVec 4) : Statement (.sld d a w o s n) := by
  obtain ⟨hl, hm, e0, e1, e2, e3, e4, e5, e6⟩ := layout18 (base := 0x24000000) 9 0 d a w o s n rfl (by decide)
  refine of_decode hl ((major9 hm).trans ?_) rfl
  unfold decodeSld
  rw [e0, e1, e2, e3, e4, e5, e6]
  rfl

theorem sst (d : BitVec 7) (a : BitVec 7) (w : BitVec 2) (o : BitVec 2) (s : BitVec 2) (n : BitVec 4) : Statement (.sst d a w o s n) := by
  obtain ⟨hl, hm, e0, e1, e2, e3, e4, e5, e6⟩ := layout18 (base := 0x28000000) 10 0 d a w o s n rfl (by decide)
  refine of_decode hl ((major10 hm).trans ?_) rfl
  unfold decodeSst
  rw [e0, e1, e2, e3, e4, e5, e6]
  rfl

theorem smfs (d : BitVec 7) (a : BitVec 7) : Statement (.smfs d a) := by
  obtain ⟨hl, hm, e0, e1, e2, e3⟩ := layout13 (base := 0x2C000000) 11 0 0 d a rfl (by decide)
  refine of_decode hl ((major11 hm).trans ?_) rfl
  unfold decodeSmov
  rw [e0, e1, e2, e3]
  rfl

theorem smts (d : BitVec 7) (a : BitVec 7) : Statement (.smts d a) := by
  obtain ⟨hl, hm, e0, e1, e2, e3⟩ := layout13 (base := 0x2C200000) 11 1 0 d a rfl (by decide)
  refine of_decode hl ((major11 hm).trans ?_) rfl
  unfold decodeSmov
  rw [e0, e1, e2, e3]
  rfl

theorem smfk (d : BitVec 7) (a : BitVec 3) : Statement (.smfk d a) := by
  obtain ⟨hl, hm, e0, e1, e2, e3, e4⟩ := layout19 (base := 0x2C400000) 11 2 0 0 d a rfl (by decide)
  refine of_decode hl ((major11 hm).trans ?_) rfl
  unfold decodeSmov
  rw [e0, e1, e2, e3, e4]
  rfl

theorem smtk (d : BitVec 3) (a : BitVec 7) : Statement (.smtk d a) := by
  obtain ⟨hl, hm, e0, e1, e2, e3, e4⟩ := layout20 (base := 0x2C600000) 11 3 0 0 d a rfl (by decide)
  refine of_decode hl ((major11 hm).trans ?_) rfl
  unfold decodeSmov
  rw [e0, e1, e2, e3, e4]
  rfl

theorem b (c : BitVec 5) (f : BitVec 21) : Statement (.b c f) := by
  obtain ⟨hl, hm, e0, e1⟩ := layout21 (base := 0x30000000) 12 c f rfl (by decide)
  refine of_decode hl ((major12 hm).trans ?_) rfl
  unfold decodeB
  rw [e0, e1]

theorem call (f : BitVec 26) : Statement (.call f) := by
  obtain ⟨hl, hm, e0⟩ := layout22 (base := 0x34000000) 13 f rfl (by decide)
  refine of_decode hl ((major13 hm).trans ?_) rfl
  unfold decodeCall
  rw [e0]

theorem jr (a : BitVec 7) : Statement (.jr a) := by
  obtain ⟨hl, hm, e0, e1, e2, e3⟩ := layout11 (base := 0x38000000) 14 0 0 0 a rfl (by decide)
  refine of_decode hl ((major14 hm).trans ?_) rfl
  unfold decodeJmpr
  rw [e0, e1, e2, e3]
  rfl

theorem callr (a : BitVec 7) : Statement (.callr a) := by
  obtain ⟨hl, hm, e0, e1, e2, e3⟩ := layout11 (base := 0x38200000) 14 1 0 0 a rfl (by decide)
  refine of_decode hl ((major14 hm).trans ?_) rfl
  unfold decodeJmpr
  rw [e0, e1, e2, e3]
  rfl

theorem ret : Statement (.ret) := by
  obtain ⟨hl, hm, e0, e1⟩ := layout0 (base := 0x38400000) 14 2 0 rfl (by decide)
  refine of_decode hl ((major14 hm).trans ?_) rfl
  unfold decodeJmpr
  rw [e0, e1]
  rfl

theorem kand (d : BitVec 3) (a : BitVec 3) (b : BitVec 3) : Statement (.kand d a b) := by
  obtain ⟨hl, hm, e0, e1, e2, e3, e4, e5, e6⟩ := layout23 (base := 0x3C000000) 15 0 0 0 0 d a b rfl (by decide)
  refine of_decode hl ((major15 hm).trans ?_) rfl
  unfold decodeMask
  rw [e0, e1, e2, e3, e4, e5, e6]
  rfl

theorem kor (d : BitVec 3) (a : BitVec 3) (b : BitVec 3) : Statement (.kor d a b) := by
  obtain ⟨hl, hm, e0, e1, e2, e3, e4, e5, e6⟩ := layout23 (base := 0x3C200000) 15 1 0 0 0 d a b rfl (by decide)
  refine of_decode hl ((major15 hm).trans ?_) rfl
  unfold decodeMask
  rw [e0, e1, e2, e3, e4, e5, e6]
  rfl

theorem kxor (d : BitVec 3) (a : BitVec 3) (b : BitVec 3) : Statement (.kxor d a b) := by
  obtain ⟨hl, hm, e0, e1, e2, e3, e4, e5, e6⟩ := layout23 (base := 0x3C400000) 15 2 0 0 0 d a b rfl (by decide)
  refine of_decode hl ((major15 hm).trans ?_) rfl
  unfold decodeMask
  rw [e0, e1, e2, e3, e4, e5, e6]
  rfl

theorem kandn (d : BitVec 3) (a : BitVec 3) (b : BitVec 3) : Statement (.kandn d a b) := by
  obtain ⟨hl, hm, e0, e1, e2, e3, e4, e5, e6⟩ := layout23 (base := 0x3C600000) 15 3 0 0 0 d a b rfl (by decide)
  refine of_decode hl ((major15 hm).trans ?_) rfl
  unfold decodeMask
  rw [e0, e1, e2, e3, e4, e5, e6]
  rfl

theorem knot (d : BitVec 3) (a : BitVec 3) : Statement (.knot d a) := by
  obtain ⟨hl, hm, e0, e1, e2, e3, e4, e5⟩ := layout24 (base := 0x3C800000) 15 4 0 0 0 d a rfl (by decide)
  refine of_decode hl ((major15 hm).trans ?_) rfl
  unfold decodeMask
  rw [e0, e1, e2, e3, e4, e5]
  rfl

theorem kmov (d : BitVec 3) (a : BitVec 3) : Statement (.kmov d a) := by
  obtain ⟨hl, hm, e0, e1, e2, e3, e4, e5⟩ := layout24 (base := 0x3CA00000) 15 5 0 0 0 d a rfl (by decide)
  refine of_decode hl ((major15 hm).trans ?_) rfl
  unfold decodeMask
  rw [e0, e1, e2, e3, e4, e5]
  rfl

theorem kpopc (d : BitVec 7) (a : BitVec 3) : Statement (.kpopc d a) := by
  obtain ⟨hl, hm, e0, e1, e2, e3, e4⟩ := layout19 (base := 0x3CC00000) 15 6 0 0 d a rfl (by decide)
  refine of_decode hl ((major15 hm).trans ?_) rfl
  unfold decodeMask
  rw [e0, e1, e2, e3, e4]
  rfl

theorem kffs (d : BitVec 7) (a : BitVec 3) : Statement (.kffs d a) := by
  obtain ⟨hl, hm, e0, e1, e2, e3, e4⟩ := layout19 (base := 0x3CE00000) 15 7 0 0 d a rfl (by decide)
  refine of_decode hl ((major15 hm).trans ?_) rfl
  unfold decodeMask
  rw [e0, e1, e2, e3, e4]
  rfl

theorem kfroms (d : BitVec 3) (a : BitVec 7) (b : BitVec 7) : Statement (.kfroms d a b) := by
  obtain ⟨hl, hm, e0, e1, e2, e3, e4⟩ := layout25 (base := 0x3D000000) 15 8 0 d a b rfl (by decide)
  refine of_decode hl ((major15 hm).trans ?_) rfl
  unfold decodeMask
  rw [e0, e1, e2, e3, e4]
  rfl

theorem ktos (d : BitVec 7) (a : BitVec 3) (b : BitVec 7) : Statement (.ktos d a b) := by
  obtain ⟨hl, hm, e0, e1, e2, e3, e4⟩ := layout26 (base := 0x3D200000) 15 9 0 d a b rfl (by decide)
  refine of_decode hl ((major15 hm).trans ?_) rfl
  unfold decodeMask
  rw [e0, e1, e2, e3, e4]
  rfl

theorem kall (d : BitVec 3) (b : BitVec 7) : Statement (.kall d b) := by
  obtain ⟨hl, hm, e0, e1, e2, e3, e4⟩ := layout27 (base := 0x3D400000) 15 10 0 0 d b rfl (by decide)
  refine of_decode hl ((major15 hm).trans ?_) rfl
  unfold decodeMask
  rw [e0, e1, e2, e3, e4]
  rfl

theorem wait (l : BitVec 6) (s : BitVec 6) (c : BitVec 6) (t : BitVec 6) : Statement (.wait l s c t) := by
  obtain ⟨hl, hm, e0, e1, e2, e3, e4⟩ := layout28 (base := 0xF8000000) 62 0 l s c t rfl (by decide)
  refine of_decode hl ((major62 hm).trans ?_) rfl
  unfold decodeWait
  rw [e0, e1, e2, e3, e4]
  rfl

theorem vadd (g : BitVec 2) (d : BitVec 7) (a : BitVec 7) (b : BitVec 7) : Statement (.vadd g d a b) := by
  obtain ⟨hl, hm, e0, e1, e2, e3, e4⟩ := layout29 (base := 0x40000000) 16 0 g d a b rfl (by decide)
  refine of_decode hl ((major16 hm).trans ?_) rfl
  unfold decodeVia
  rw [e0, e1, e2, e3, e4]
  rfl

theorem vsub (g : BitVec 2) (d : BitVec 7) (a : BitVec 7) (b : BitVec 7) : Statement (.vsub g d a b) := by
  obtain ⟨hl, hm, e0, e1, e2, e3, e4⟩ := layout29 (base := 0x40200000) 16 1 g d a b rfl (by decide)
  refine of_decode hl ((major16 hm).trans ?_) rfl
  unfold decodeVia
  rw [e0, e1, e2, e3, e4]
  rfl

theorem vmul (g : BitVec 2) (d : BitVec 7) (a : BitVec 7) (b : BitVec 7) : Statement (.vmul g d a b) := by
  obtain ⟨hl, hm, e0, e1, e2, e3, e4⟩ := layout29 (base := 0x40400000) 16 2 g d a b rfl (by decide)
  refine of_decode hl ((major16 hm).trans ?_) rfl
  unfold decodeVia
  rw [e0, e1, e2, e3, e4]
  rfl

theorem vmulh (g : BitVec 2) (d : BitVec 7) (a : BitVec 7) (b : BitVec 7) : Statement (.vmulh g d a b) := by
  obtain ⟨hl, hm, e0, e1, e2, e3, e4⟩ := layout29 (base := 0x40600000) 16 3 g d a b rfl (by decide)
  refine of_decode hl ((major16 hm).trans ?_) rfl
  unfold decodeVia
  rw [e0, e1, e2, e3, e4]
  rfl

theorem vmulhu (g : BitVec 2) (d : BitVec 7) (a : BitVec 7) (b : BitVec 7) : Statement (.vmulhu g d a b) := by
  obtain ⟨hl, hm, e0, e1, e2, e3, e4⟩ := layout29 (base := 0x40800000) 16 4 g d a b rfl (by decide)
  refine of_decode hl ((major16 hm).trans ?_) rfl
  unfold decodeVia
  rw [e0, e1, e2, e3, e4]
  rfl

theorem vmin (g : BitVec 2) (d : BitVec 7) (a : BitVec 7) (b : BitVec 7) : Statement (.vmin g d a b) := by
  obtain ⟨hl, hm, e0, e1, e2, e3, e4⟩ := layout29 (base := 0x40A00000) 16 5 g d a b rfl (by decide)
  refine of_decode hl ((major16 hm).trans ?_) rfl
  unfold decodeVia
  rw [e0, e1, e2, e3, e4]
  rfl

theorem vmax (g : BitVec 2) (d : BitVec 7) (a : BitVec 7) (b : BitVec 7) : Statement (.vmax g d a b) := by
  obtain ⟨hl, hm, e0, e1, e2, e3, e4⟩ := layout29 (base := 0x40C00000) 16 6 g d a b rfl (by decide)
  refine of_decode hl ((major16 hm).trans ?_) rfl
  unfold decodeVia
  rw [e0, e1, e2, e3, e4]
  rfl

theorem vminu (g : BitVec 2) (d : BitVec 7) (a : BitVec 7) (b : BitVec 7) : Statement (.vminu g d a b) := by
  obtain ⟨hl, hm, e0, e1, e2, e3, e4⟩ := layout29 (base := 0x40E00000) 16 7 g d a b rfl (by decide)
  refine of_decode hl ((major16 hm).trans ?_) rfl
  unfold decodeVia
  rw [e0, e1, e2, e3, e4]
  rfl

theorem vmaxu (g : BitVec 2) (d : BitVec 7) (a : BitVec 7) (b : BitVec 7) : Statement (.vmaxu g d a b) := by
  obtain ⟨hl, hm, e0, e1, e2, e3, e4⟩ := layout29 (base := 0x44000000) 17 0 g d a b rfl (by decide)
  refine of_decode hl ((major17 hm).trans ?_) rfl
  unfold decodeVib
  rw [e0, e1, e2, e3, e4]
  rfl

theorem vand (g : BitVec 2) (d : BitVec 7) (a : BitVec 7) (b : BitVec 7) : Statement (.vand g d a b) := by
  obtain ⟨hl, hm, e0, e1, e2, e3, e4⟩ := layout29 (base := 0x44200000) 17 1 g d a b rfl (by decide)
  refine of_decode hl ((major17 hm).trans ?_) rfl
  unfold decodeVib
  rw [e0, e1, e2, e3, e4]
  rfl

theorem vor (g : BitVec 2) (d : BitVec 7) (a : BitVec 7) (b : BitVec 7) : Statement (.vor g d a b) := by
  obtain ⟨hl, hm, e0, e1, e2, e3, e4⟩ := layout29 (base := 0x44400000) 17 2 g d a b rfl (by decide)
  refine of_decode hl ((major17 hm).trans ?_) rfl
  unfold decodeVib
  rw [e0, e1, e2, e3, e4]
  rfl

theorem vxor (g : BitVec 2) (d : BitVec 7) (a : BitVec 7) (b : BitVec 7) : Statement (.vxor g d a b) := by
  obtain ⟨hl, hm, e0, e1, e2, e3, e4⟩ := layout29 (base := 0x44600000) 17 3 g d a b rfl (by decide)
  refine of_decode hl ((major17 hm).trans ?_) rfl
  unfold decodeVib
  rw [e0, e1, e2, e3, e4]
  rfl

theorem vandn (g : BitVec 2) (d : BitVec 7) (a : BitVec 7) (b : BitVec 7) : Statement (.vandn g d a b) := by
  obtain ⟨hl, hm, e0, e1, e2, e3, e4⟩ := layout29 (base := 0x44800000) 17 4 g d a b rfl (by decide)
  refine of_decode hl ((major17 hm).trans ?_) rfl
  unfold decodeVib
  rw [e0, e1, e2, e3, e4]
  rfl

theorem vshl (g : BitVec 2) (d : BitVec 7) (a : BitVec 7) (b : BitVec 7) : Statement (.vshl g d a b) := by
  obtain ⟨hl, hm, e0, e1, e2, e3, e4⟩ := layout29 (base := 0x44A00000) 17 5 g d a b rfl (by decide)
  refine of_decode hl ((major17 hm).trans ?_) rfl
  unfold decodeVib
  rw [e0, e1, e2, e3, e4]
  rfl

theorem vshr (g : BitVec 2) (d : BitVec 7) (a : BitVec 7) (b : BitVec 7) : Statement (.vshr g d a b) := by
  obtain ⟨hl, hm, e0, e1, e2, e3, e4⟩ := layout29 (base := 0x44C00000) 17 6 g d a b rfl (by decide)
  refine of_decode hl ((major17 hm).trans ?_) rfl
  unfold decodeVib
  rw [e0, e1, e2, e3, e4]
  rfl

theorem vsra (g : BitVec 2) (d : BitVec 7) (a : BitVec 7) (b : BitVec 7) : Statement (.vsra g d a b) := by
  obtain ⟨hl, hm, e0, e1, e2, e3, e4⟩ := layout29 (base := 0x44E00000) 17 7 g d a b rfl (by decide)
  refine of_decode hl ((major17 hm).trans ?_) rfl
  unfold decodeVib
  rw [e0, e1, e2, e3, e4]
  rfl

theorem vbfe (g : BitVec 2) (d : BitVec 7) (a : BitVec 7) (b : BitVec 7) : Statement (.vbfe g d a b) := by
  obtain ⟨hl, hm, e0, e1, e2, e3, e4⟩ := layout29 (base := 0x48000000) 18 0 g d a b rfl (by decide)
  refine of_decode hl ((major18 hm).trans ?_) rfl
  unfold decodeVbit
  rw [e0, e1, e2, e3, e4]
  rfl

theorem vbfeu (g : BitVec 2) (d : BitVec 7) (a : BitVec 7) (b : BitVec 7) : Statement (.vbfeu g d a b) := by
  obtain ⟨hl, hm, e0, e1, e2, e3, e4⟩ := layout29 (base := 0x48200000) 18 1 g d a b rfl (by decide)
  refine of_decode hl ((major18 hm).trans ?_) rfl
  unfold decodeVbit
  rw [e0, e1, e2, e3, e4]
  rfl

theorem vbfi (g : BitVec 2) (d : BitVec 7) (a : BitVec 7) (b : BitVec 7) : Statement (.vbfi g d a b) := by
  obtain ⟨hl, hm, e0, e1, e2, e3, e4⟩ := layout29 (base := 0x48400000) 18 2 g d a b rfl (by decide)
  refine of_decode hl ((major18 hm).trans ?_) rfl
  unfold decodeVbit
  rw [e0, e1, e2, e3, e4]
  rfl

theorem vbrev (g : BitVec 2) (d : BitVec 7) (a : BitVec 7) : Statement (.vbrev g d a) := by
  obtain ⟨hl, hm, e0, e1, e2, e3, e4⟩ := layout30 (base := 0x48600000) 18 3 0 g d a rfl (by decide)
  refine of_decode hl ((major18 hm).trans ?_) rfl
  unfold decodeVbit
  rw [e0, e1, e2, e3, e4]
  rfl

theorem vpopc (g : BitVec 2) (d : BitVec 7) (a : BitVec 7) : Statement (.vpopc g d a) := by
  obtain ⟨hl, hm, e0, e1, e2, e3, e4⟩ := layout30 (base := 0x48800000) 18 4 0 g d a rfl (by decide)
  refine of_decode hl ((major18 hm).trans ?_) rfl
  unfold decodeVbit
  rw [e0, e1, e2, e3, e4]
  rfl

theorem vclz (g : BitVec 2) (d : BitVec 7) (a : BitVec 7) : Statement (.vclz g d a) := by
  obtain ⟨hl, hm, e0, e1, e2, e3, e4⟩ := layout30 (base := 0x48A00000) 18 5 0 g d a rfl (by decide)
  refine of_decode hl ((major18 hm).trans ?_) rfl
  unfold decodeVbit
  rw [e0, e1, e2, e3, e4]
  rfl

theorem vctz (g : BitVec 2) (d : BitVec 7) (a : BitVec 7) : Statement (.vctz g d a) := by
  obtain ⟨hl, hm, e0, e1, e2, e3, e4⟩ := layout30 (base := 0x48C00000) 18 6 0 g d a rfl (by decide)
  refine of_decode hl ((major18 hm).trans ?_) rfl
  unfold decodeVbit
  rw [e0, e1, e2, e3, e4]
  rfl

theorem vabs (g : BitVec 2) (d : BitVec 7) (a : BitVec 7) : Statement (.vabs g d a) := by
  obtain ⟨hl, hm, e0, e1, e2, e3, e4⟩ := layout30 (base := 0x48E00000) 18 7 0 g d a rfl (by decide)
  refine of_decode hl ((major18 hm).trans ?_) rfl
  unfold decodeVbit
  rw [e0, e1, e2, e3, e4]
  rfl

theorem vaddi (g : BitVec 2) (d : BitVec 7) (a : BitVec 7) (im : BitVec 10) : Statement (.vaddi g d a im) := by
  obtain ⟨hl, hm, e0, e1, e2, e3⟩ := layout31 (base := 0x4C000000) 19 g d a im rfl (by decide)
  refine of_decode hl ((major19 hm).trans ?_) rfl
  unfold decodeVaddi
  rw [e0, e1, e2, e3]

theorem vandi (g : BitVec 2) (d : BitVec 7) (a : BitVec 7) (im : BitVec 10) : Statement (.vandi g d a im) := by
  obtain ⟨hl, hm, e0, e1, e2, e3⟩ := layout31 (base := 0x50000000) 20 g d a im rfl (by decide)
  refine of_decode hl ((major20 hm).trans ?_) rfl
  unfold decodeVandi
  rw [e0, e1, e2, e3]

theorem vori (g : BitVec 2) (d : BitVec 7) (a : BitVec 7) (im : BitVec 10) : Statement (.vori g d a im) := by
  obtain ⟨hl, hm, e0, e1, e2, e3⟩ := layout31 (base := 0x54000000) 21 g d a im rfl (by decide)
  refine of_decode hl ((major21 hm).trans ?_) rfl
  unfold decodeVori
  rw [e0, e1, e2, e3]

theorem vxori (g : BitVec 2) (d : BitVec 7) (a : BitVec 7) (im : BitVec 10) : Statement (.vxori g d a im) := by
  obtain ⟨hl, hm, e0, e1, e2, e3⟩ := layout31 (base := 0x58000000) 22 g d a im rfl (by decide)
  refine of_decode hl ((major22 hm).trans ?_) rfl
  unfold decodeVxori
  rw [e0, e1, e2, e3]

theorem vshli (g : BitVec 2) (d : BitVec 7) (a : BitVec 7) (n : BitVec 5) : Statement (.vshli g d a n) := by
  obtain ⟨hl, hm, e0, e1, e2, e3, e4⟩ := layout32 (base := 0x5C000000) 23 0 g d a n rfl (by decide)
  refine of_decode hl ((major23 hm).trans ?_) rfl
  unfold decodeVshi
  rw [e0, e1, e2, e3, e4]
  rfl

theorem vshri (g : BitVec 2) (d : BitVec 7) (a : BitVec 7) (n : BitVec 5) : Statement (.vshri g d a n) := by
  obtain ⟨hl, hm, e0, e1, e2, e3, e4⟩ := layout32 (base := 0x5C000040) 23 2 g d a n rfl (by decide)
  refine of_decode hl ((major23 hm).trans ?_) rfl
  unfold decodeVshi
  rw [e0, e1, e2, e3, e4]
  rfl

theorem vsrai (g : BitVec 2) (d : BitVec 7) (a : BitVec 7) (n : BitVec 5) : Statement (.vsrai g d a n) := by
  obtain ⟨hl, hm, e0, e1, e2, e3, e4⟩ := layout32 (base := 0x5C000080) 23 4 g d a n rfl (by decide)
  refine of_decode hl ((major23 hm).trans ?_) rfl
  unfold decodeVshi
  rw [e0, e1, e2, e3, e4]
  rfl

theorem vfadd (g : BitVec 2) (d : BitVec 7) (a : BitVec 7) (b : BitVec 7) : Statement (.vfadd g d a b) := by
  obtain ⟨hl, hm, e0, e1, e2, e3, e4⟩ := layout29 (base := 0x60000000) 24 0 g d a b rfl (by decide)
  refine of_decode hl ((major24 hm).trans ?_) rfl
  unfold decodeVfa
  rw [e0, e1, e2, e3, e4]
  rfl

theorem vfsub (g : BitVec 2) (d : BitVec 7) (a : BitVec 7) (b : BitVec 7) : Statement (.vfsub g d a b) := by
  obtain ⟨hl, hm, e0, e1, e2, e3, e4⟩ := layout29 (base := 0x60200000) 24 1 g d a b rfl (by decide)
  refine of_decode hl ((major24 hm).trans ?_) rfl
  unfold decodeVfa
  rw [e0, e1, e2, e3, e4]
  rfl

theorem vfmul (g : BitVec 2) (d : BitVec 7) (a : BitVec 7) (b : BitVec 7) : Statement (.vfmul g d a b) := by
  obtain ⟨hl, hm, e0, e1, e2, e3, e4⟩ := layout29 (base := 0x60400000) 24 2 g d a b rfl (by decide)
  refine of_decode hl ((major24 hm).trans ?_) rfl
  unfold decodeVfa
  rw [e0, e1, e2, e3, e4]
  rfl

theorem vfma (g : BitVec 2) (d : BitVec 7) (a : BitVec 7) (b : BitVec 7) : Statement (.vfma g d a b) := by
  obtain ⟨hl, hm, e0, e1, e2, e3, e4⟩ := layout29 (base := 0x60600000) 24 3 g d a b rfl (by decide)
  refine of_decode hl ((major24 hm).trans ?_) rfl
  unfold decodeVfa
  rw [e0, e1, e2, e3, e4]
  rfl

theorem vfms (g : BitVec 2) (d : BitVec 7) (a : BitVec 7) (b : BitVec 7) : Statement (.vfms g d a b) := by
  obtain ⟨hl, hm, e0, e1, e2, e3, e4⟩ := layout29 (base := 0x60800000) 24 4 g d a b rfl (by decide)
  refine of_decode hl ((major24 hm).trans ?_) rfl
  unfold decodeVfa
  rw [e0, e1, e2, e3, e4]
  rfl

theorem vfmin (g : BitVec 2) (d : BitVec 7) (a : BitVec 7) (b : BitVec 7) : Statement (.vfmin g d a b) := by
  obtain ⟨hl, hm, e0, e1, e2, e3, e4⟩ := layout29 (base := 0x60A00000) 24 5 g d a b rfl (by decide)
  refine of_decode hl ((major24 hm).trans ?_) rfl
  unfold decodeVfa
  rw [e0, e1, e2, e3, e4]
  rfl

theorem vfmax (g : BitVec 2) (d : BitVec 7) (a : BitVec 7) (b : BitVec 7) : Statement (.vfmax g d a b) := by
  obtain ⟨hl, hm, e0, e1, e2, e3, e4⟩ := layout29 (base := 0x60C00000) 24 6 g d a b rfl (by decide)
  refine of_decode hl ((major24 hm).trans ?_) rfl
  unfold decodeVfa
  rw [e0, e1, e2, e3, e4]
  rfl

theorem vfabs (g : BitVec 2) (d : BitVec 7) (a : BitVec 7) : Statement (.vfabs g d a) := by
  obtain ⟨hl, hm, e0, e1, e2, e3, e4⟩ := layout30 (base := 0x60E00000) 24 7 0 g d a rfl (by decide)
  refine of_decode hl ((major24 hm).trans ?_) rfl
  unfold decodeVfa
  rw [e0, e1, e2, e3, e4]
  rfl

theorem vfdiv (g : BitVec 2) (d : BitVec 7) (a : BitVec 7) (b : BitVec 7) : Statement (.vfdiv g d a b) := by
  obtain ⟨hl, hm, e0, e1, e2, e3, e4⟩ := layout29 (base := 0x64000000) 25 0 g d a b rfl (by decide)
  refine of_decode hl ((major25 hm).trans ?_) rfl
  unfold decodeVfb
  rw [e0, e1, e2, e3, e4]
  rfl

theorem vfsqrt (g : BitVec 2) (d : BitVec 7) (a : BitVec 7) : Statement (.vfsqrt g d a) := by
  obtain ⟨hl, hm, e0, e1, e2, e3, e4⟩ := layout30 (base := 0x64200000) 25 1 0 g d a rfl (by decide)
  refine of_decode hl ((major25 hm).trans ?_) rfl
  unfold decodeVfb
  rw [e0, e1, e2, e3, e4]
  rfl

theorem vfrcp (g : BitVec 2) (d : BitVec 7) (a : BitVec 7) : Statement (.vfrcp g d a) := by
  obtain ⟨hl, hm, e0, e1, e2, e3, e4⟩ := layout30 (base := 0x64400000) 25 2 0 g d a rfl (by decide)
  refine of_decode hl ((major25 hm).trans ?_) rfl
  unfold decodeVfb
  rw [e0, e1, e2, e3, e4]
  rfl

theorem vfrsq (g : BitVec 2) (d : BitVec 7) (a : BitVec 7) : Statement (.vfrsq g d a) := by
  obtain ⟨hl, hm, e0, e1, e2, e3, e4⟩ := layout30 (base := 0x64600000) 25 3 0 g d a rfl (by decide)
  refine of_decode hl ((major25 hm).trans ?_) rfl
  unfold decodeVfb
  rw [e0, e1, e2, e3, e4]
  rfl

theorem vfexp2 (g : BitVec 2) (d : BitVec 7) (a : BitVec 7) : Statement (.vfexp2 g d a) := by
  obtain ⟨hl, hm, e0, e1, e2, e3, e4⟩ := layout30 (base := 0x64800000) 25 4 0 g d a rfl (by decide)
  refine of_decode hl ((major25 hm).trans ?_) rfl
  unfold decodeVfb
  rw [e0, e1, e2, e3, e4]
  rfl

theorem vflog2 (g : BitVec 2) (d : BitVec 7) (a : BitVec 7) : Statement (.vflog2 g d a) := by
  obtain ⟨hl, hm, e0, e1, e2, e3, e4⟩ := layout30 (base := 0x64A00000) 25 5 0 g d a rfl (by decide)
  refine of_decode hl ((major25 hm).trans ?_) rfl
  unfold decodeVfb
  rw [e0, e1, e2, e3, e4]
  rfl

theorem vffloor (g : BitVec 2) (d : BitVec 7) (a : BitVec 7) : Statement (.vffloor g d a) := by
  obtain ⟨hl, hm, e0, e1, e2, e3, e4⟩ := layout30 (base := 0x64C00000) 25 6 0 g d a rfl (by decide)
  refine of_decode hl ((major25 hm).trans ?_) rfl
  unfold decodeVfb
  rw [e0, e1, e2, e3, e4]
  rfl

theorem vfrint (g : BitVec 2) (d : BitVec 7) (a : BitVec 7) : Statement (.vfrint g d a) := by
  obtain ⟨hl, hm, e0, e1, e2, e3, e4⟩ := layout30 (base := 0x64E00000) 25 7 0 g d a rfl (by decide)
  refine of_decode hl ((major25 hm).trans ?_) rfl
  unfold decodeVfb
  rw [e0, e1, e2, e3, e4]
  rfl

theorem vdadd (g : BitVec 2) (d : BitVec 7) (a : BitVec 7) (b : BitVec 7) : Statement (.vdadd g d a b) := by
  obtain ⟨hl, hm, e0, e1, e2, e3, e4⟩ := layout29 (base := 0x68000000) 26 0 g d a b rfl (by decide)
  refine of_decode hl ((major26 hm).trans ?_) rfl
  unfold decodeVdf
  rw [e0, e1, e2, e3, e4]
  rfl

theorem vdsub (g : BitVec 2) (d : BitVec 7) (a : BitVec 7) (b : BitVec 7) : Statement (.vdsub g d a b) := by
  obtain ⟨hl, hm, e0, e1, e2, e3, e4⟩ := layout29 (base := 0x68200000) 26 1 g d a b rfl (by decide)
  refine of_decode hl ((major26 hm).trans ?_) rfl
  unfold decodeVdf
  rw [e0, e1, e2, e3, e4]
  rfl

theorem vdmul (g : BitVec 2) (d : BitVec 7) (a : BitVec 7) (b : BitVec 7) : Statement (.vdmul g d a b) := by
  obtain ⟨hl, hm, e0, e1, e2, e3, e4⟩ := layout29 (base := 0x68400000) 26 2 g d a b rfl (by decide)
  refine of_decode hl ((major26 hm).trans ?_) rfl
  unfold decodeVdf
  rw [e0, e1, e2, e3, e4]
  rfl

theorem vdfma (g : BitVec 2) (d : BitVec 7) (a : BitVec 7) (b : BitVec 7) : Statement (.vdfma g d a b) := by
  obtain ⟨hl, hm, e0, e1, e2, e3, e4⟩ := layout29 (base := 0x68600000) 26 3 g d a b rfl (by decide)
  refine of_decode hl ((major26 hm).trans ?_) rfl
  unfold decodeVdf
  rw [e0, e1, e2, e3, e4]
  rfl

theorem vddiv (g : BitVec 2) (d : BitVec 7) (a : BitVec 7) (b : BitVec 7) : Statement (.vddiv g d a b) := by
  obtain ⟨hl, hm, e0, e1, e2, e3, e4⟩ := layout29 (base := 0x68800000) 26 4 g d a b rfl (by decide)
  refine of_decode hl ((major26 hm).trans ?_) rfl
  unfold decodeVdf
  rw [e0, e1, e2, e3, e4]
  rfl

theorem vdsqrt (g : BitVec 2) (d : BitVec 7) (a : BitVec 7) : Statement (.vdsqrt g d a) := by
  obtain ⟨hl, hm, e0, e1, e2, e3, e4⟩ := layout30 (base := 0x68A00000) 26 5 0 g d a rfl (by decide)
  refine of_decode hl ((major26 hm).trans ?_) rfl
  unfold decodeVdf
  rw [e0, e1, e2, e3, e4]
  rfl

theorem vdmin (g : BitVec 2) (d : BitVec 7) (a : BitVec 7) (b : BitVec 7) : Statement (.vdmin g d a b) := by
  obtain ⟨hl, hm, e0, e1, e2, e3, e4⟩ := layout29 (base := 0x68C00000) 26 6 g d a b rfl (by decide)
  refine of_decode hl ((major26 hm).trans ?_) rfl
  unfold decodeVdf
  rw [e0, e1, e2, e3, e4]
  rfl

theorem vdmax (g : BitVec 2) (d : BitVec 7) (a : BitVec 7) (b : BitVec 7) : Statement (.vdmax g d a b) := by
  obtain ⟨hl, hm, e0, e1, e2, e3, e4⟩ := layout29 (base := 0x68E00000) 26 7 g d a b rfl (by decide)
  refine of_decode hl ((major26 hm).trans ?_) rfl
  unfold decodeVdf
  rw [e0, e1, e2, e3, e4]
  rfl

theorem vcvt (g : BitVec 2) (d : BitVec 7) (a : BitVec 7) (c : BitVec 7) : Statement (.vcvt g d a c) := by
  obtain ⟨hl, hm, e0, e1, e2, e3, e4⟩ := layout29 (base := 0x6C000000) 27 0 g d a c rfl (by decide)
  refine of_decode hl ((major27 hm).trans ?_) rfl
  unfold decodeVcvt
  rw [e0, e1, e2, e3, e4]
  rfl

theorem vceq (g : BitVec 2) (d : BitVec 3) (a : BitVec 7) (b : BitVec 7) : Statement (.vceq g d a b) := by
  obtain ⟨hl, hm, e0, e1, e2, e3, e4, e5⟩ := layout33 (base := 0x70000000) 28 0 0 g d a b rfl (by decide)
  refine of_decode hl ((major28 hm).trans ?_) rfl
  unfold decodeVcmp
  rw [e0, e1, e2, e3, e4, e5]
  rfl

theorem vcne (g : BitVec 2) (d : BitVec 3) (a : BitVec 7) (b : BitVec 7) : Statement (.vcne g d a b) := by
  obtain ⟨hl, hm, e0, e1, e2, e3, e4, e5⟩ := layout33 (base := 0x70200000) 28 1 0 g d a b rfl (by decide)
  refine of_decode hl ((major28 hm).trans ?_) rfl
  unfold decodeVcmp
  rw [e0, e1, e2, e3, e4, e5]
  rfl

theorem vclt (g : BitVec 2) (d : BitVec 3) (a : BitVec 7) (b : BitVec 7) : Statement (.vclt g d a b) := by
  obtain ⟨hl, hm, e0, e1, e2, e3, e4, e5⟩ := layout33 (base := 0x70400000) 28 2 0 g d a b rfl (by decide)
  refine of_decode hl ((major28 hm).trans ?_) rfl
  unfold decodeVcmp
  rw [e0, e1, e2, e3, e4, e5]
  rfl

theorem vcle (g : BitVec 2) (d : BitVec 3) (a : BitVec 7) (b : BitVec 7) : Statement (.vcle g d a b) := by
  obtain ⟨hl, hm, e0, e1, e2, e3, e4, e5⟩ := layout33 (base := 0x70600000) 28 3 0 g d a b rfl (by decide)
  refine of_decode hl ((major28 hm).trans ?_) rfl
  unfold decodeVcmp
  rw [e0, e1, e2, e3, e4, e5]
  rfl

theorem vcltu (g : BitVec 2) (d : BitVec 3) (a : BitVec 7) (b : BitVec 7) : Statement (.vcltu g d a b) := by
  obtain ⟨hl, hm, e0, e1, e2, e3, e4, e5⟩ := layout33 (base := 0x70800000) 28 4 0 g d a b rfl (by decide)
  refine of_decode hl ((major28 hm).trans ?_) rfl
  unfold decodeVcmp
  rw [e0, e1, e2, e3, e4, e5]
  rfl

theorem vcleu (g : BitVec 2) (d : BitVec 3) (a : BitVec 7) (b : BitVec 7) : Statement (.vcleu g d a b) := by
  obtain ⟨hl, hm, e0, e1, e2, e3, e4, e5⟩ := layout33 (base := 0x70A00000) 28 5 0 g d a b rfl (by decide)
  refine of_decode hl ((major28 hm).trans ?_) rfl
  unfold decodeVcmp
  rw [e0, e1, e2, e3, e4, e5]
  rfl

theorem vfceq (g : BitVec 2) (d : BitVec 3) (a : BitVec 7) (b : BitVec 7) : Statement (.vfceq g d a b) := by
  obtain ⟨hl, hm, e0, e1, e2, e3, e4, e5⟩ := layout33 (base := 0x74000000) 29 0 0 g d a b rfl (by decide)
  refine of_decode hl ((major29 hm).trans ?_) rfl
  unfold decodeVfcmp
  rw [e0, e1, e2, e3, e4, e5]
  rfl

theorem vfcne (g : BitVec 2) (d : BitVec 3) (a : BitVec 7) (b : BitVec 7) : Statement (.vfcne g d a b) := by
  obtain ⟨hl, hm, e0, e1, e2, e3, e4, e5⟩ := layout33 (base := 0x74200000) 29 1 0 g d a b rfl (by decide)
  refine of_decode hl ((major29 hm).trans ?_) rfl
  unfold decodeVfcmp
  rw [e0, e1, e2, e3, e4, e5]
  rfl

theorem vfclt (g : BitVec 2) (d : BitVec 3) (a : BitVec 7) (b : BitVec 7) : Statement (.vfclt g d a b) := by
  obtain ⟨hl, hm, e0, e1, e2, e3, e4, e5⟩ := layout33 (base := 0x74400000) 29 2 0 g d a b rfl (by decide)
  refine of_decode hl ((major29 hm).trans ?_) rfl
  unfold decodeVfcmp
  rw [e0, e1, e2, e3, e4, e5]
  rfl

theorem vfcle (g : BitVec 2) (d : BitVec 3) (a : BitVec 7) (b : BitVec 7) : Statement (.vfcle g d a b) := by
  obtain ⟨hl, hm, e0, e1, e2, e3, e4, e5⟩ := layout33 (base := 0x74600000) 29 3 0 g d a b rfl (by decide)
  refine of_decode hl ((major29 hm).trans ?_) rfl
  unfold decodeVfcmp
  rw [e0, e1, e2, e3, e4, e5]
  rfl

theorem vfcun (g : BitVec 2) (d : BitVec 3) (a : BitVec 7) (b : BitVec 7) : Statement (.vfcun g d a b) := by
  obtain ⟨hl, hm, e0, e1, e2, e3, e4, e5⟩ := layout33 (base := 0x74800000) 29 4 0 g d a b rfl (by decide)
  refine of_decode hl ((major29 hm).trans ?_) rfl
  unfold decodeVfcmp
  rw [e0, e1, e2, e3, e4, e5]
  rfl

theorem vdceq (g : BitVec 2) (d : BitVec 3) (a : BitVec 7) (b : BitVec 7) : Statement (.vdceq g d a b) := by
  obtain ⟨hl, hm, e0, e1, e2, e3, e4, e5⟩ := layout33 (base := 0x74A00000) 29 5 0 g d a b rfl (by decide)
  refine of_decode hl ((major29 hm).trans ?_) rfl
  unfold decodeVfcmp
  rw [e0, e1, e2, e3, e4, e5]
  rfl

theorem vdclt (g : BitVec 2) (d : BitVec 3) (a : BitVec 7) (b : BitVec 7) : Statement (.vdclt g d a b) := by
  obtain ⟨hl, hm, e0, e1, e2, e3, e4, e5⟩ := layout33 (base := 0x74C00000) 29 6 0 g d a b rfl (by decide)
  refine of_decode hl ((major29 hm).trans ?_) rfl
  unfold decodeVfcmp
  rw [e0, e1, e2, e3, e4, e5]
  rfl

theorem vdcle (g : BitVec 2) (d : BitVec 3) (a : BitVec 7) (b : BitVec 7) : Statement (.vdcle g d a b) := by
  obtain ⟨hl, hm, e0, e1, e2, e3, e4, e5⟩ := layout33 (base := 0x74E00000) 29 7 0 g d a b rfl (by decide)
  refine of_decode hl ((major29 hm).trans ?_) rfl
  unfold decodeVfcmp
  rw [e0, e1, e2, e3, e4, e5]
  rfl

theorem vshfl (g : BitVec 2) (d : BitVec 7) (a : BitVec 7) (b : BitVec 7) : Statement (.vshfl g d a b) := by
  obtain ⟨hl, hm, e0, e1, e2, e3, e4⟩ := layout29 (base := 0x78000000) 30 0 g d a b rfl (by decide)
  refine of_decode hl ((major30 hm).trans ?_) rfl
  unfold decodeVxt
  rw [e0, e1, e2, e3, e4]
  rfl

theorem vshflx (g : BitVec 2) (d : BitVec 7) (a : BitVec 7) (b : BitVec 7) : Statement (.vshflx g d a b) := by
  obtain ⟨hl, hm, e0, e1, e2, e3, e4⟩ := layout29 (base := 0x78200000) 30 1 g d a b rfl (by decide)
  refine of_decode hl ((major30 hm).trans ?_) rfl
  unfold decodeVxt
  rw [e0, e1, e2, e3, e4]
  rfl

theorem vshflu (g : BitVec 2) (d : BitVec 7) (a : BitVec 7) (b : BitVec 7) : Statement (.vshflu g d a b) := by
  obtain ⟨hl, hm, e0, e1, e2, e3, e4⟩ := layout29 (base := 0x78400000) 30 2 g d a b rfl (by decide)
  refine of_decode hl ((major30 hm).trans ?_) rfl
  unfold decodeVxt
  rw [e0, e1, e2, e3, e4]
  rfl

theorem vshfld (g : BitVec 2) (d : BitVec 7) (a : BitVec 7) (b : BitVec 7) : Statement (.vshfld g d a b) := by
  obtain ⟨hl, hm, e0, e1, e2, e3, e4⟩ := layout29 (base := 0x78600000) 30 3 g d a b rfl (by decide)
  refine of_decode hl ((major30 hm).trans ?_) rfl
  unfold decodeVxt
  rw [e0, e1, e2, e3, e4]
  rfl

theorem vbcast (g : BitVec 2) (d : BitVec 7) (a : BitVec 7) (b : BitVec 5) : Statement (.vbcast g d a b) := by
  obtain ⟨hl, hm, e0, e1, e2, e3, e4, e5⟩ := layout34 (base := 0x78800060) 30 4 3 g d a b rfl (by decide)
  refine of_decode hl ((major30 hm).trans ?_) rfl
  unfold decodeVxt
  rw [e0, e1, e2, e3, e4, e5]
  rfl

theorem vsel (g : BitVec 2) (d : BitVec 7) (a : BitVec 7) (b : BitVec 7) : Statement (.vsel g d a b) := by
  obtain ⟨hl, hm, e0, e1, e2, e3, e4⟩ := layout29 (base := 0x78A00000) 30 5 g d a b rfl (by decide)
  refine of_decode hl ((major30 hm).trans ?_) rfl
  unfold decodeVxt
  rw [e0, e1, e2, e3, e4]
  rfl

theorem vballot (g : BitVec 2) (d : BitVec 5) (a : BitVec 7) : Statement (.vballot g d a) := by
  obtain ⟨hl, hm, e0, e1, e2, e3, e4, e5⟩ := layout35 (base := 0x78D80000) 30 6 3 0 g d a rfl (by decide)
  refine of_decode hl ((major30 hm).trans ?_) rfl
  unfold decodeVxt
  rw [e0, e1, e2, e3, e4, e5]
  rfl

theorem vtid (g : BitVec 2) (d : BitVec 7) : Statement (.vtid g d) := by
  obtain ⟨hl, hm, e0, e1, e2, e3⟩ := layout36 (base := 0x78E00000) 30 7 0 g d rfl (by decide)
  refine of_decode hl ((major30 hm).trans ?_) rfl
  unfold decodeVxt
  rw [e0, e1, e2, e3]
  rfl

theorem vredadd (g : BitVec 2) (d : BitVec 5) (a : BitVec 7) : Statement (.vredadd g d a) := by
  obtain ⟨hl, hm, e0, e1, e2, e3, e4, e5⟩ := layout35 (base := 0x7C180000) 31 0 3 0 g d a rfl (by decide)
  refine of_decode hl ((major31 hm).trans ?_) rfl
  unfold decodeVred
  rw [e0, e1, e2, e3, e4, e5]
  rfl

theorem vredmin (g : BitVec 2) (d : BitVec 5) (a : BitVec 7) : Statement (.vredmin g d a) := by
  obtain ⟨hl, hm, e0, e1, e2, e3, e4, e5⟩ := layout35 (base := 0x7C380000) 31 1 3 0 g d a rfl (by decide)
  refine of_decode hl ((major31 hm).trans ?_) rfl
  unfold decodeVred
  rw [e0, e1, e2, e3, e4, e5]
  rfl

theorem vredmax (g : BitVec 2) (d : BitVec 5) (a : BitVec 7) : Statement (.vredmax g d a) := by
  obtain ⟨hl, hm, e0, e1, e2, e3, e4, e5⟩ := layout35 (base := 0x7C580000) 31 2 3 0 g d a rfl (by decide)
  refine of_decode hl ((major31 hm).trans ?_) rfl
  unfold decodeVred
  rw [e0, e1, e2, e3, e4, e5]
  rfl

theorem vredminu (g : BitVec 2) (d : BitVec 5) (a : BitVec 7) : Statement (.vredminu g d a) := by
  obtain ⟨hl, hm, e0, e1, e2, e3, e4, e5⟩ := layout35 (base := 0x7C780000) 31 3 3 0 g d a rfl (by decide)
  refine of_decode hl ((major31 hm).trans ?_) rfl
  unfold decodeVred
  rw [e0, e1, e2, e3, e4, e5]
  rfl

theorem vredmaxu (g : BitVec 2) (d : BitVec 5) (a : BitVec 7) : Statement (.vredmaxu g d a) := by
  obtain ⟨hl, hm, e0, e1, e2, e3, e4, e5⟩ := layout35 (base := 0x7C980000) 31 4 3 0 g d a rfl (by decide)
  refine of_decode hl ((major31 hm).trans ?_) rfl
  unfold decodeVred
  rw [e0, e1, e2, e3, e4, e5]
  rfl

theorem vredfadd (g : BitVec 2) (d : BitVec 5) (a : BitVec 7) : Statement (.vredfadd g d a) := by
  obtain ⟨hl, hm, e0, e1, e2, e3, e4, e5⟩ := layout35 (base := 0x7CB80000) 31 5 3 0 g d a rfl (by decide)
  refine of_decode hl ((major31 hm).trans ?_) rfl
  unfold decodeVred
  rw [e0, e1, e2, e3, e4, e5]
  rfl

theorem vscan (g : BitVec 2) (d : BitVec 7) (a : BitVec 7) : Statement (.vscan g d a) := by
  obtain ⟨hl, hm, e0, e1, e2, e3, e4⟩ := layout30 (base := 0x7CC00000) 31 6 0 g d a rfl (by decide)
  refine of_decode hl ((major31 hm).trans ?_) rfl
  unfold decodeVred
  rw [e0, e1, e2, e3, e4]
  rfl

theorem vscanf (g : BitVec 2) (d : BitVec 7) (a : BitVec 7) : Statement (.vscanf g d a) := by
  obtain ⟨hl, hm, e0, e1, e2, e3, e4⟩ := layout30 (base := 0x7CE00000) 31 7 0 g d a rfl (by decide)
  refine of_decode hl ((major31 hm).trans ?_) rfl
  unfold decodeVred
  rw [e0, e1, e2, e3, e4]
  rfl

theorem vmov (g : BitVec 2) (d : BitVec 7) (a : BitVec 7) : Statement (.vmov g d a) := by
  obtain ⟨hl, hm, e0, e1, e2, e3, e4⟩ := layout30 (base := 0x80000000) 32 0 0 g d a rfl (by decide)
  refine of_decode hl ((major32 hm).trans ?_) rfl
  unfold decodeVmov
  rw [e0, e1, e2, e3, e4]
  rfl

theorem vmfs (g : BitVec 2) (d : BitVec 7) (a : BitVec 7) (b : BitVec 1) : Statement (.vmfs g d a b) := by
  obtain ⟨hl, hm, e0, e1, e2, e3, e4, e5⟩ := layout37 (base := 0x80200000) 32 1 0 g d a b rfl (by decide)
  refine of_decode hl ((major32 hm).trans ?_) rfl
  unfold decodeVmov
  rw [e0, e1, e2, e3, e4, e5]
  rfl

theorem vmerge (g : BitVec 2) (d : BitVec 7) (a : BitVec 7) (b : BitVec 7) : Statement (.vmerge g d a b) := by
  obtain ⟨hl, hm, e0, e1, e2, e3, e4⟩ := layout29 (base := 0x80400000) 32 2 g d a b rfl (by decide)
  refine of_decode hl ((major32 hm).trans ?_) rfl
  unfold decodeVmov
  rw [e0, e1, e2, e3, e4]
  rfl

theorem vld (g : BitVec 2) (d : BitVec 7) (a : BitVec 7) (w : BitVec 2) (o : BitVec 2) (s : BitVec 2) (n : BitVec 4) : Statement (.vld g d a w o s n) := by
  obtain ⟨hl, hm, e0, e1, e2, e3, e4, e5, e6⟩ := layout38 (base := 0x84000000) 33 g d a w o s n rfl (by decide)
  refine of_decode hl ((major33 hm).trans ?_) rfl
  unfold decodeVld
  rw [e0, e1, e2, e3, e4, e5, e6]

theorem vldu (g : BitVec 2) (d : BitVec 7) (a : BitVec 7) (w : BitVec 1) (o : BitVec 2) (s : BitVec 2) (n : BitVec 4) : Statement (.vldu g d a w o s n) := by
  obtain ⟨hl, hm, e0, e1, e2, e3, e4, e5, e6, e7⟩ := layout39 (base := 0x88000000) 34 0 g d a w o s n rfl (by decide)
  refine of_decode hl ((major34 hm).trans ?_) rfl
  unfold decodeVldu
  rw [e0, e1, e2, e3, e4, e5, e6, e7]
  rfl

theorem vst (g : BitVec 2) (d : BitVec 7) (a : BitVec 7) (w : BitVec 2) (o : BitVec 2) (s : BitVec 2) (n : BitVec 4) : Statement (.vst g d a w o s n) := by
  obtain ⟨hl, hm, e0, e1, e2, e3, e4, e5, e6⟩ := layout38 (base := 0x8C000000) 35 g d a w o s n rfl (by decide)
  refine of_decode hl ((major35 hm).trans ?_) rfl
  unfold decodeVst
  rw [e0, e1, e2, e3, e4, e5, e6]

theorem vldx (g : BitVec 2) (f : BitVec 3) (d : BitVec 7) (a : BitVec 7) (b : BitVec 5) : Statement (.vldx g f d a b) := by
  obtain ⟨hl, hm, e0, e1, e2, e3, e4, e5⟩ := layout40 (base := 0x90000060) 36 3 g f d a b rfl (by decide)
  refine of_decode hl ((major36 hm).trans ?_) rfl
  unfold decodeVldx
  rw [e0, e1, e2, e3, e4, e5]
  rfl

theorem vamoadd (g : BitVec 2) (d : BitVec 7) (a : BitVec 7) (b : BitVec 7) : Statement (.vamoadd g d a b) := by
  obtain ⟨hl, hm, e0, e1, e2, e3, e4⟩ := layout29 (base := 0x94000000) 37 0 g d a b rfl (by decide)
  refine of_decode hl ((major37 hm).trans ?_) rfl
  unfold decodeVamo
  rw [e0, e1, e2, e3, e4]
  rfl

theorem vamomin (g : BitVec 2) (d : BitVec 7) (a : BitVec 7) (b : BitVec 7) : Statement (.vamomin g d a b) := by
  obtain ⟨hl, hm, e0, e1, e2, e3, e4⟩ := layout29 (base := 0x94200000) 37 1 g d a b rfl (by decide)
  refine of_decode hl ((major37 hm).trans ?_) rfl
  unfold decodeVamo
  rw [e0, e1, e2, e3, e4]
  rfl

theorem vamomax (g : BitVec 2) (d : BitVec 7) (a : BitVec 7) (b : BitVec 7) : Statement (.vamomax g d a b) := by
  obtain ⟨hl, hm, e0, e1, e2, e3, e4⟩ := layout29 (base := 0x94400000) 37 2 g d a b rfl (by decide)
  refine of_decode hl ((major37 hm).trans ?_) rfl
  unfold decodeVamo
  rw [e0, e1, e2, e3, e4]
  rfl

theorem vamominu (g : BitVec 2) (d : BitVec 7) (a : BitVec 7) (b : BitVec 7) : Statement (.vamominu g d a b) := by
  obtain ⟨hl, hm, e0, e1, e2, e3, e4⟩ := layout29 (base := 0x94600000) 37 3 g d a b rfl (by decide)
  refine of_decode hl ((major37 hm).trans ?_) rfl
  unfold decodeVamo
  rw [e0, e1, e2, e3, e4]
  rfl

theorem vamomaxu (g : BitVec 2) (d : BitVec 7) (a : BitVec 7) (b : BitVec 7) : Statement (.vamomaxu g d a b) := by
  obtain ⟨hl, hm, e0, e1, e2, e3, e4⟩ := layout29 (base := 0x94800000) 37 4 g d a b rfl (by decide)
  refine of_decode hl ((major37 hm).trans ?_) rfl
  unfold decodeVamo
  rw [e0, e1, e2, e3, e4]
  rfl

theorem vamoand (g : BitVec 2) (d : BitVec 7) (a : BitVec 7) (b : BitVec 7) : Statement (.vamoand g d a b) := by
  obtain ⟨hl, hm, e0, e1, e2, e3, e4⟩ := layout29 (base := 0x94A00000) 37 5 g d a b rfl (by decide)
  refine of_decode hl ((major37 hm).trans ?_) rfl
  unfold decodeVamo
  rw [e0, e1, e2, e3, e4]
  rfl

theorem vamoor (g : BitVec 2) (d : BitVec 7) (a : BitVec 7) (b : BitVec 7) : Statement (.vamoor g d a b) := by
  obtain ⟨hl, hm, e0, e1, e2, e3, e4⟩ := layout29 (base := 0x94C00000) 37 6 g d a b rfl (by decide)
  refine of_decode hl ((major37 hm).trans ?_) rfl
  unfold decodeVamo
  rw [e0, e1, e2, e3, e4]
  rfl

theorem vamoxor (g : BitVec 2) (d : BitVec 7) (a : BitVec 7) (b : BitVec 7) : Statement (.vamoxor g d a b) := by
  obtain ⟨hl, hm, e0, e1, e2, e3, e4⟩ := layout29 (base := 0x94E00000) 37 7 g d a b rfl (by decide)
  refine of_decode hl ((major37 hm).trans ?_) rfl
  unfold decodeVamo
  rw [e0, e1, e2, e3, e4]
  rfl

theorem vcas (g : BitVec 2) (d : BitVec 7) (a : BitVec 7) (b : BitVec 7) : Statement (.vcas g d a b) := by
  obtain ⟨hl, hm, e0, e1, e2, e3, e4⟩ := layout29 (base := 0x98000000) 38 0 g d a b rfl (by decide)
  refine of_decode hl ((major38 hm).trans ?_) rfl
  unfold decodeVamx
  rw [e0, e1, e2, e3, e4]
  rfl

theorem vxchg (g : BitVec 2) (d : BitVec 7) (a : BitVec 7) (b : BitVec 7) : Statement (.vxchg g d a b) := by
  obtain ⟨hl, hm, e0, e1, e2, e3, e4⟩ := layout29 (base := 0x98200000) 38 1 g d a b rfl (by decide)
  refine of_decode hl ((major38 hm).trans ?_) rfl
  unfold decodeVamx
  rw [e0, e1, e2, e3, e4]
  rfl

theorem vamofadd (g : BitVec 2) (d : BitVec 7) (a : BitVec 7) (b : BitVec 7) : Statement (.vamofadd g d a b) := by
  obtain ⟨hl, hm, e0, e1, e2, e3, e4⟩ := layout29 (base := 0x98400000) 38 2 g d a b rfl (by decide)
  refine of_decode hl ((major38 hm).trans ?_) rfl
  unfold decodeVamx
  rw [e0, e1, e2, e3, e4]
  rfl

theorem vamofmin (g : BitVec 2) (d : BitVec 7) (a : BitVec 7) (b : BitVec 7) : Statement (.vamofmin g d a b) := by
  obtain ⟨hl, hm, e0, e1, e2, e3, e4⟩ := layout29 (base := 0x98600000) 38 3 g d a b rfl (by decide)
  refine of_decode hl ((major38 hm).trans ?_) rfl
  unfold decodeVamx
  rw [e0, e1, e2, e3, e4]
  rfl

theorem vamofmax (g : BitVec 2) (d : BitVec 7) (a : BitVec 7) (b : BitVec 7) : Statement (.vamofmax g d a b) := by
  obtain ⟨hl, hm, e0, e1, e2, e3, e4⟩ := layout29 (base := 0x98800000) 38 4 g d a b rfl (by decide)
  refine of_decode hl ((major38 hm).trans ?_) rfl
  unfold decodeVamx
  rw [e0, e1, e2, e3, e4]
  rfl

theorem samoadd (d : BitVec 7) (a : BitVec 7) (b : BitVec 7) : Statement (.samoadd d a b) := by
  obtain ⟨hl, hm, e0, e1, e2, e3⟩ := layout12 (base := 0x9C000000) 39 0 d a b rfl (by decide)
  refine of_decode hl ((major39 hm).trans ?_) rfl
  unfold decodeSamo
  rw [e0, e1, e2, e3]
  rfl

theorem samomin (d : BitVec 7) (a : BitVec 7) (b : BitVec 7) : Statement (.samomin d a b) := by
  obtain ⟨hl, hm, e0, e1, e2, e3⟩ := layout12 (base := 0x9C200000) 39 1 d a b rfl (by decide)
  refine of_decode hl ((major39 hm).trans ?_) rfl
  unfold decodeSamo
  rw [e0, e1, e2, e3]
  rfl

theorem samomax (d : BitVec 7) (a : BitVec 7) (b : BitVec 7) : Statement (.samomax d a b) := by
  obtain ⟨hl, hm, e0, e1, e2, e3⟩ := layout12 (base := 0x9C400000) 39 2 d a b rfl (by decide)
  refine of_decode hl ((major39 hm).trans ?_) rfl
  unfold decodeSamo
  rw [e0, e1, e2, e3]
  rfl

theorem samoand (d : BitVec 7) (a : BitVec 7) (b : BitVec 7) : Statement (.samoand d a b) := by
  obtain ⟨hl, hm, e0, e1, e2, e3⟩ := layout12 (base := 0x9C600000) 39 3 d a b rfl (by decide)
  refine of_decode hl ((major39 hm).trans ?_) rfl
  unfold decodeSamo
  rw [e0, e1, e2, e3]
  rfl

theorem samoor (d : BitVec 7) (a : BitVec 7) (b : BitVec 7) : Statement (.samoor d a b) := by
  obtain ⟨hl, hm, e0, e1, e2, e3⟩ := layout12 (base := 0x9C800000) 39 4 d a b rfl (by decide)
  refine of_decode hl ((major39 hm).trans ?_) rfl
  unfold decodeSamo
  rw [e0, e1, e2, e3]
  rfl

theorem samoxor (d : BitVec 7) (a : BitVec 7) (b : BitVec 7) : Statement (.samoxor d a b) := by
  obtain ⟨hl, hm, e0, e1, e2, e3⟩ := layout12 (base := 0x9CA00000) 39 5 d a b rfl (by decide)
  refine of_decode hl ((major39 hm).trans ?_) rfl
  unfold decodeSamo
  rw [e0, e1, e2, e3]
  rfl

theorem scas (d : BitVec 7) (a : BitVec 7) (b : BitVec 7) : Statement (.scas d a b) := by
  obtain ⟨hl, hm, e0, e1, e2, e3⟩ := layout12 (base := 0x9CC00000) 39 6 d a b rfl (by decide)
  refine of_decode hl ((major39 hm).trans ?_) rfl
  unfold decodeSamo
  rw [e0, e1, e2, e3]
  rfl

theorem sxchg (d : BitVec 7) (a : BitVec 7) (b : BitVec 7) : Statement (.sxchg d a b) := by
  obtain ⟨hl, hm, e0, e1, e2, e3⟩ := layout12 (base := 0x9CE00000) 39 7 d a b rfl (by decide)
  refine of_decode hl ((major39 hm).trans ?_) rfl
  unfold decodeSamo
  rw [e0, e1, e2, e3]
  rfl

theorem tlook (d : BitVec 7) (a : BitVec 7) : Statement (.tlook d a) := by
  obtain ⟨hl, hm, e0, e1, e2, e3⟩ := layout13 (base := 0xA0000000) 40 0 0 d a rfl (by decide)
  refine of_decode hl ((major40 hm).trans ?_) rfl
  unfold decodeTag
  rw [e0, e1, e2, e3]
  rfl

theorem tset (a : BitVec 7) (b : BitVec 7) : Statement (.tset a b) := by
  obtain ⟨hl, hm, e0, e1, e2, e3⟩ := layout10 (base := 0xA0200000) 40 1 0 a b rfl (by decide)
  refine of_decode hl ((major40 hm).trans ?_) rfl
  unfold decodeTag
  rw [e0, e1, e2, e3]
  rfl

theorem tinv (a : BitVec 7) : Statement (.tinv a) := by
  obtain ⟨hl, hm, e0, e1, e2, e3⟩ := layout11 (base := 0xA0400000) 40 2 0 0 a rfl (by decide)
  refine of_decode hl ((major40 hm).trans ?_) rfl
  unfold decodeTag
  rw [e0, e1, e2, e3]
  rfl

theorem tclr : Statement (.tclr) := by
  obtain ⟨hl, hm, e0, e1⟩ := layout0 (base := 0xA0600000) 40 3 0 rfl (by decide)
  refine of_decode hl ((major40 hm).trans ?_) rfl
  unfold decodeTag
  rw [e0, e1]
  rfl

theorem tslot (d : BitVec 7) (a : BitVec 7) : Statement (.tslot d a) := by
  obtain ⟨hl, hm, e0, e1, e2, e3⟩ := layout13 (base := 0xA0800000) 40 4 0 d a rfl (by decide)
  refine of_decode hl ((major40 hm).trans ?_) rfl
  unfold decodeTag
  rw [e0, e1, e2, e3]
  rfl

theorem cpy (d : BitVec 7) (a : BitVec 7) (b : BitVec 7) : Statement (.cpy d a b) := by
  obtain ⟨hl, hm, e0, e1, e2, e3⟩ := layout12 (base := 0xA4000000) 41 0 d a b rfl (by decide)
  refine of_decode hl ((major41 hm).trans ?_) rfl
  unfold decodeCpy
  rw [e0, e1, e2, e3]
  rfl

theorem cpym (d : BitVec 7) (a : BitVec 7) (b : BitVec 7) : Statement (.cpym d a b) := by
  obtain ⟨hl, hm, e0, e1, e2, e3⟩ := layout12 (base := 0xA4200000) 41 1 d a b rfl (by decide)
  refine of_decode hl ((major41 hm).trans ?_) rfl
  unfold decodeCpy
  rw [e0, e1, e2, e3]
  rfl

theorem cpyd (d : BitVec 7) (a : BitVec 7) (b : BitVec 7) : Statement (.cpyd d a b) := by
  obtain ⟨hl, hm, e0, e1, e2, e3⟩ := layout12 (base := 0xA4400000) 41 2 d a b rfl (by decide)
  refine of_decode hl ((major41 hm).trans ?_) rfl
  unfold decodeCpy
  rw [e0, e1, e2, e3]
  rfl

theorem cpyc (d : BitVec 7) (a : BitVec 7) (b : BitVec 7) : Statement (.cpyc d a b) := by
  obtain ⟨hl, hm, e0, e1, e2, e3⟩ := layout12 (base := 0xA4600000) 41 3 d a b rfl (by decide)
  refine of_decode hl ((major41 hm).trans ?_) rfl
  unfold decodeCpy
  rw [e0, e1, e2, e3]
  rfl

theorem cpyg (d : BitVec 7) (a : BitVec 7) (b : BitVec 7) : Statement (.cpyg d a b) := by
  obtain ⟨hl, hm, e0, e1, e2, e3⟩ := layout12 (base := 0xA4800000) 41 4 d a b rfl (by decide)
  refine of_decode hl ((major41 hm).trans ?_) rfl
  unfold decodeCpy
  rw [e0, e1, e2, e3]
  rfl

theorem cpys (d : BitVec 7) (a : BitVec 7) (b : BitVec 7) : Statement (.cpys d a b) := by
  obtain ⟨hl, hm, e0, e1, e2, e3⟩ := layout12 (base := 0xA4A00000) 41 5 d a b rfl (by decide)
  refine of_decode hl ((major41 hm).trans ?_) rfl
  unfold decodeCpy
  rw [e0, e1, e2, e3]
  rfl

theorem qinit (d : BitVec 4) (b : BitVec 7) : Statement (.qinit d b) := by
  obtain ⟨hl, hm, e0, e1, e2, e3, e4⟩ := layout41 (base := 0xA8000000) 42 0 0 0 d b rfl (by decide)
  refine of_decode hl ((major42 hm).trans ?_) rfl
  unfold decodeQue
  rw [e0, e1, e2, e3, e4]
  rfl

theorem qpush (d : BitVec 4) (a : BitVec 7) : Statement (.qpush d a) := by
  obtain ⟨hl, hm, e0, e1, e2, e3, e4⟩ := layout42 (base := 0xA8200000) 42 1 0 0 d a rfl (by decide)
  refine of_decode hl ((major42 hm).trans ?_) rfl
  unfold decodeQue
  rw [e0, e1, e2, e3, e4]
  rfl

theorem qpop (d : BitVec 7) (a : BitVec 4) : Statement (.qpop d a) := by
  obtain ⟨hl, hm, e0, e1, e2, e3, e4⟩ := layout43 (base := 0xA8400000) 42 2 0 0 d a rfl (by decide)
  refine of_decode hl ((major42 hm).trans ?_) rfl
  unfold decodeQue
  rw [e0, e1, e2, e3, e4]
  rfl

theorem qpusht (d : BitVec 4) (a : BitVec 4) : Statement (.qpusht d a) := by
  obtain ⟨hl, hm, e0, e1, e2, e3, e4, e5⟩ := layout44 (base := 0xA8600000) 42 3 0 0 0 d a rfl (by decide)
  refine of_decode hl ((major42 hm).trans ?_) rfl
  unfold decodeQue
  rw [e0, e1, e2, e3, e4, e5]
  rfl

theorem qpopt (d : BitVec 7) (a : BitVec 4) : Statement (.qpopt d a) := by
  obtain ⟨hl, hm, e0, e1, e2, e3, e4⟩ := layout43 (base := 0xA8800000) 42 4 0 0 d a rfl (by decide)
  refine of_decode hl ((major42 hm).trans ?_) rfl
  unfold decodeQue
  rw [e0, e1, e2, e3, e4]
  rfl

theorem qallow (d : BitVec 4) (b : BitVec 7) : Statement (.qallow d b) := by
  obtain ⟨hl, hm, e0, e1, e2, e3, e4⟩ := layout41 (base := 0xA8A00000) 42 5 0 0 d b rfl (by decide)
  refine of_decode hl ((major42 hm).trans ?_) rfl
  unfold decodeQue
  rw [e0, e1, e2, e3, e4]
  rfl

theorem tnmov (d : BitVec 7) (a : BitVec 7) (b : BitVec 7) : Statement (.tnmov d a b) := by
  obtain ⟨hl, hm, e0, e1, e2, e3⟩ := layout12 (base := 0xAC000000) 43 0 d a b rfl (by decide)
  refine of_decode hl ((major43 hm).trans ?_) rfl
  unfold decodeTen
  rw [e0, e1, e2, e3]
  rfl

theorem tnpin (d : BitVec 7) (a : BitVec 7) : Statement (.tnpin d a) := by
  obtain ⟨hl, hm, e0, e1, e2, e3⟩ := layout13 (base := 0xAC200000) 43 1 0 d a rfl (by decide)
  refine of_decode hl ((major43 hm).trans ?_) rfl
  unfold decodeTen
  rw [e0, e1, e2, e3]
  rfl

theorem tnunpin (d : BitVec 7) (a : BitVec 7) : Statement (.tnunpin d a) := by
  obtain ⟨hl, hm, e0, e1, e2, e3⟩ := layout13 (base := 0xAC400000) 43 2 0 d a rfl (by decide)
  refine of_decode hl ((major43 hm).trans ?_) rfl
  unfold decodeTen
  rw [e0, e1, e2, e3]
  rfl

theorem tnevict (d : BitVec 7) (a : BitVec 7) : Statement (.tnevict d a) := by
  obtain ⟨hl, hm, e0, e1, e2, e3⟩ := layout13 (base := 0xAC600000) 43 3 0 d a rfl (by decide)
  refine of_decode hl ((major43 hm).trans ?_) rfl
  unfold decodeTen
  rw [e0, e1, e2, e3]
  rfl

theorem tnwait (d : BitVec 7) (a : BitVec 7) : Statement (.tnwait d a) := by
  obtain ⟨hl, hm, e0, e1, e2, e3⟩ := layout13 (base := 0xAC800000) 43 4 0 d a rfl (by decide)
  refine of_decode hl ((major43 hm).trans ?_) rfl
  unfold decodeTen
  rw [e0, e1, e2, e3]
  rfl

theorem tnstat (d : BitVec 7) (a : BitVec 7) : Statement (.tnstat d a) := by
  obtain ⟨hl, hm, e0, e1, e2, e3⟩ := layout13 (base := 0xACA00000) 43 5 0 d a rfl (by decide)
  refine of_decode hl ((major43 hm).trans ?_) rfl
  unfold decodeTen
  rw [e0, e1, e2, e3]
  rfl

theorem tld (d : BitVec 4) (a : BitVec 7) (b : BitVec 7) : Statement (.tld d a b) := by
  obtain ⟨hl, hm, e0, e1, e2, e3, e4⟩ := layout45 (base := 0xC0000000) 48 0 0 d a b rfl (by decide)
  refine of_decode hl ((major48 hm).trans ?_) rfl
  unfold decodeTile
  rw [e0, e1, e2, e3, e4]
  rfl

theorem tst (d : BitVec 4) (a : BitVec 7) (b : BitVec 7) : Statement (.tst d a b) := by
  obtain ⟨hl, hm, e0, e1, e2, e3, e4⟩ := layout45 (base := 0xC0200000) 48 1 0 d a b rfl (by decide)
  refine of_decode hl ((major48 hm).trans ?_) rfl
  unfold decodeTile
  rw [e0, e1, e2, e3, e4]
  rfl

theorem tzero (d : BitVec 4) : Statement (.tzero d) := by
  obtain ⟨hl, hm, e0, e1, e2, e3⟩ := layout46 (base := 0xC0400000) 48 2 0 0 d rfl (by decide)
  refine of_decode hl ((major48 hm).trans ?_) rfl
  unfold decodeTile
  rw [e0, e1, e2, e3]
  rfl

theorem mma (d : BitVec 3) (a : BitVec 4) (b : BitVec 4) : Statement (.mma d a b) := by
  obtain ⟨hl, hm, e0, e1, e2, e3, e4, e5, e6⟩ := layout47 (base := 0xC4000000) 49 0 0 0 0 d a b rfl (by decide)
  refine of_decode hl ((major49 hm).trans ?_) rfl
  unfold decodeMma
  rw [e0, e1, e2, e3, e4, e5, e6]
  rfl

theorem mmaz (d : BitVec 3) (a : BitVec 4) (b : BitVec 4) : Statement (.mmaz d a b) := by
  obtain ⟨hl, hm, e0, e1, e2, e3, e4, e5, e6⟩ := layout47 (base := 0xC4200000) 49 1 0 0 0 d a b rfl (by decide)
  refine of_decode hl ((major49 hm).trans ?_) rfl
  unfold decodeMma
  rw [e0, e1, e2, e3, e4, e5, e6]
  rfl

theorem mmar (d : BitVec 3) (a : BitVec 4) (b : BitVec 4) : Statement (.mmar d a b) := by
  obtain ⟨hl, hm, e0, e1, e2, e3, e4, e5, e6⟩ := layout47 (base := 0xC4400000) 49 2 0 0 0 d a b rfl (by decide)
  refine of_decode hl ((major49 hm).trans ?_) rfl
  unfold decodeMma
  rw [e0, e1, e2, e3, e4, e5, e6]
  rfl

theorem accz (d : BitVec 3) : Statement (.accz d) := by
  obtain ⟨hl, hm, e0, e1, e2, e3⟩ := layout48 (base := 0xC8000000) 50 0 0 0 d rfl (by decide)
  refine of_decode hl ((major50 hm).trans ?_) rfl
  unfold decodeAcc
  rw [e0, e1, e2, e3]
  rfl

theorem accld (d : BitVec 7) (a : BitVec 3) (b : BitVec 7) : Statement (.accld d a b) := by
  obtain ⟨hl, hm, e0, e1, e2, e3, e4⟩ := layout26 (base := 0xC8200000) 50 1 0 d a b rfl (by decide)
  refine of_decode hl ((major50 hm).trans ?_) rfl
  unfold decodeAcc
  rw [e0, e1, e2, e3, e4]
  rfl

theorem draina (d : BitVec 3) (a : BitVec 7) (b : BitVec 7) : Statement (.draina d a b) := by
  obtain ⟨hl, hm, e0, e1, e2, e3, e4⟩ := layout25 (base := 0xC8400000) 50 2 0 d a b rfl (by decide)
  refine of_decode hl ((major50 hm).trans ?_) rfl
  unfold decodeAcc
  rw [e0, e1, e2, e3, e4]
  rfl

theorem drains (d : BitVec 3) (a : BitVec 7) (b : BitVec 7) : Statement (.drains d a b) := by
  obtain ⟨hl, hm, e0, e1, e2, e3, e4⟩ := layout25 (base := 0xC8600000) 50 3 0 d a b rfl (by decide)
  refine of_decode hl ((major50 hm).trans ?_) rfl
  unfold decodeAcc
  rw [e0, e1, e2, e3, e4]
  rfl

theorem trnew (d : BitVec 7) (a : BitVec 7) : Statement (.trnew d a) := by
  obtain ⟨hl, hm, e0, e1, e2, e3⟩ := layout13 (base := 0xE0000000) 56 0 0 d a rfl (by decide)
  refine of_decode hl ((major56 hm).trans ?_) rfl
  unfold decodeReel
  rw [e0, e1, e2, e3]
  rfl

theorem trroot (d : BitVec 7) (a : BitVec 7) (b : BitVec 1) : Statement (.trroot d a b) := by
  obtain ⟨hl, hm, e0, e1, e2, e3, e4⟩ := layout49 (base := 0xE0200000) 56 1 0 d a b rfl (by decide)
  refine of_decode hl ((major56 hm).trans ?_) rfl
  unfold decodeReel
  rw [e0, e1, e2, e3, e4]
  rfl

theorem trdesc (d : BitVec 7) (a : BitVec 7) : Statement (.trdesc d a) := by
  obtain ⟨hl, hm, e0, e1, e2, e3⟩ := layout13 (base := 0xE0400000) 56 2 0 d a rfl (by decide)
  refine of_decode hl ((major56 hm).trans ?_) rfl
  unfold decodeReel
  rw [e0, e1, e2, e3]
  rfl

theorem trexp (d : BitVec 7) (a : BitVec 7) (b : BitVec 1) : Statement (.trexp d a b) := by
  obtain ⟨hl, hm, e0, e1, e2, e3, e4⟩ := layout49 (base := 0xE0600000) 56 3 0 d a b rfl (by decide)
  refine of_decode hl ((major56 hm).trans ?_) rfl
  unfold decodeReel
  rw [e0, e1, e2, e3, e4]
  rfl

theorem trback (a : BitVec 7) (b : BitVec 7) : Statement (.trback a b) := by
  obtain ⟨hl, hm, e0, e1, e2, e3⟩ := layout10 (base := 0xE0800000) 56 4 0 a b rfl (by decide)
  refine of_decode hl ((major56 hm).trans ?_) rfl
  unfold decodeReel
  rw [e0, e1, e2, e3]
  rfl

theorem trreuse (d : BitVec 7) (a : BitVec 7) : Statement (.trreuse d a) := by
  obtain ⟨hl, hm, e0, e1, e2, e3⟩ := layout13 (base := 0xE0A00000) 56 5 0 d a rfl (by decide)
  refine of_decode hl ((major56 hm).trans ?_) rfl
  unfold decodeReel
  rw [e0, e1, e2, e3]
  rfl

theorem trfree (a : BitVec 7) (b : BitVec 1) : Statement (.trfree a b) := by
  obtain ⟨hl, hm, e0, e1, e2, e3, e4⟩ := layout50 (base := 0xE0C00000) 56 6 0 0 a b rfl (by decide)
  refine of_decode hl ((major56 hm).trans ?_) rfl
  unfold decodeReel
  rw [e0, e1, e2, e3, e4]
  rfl

theorem trleaf (d : BitVec 7) (a : BitVec 7) (b : BitVec 7) : Statement (.trleaf d a b) := by
  obtain ⟨hl, hm, e0, e1, e2, e3⟩ := layout12 (base := 0xE0E00000) 56 7 d a b rfl (by decide)
  refine of_decode hl ((major56 hm).trans ?_) rfl
  unfold decodeReel
  rw [e0, e1, e2, e3]
  rfl

theorem trstat (d : BitVec 7) (a : BitVec 7) (k : BitVec 3) : Statement (.trstat d a k) := by
  obtain ⟨hl, hm, e0, e1, e2, e3, e4⟩ := layout51 (base := 0xE1000000) 56 8 0 d a k rfl (by decide)
  refine of_decode hl ((major56 hm).trans ?_) rfl
  unfold decodeReel
  rw [e0, e1, e2, e3, e4]
  rfl

theorem cxnew (d : BitVec 7) (a : BitVec 7) : Statement (.cxnew d a) := by
  obtain ⟨hl, hm, e0, e1, e2, e3⟩ := layout13 (base := 0xE4000000) 57 0 0 d a rfl (by decide)
  refine of_decode hl ((major57 hm).trans ?_) rfl
  unfold decodeCtxi
  rw [e0, e1, e2, e3]
  rfl

theorem cxtnew (d : BitVec 7) (a : BitVec 7) : Statement (.cxtnew d a) := by
  obtain ⟨hl, hm, e0, e1, e2, e3⟩ := layout13 (base := 0xE4200000) 57 1 0 d a rfl (by decide)
  refine of_decode hl ((major57 hm).trans ?_) rfl
  unfold decodeCtxi
  rw [e0, e1, e2, e3]
  rfl

theorem cxret (a : BitVec 7) : Statement (.cxret a) := by
  obtain ⟨hl, hm, e0, e1, e2, e3⟩ := layout11 (base := 0xE4400000) 57 2 0 0 a rfl (by decide)
  refine of_decode hl ((major57 hm).trans ?_) rfl
  unfold decodeCtxi
  rw [e0, e1, e2, e3]
  rfl

theorem cxset (a : BitVec 7) : Statement (.cxset a) := by
  obtain ⟨hl, hm, e0, e1, e2, e3⟩ := layout11 (base := 0xE4600000) 57 3 0 0 a rfl (by decide)
  refine of_decode hl ((major57 hm).trans ?_) rfl
  unfold decodeCtxi
  rw [e0, e1, e2, e3]
  rfl

theorem cxget (d : BitVec 7) (a : BitVec 7) : Statement (.cxget d a) := by
  obtain ⟨hl, hm, e0, e1, e2, e3⟩ := layout13 (base := 0xE4800000) 57 4 0 d a rfl (by decide)
  refine of_decode hl ((major57 hm).trans ?_) rfl
  unfold decodeCtxi
  rw [e0, e1, e2, e3]
  rfl

theorem cxpar (d : BitVec 7) (a : BitVec 7) : Statement (.cxpar d a) := by
  obtain ⟨hl, hm, e0, e1, e2, e3⟩ := layout13 (base := 0xE4A00000) 57 5 0 d a rfl (by decide)
  refine of_decode hl ((major57 hm).trans ?_) rfl
  unfold decodeCtxi
  rw [e0, e1, e2, e3]
  rfl

theorem osend (d : BitVec 7) (a : BitVec 7) (b : BitVec 7) : Statement (.osend d a b) := by
  obtain ⟨hl, hm, e0, e1, e2, e3⟩ := layout12 (base := 0xE8000000) 58 0 d a b rfl (by decide)
  refine of_decode hl ((major58 hm).trans ?_) rfl
  unfold decodeFab
  rw [e0, e1, e2, e3]
  rfl

theorem usend (d : BitVec 7) (a : BitVec 7) (b : BitVec 7) : Statement (.usend d a b) := by
  obtain ⟨hl, hm, e0, e1, e2, e3⟩ := layout12 (base := 0xE8200000) 58 1 d a b rfl (by decide)
  refine of_decode hl ((major58 hm).trans ?_) rfl
  unfold decodeFab
  rw [e0, e1, e2, e3]
  rfl

theorem orecv (d : BitVec 7) (a : BitVec 7) (b : BitVec 7) : Statement (.orecv d a b) := by
  obtain ⟨hl, hm, e0, e1, e2, e3⟩ := layout12 (base := 0xE8400000) 58 2 d a b rfl (by decide)
  refine of_decode hl ((major58 hm).trans ?_) rfl
  unfold decodeFab
  rw [e0, e1, e2, e3]
  rfl

theorem opeek (d : BitVec 7) (a : BitVec 7) : Statement (.opeek d a) := by
  obtain ⟨hl, hm, e0, e1, e2, e3⟩ := layout13 (base := 0xE8600000) 58 3 0 d a rfl (by decide)
  refine of_decode hl ((major58 hm).trans ?_) rfl
  unfold decodeFab
  rw [e0, e1, e2, e3]
  rfl

theorem ostamp (d : BitVec 7) (k : BitVec 2) : Statement (.ostamp d k) := by
  obtain ⟨hl, hm, e0, e1, e2, e3⟩ := layout52 (base := 0xE8800000) 58 4 0 d k rfl (by decide)
  refine of_decode hl ((major58 hm).trans ?_) rfl
  unfold decodeFab
  rw [e0, e1, e2, e3]
  rfl

theorem owm (d : BitVec 7) (a : BitVec 7) : Statement (.owm d a) := by
  obtain ⟨hl, hm, e0, e1, e2, e3⟩ := layout13 (base := 0xE8A00000) 58 5 0 d a rfl (by decide)
  refine of_decode hl ((major58 hm).trans ?_) rfl
  unfold decodeFab
  rw [e0, e1, e2, e3]
  rfl

theorem pstatr (d : BitVec 7) (a : BitVec 7) : Statement (.pstatr d a) := by
  obtain ⟨hl, hm, e0, e1, e2, e3⟩ := layout13 (base := 0xEC000000) 59 0 0 d a rfl (by decide)
  refine of_decode hl ((major59 hm).trans ?_) rfl
  unfold decodePage
  rw [e0, e1, e2, e3]
  rfl

theorem bwait (d : BitVec 7) (a : BitVec 7) : Statement (.bwait d a) := by
  obtain ⟨hl, hm, e0, e1, e2, e3⟩ := layout13 (base := 0xEC200000) 59 1 0 d a rfl (by decide)
  refine of_decode hl ((major59 hm).trans ?_) rfl
  unfold decodePage
  rw [e0, e1, e2, e3]
  rfl

theorem btry (d : BitVec 7) (a : BitVec 7) : Statement (.btry d a) := by
  obtain ⟨hl, hm, e0, e1, e2, e3⟩ := layout13 (base := 0xEC400000) 59 2 0 d a rfl (by decide)
  refine of_decode hl ((major59 hm).trans ?_) rfl
  unfold decodePage
  rw [e0, e1, e2, e3]
  rfl

theorem pfree : Statement (.pfree) := by
  obtain ⟨hl, hm, e0, e1⟩ := layout0 (base := 0xEC600000) 59 3 0 rfl (by decide)
  refine of_decode hl ((major59 hm).trans ?_) rfl
  unfold decodePage
  rw [e0, e1]
  rfl

theorem groupRetire (k : GKey) : Statement (.groupRetire k) := of_event rfl

theorem donateTransfer (donor taker : GKey) : Statement (.donateTransfer donor taker) := of_event rfl

theorem loadCompletion (op : Nat) : Statement (.loadCompletion op) := of_event rfl

theorem storePerformed (op : Nat) : Statement (.storePerformed op) := of_event rfl

theorem atomicCompletion (op : Nat) : Statement (.atomicCompletion op) := of_event rfl

theorem hostAtomicCompletion (op : Nat) (st : LinkStatus) : Statement (.hostAtomicCompletion op st) := of_event rfl

theorem hostCompletionTimeout (op : Nat) : Statement (.hostCompletionTimeout op) := of_event rfl

theorem copyCompletion (op : Nat) : Statement (.copyCompletion op) := of_event rfl

theorem engineAccept (op : Nat) : Statement (.engineAccept op) := of_event rfl

theorem tileCompletion (op : Nat) : Statement (.tileCompletion op) := of_event rfl

theorem mmaCompletion (op : Nat) : Statement (.mmaCompletion op) := of_event rfl

theorem mmarAllowance (op : Nat) (second : Bool) : Statement (.mmarAllowance op second) := of_event rfl

theorem drainCompletion (op : Nat) : Statement (.drainCompletion op) := of_event rfl

theorem reelStep (op : Nat) : Statement (.reelStep op) := of_event rfl

theorem parkedReplay (k : GKey) : Statement (.parkedReplay k) := of_event rfl

theorem faultQueueRoom (part : Nat) : Statement (.faultQueueRoom part) := of_event rfl

theorem waitaTimeout (k : GKey) : Statement (.waitaTimeout k) := of_event rfl

theorem bwaitTimeout (k : GKey) : Statement (.bwaitTimeout k) := of_event rfl

theorem orecvTimeout (k : GKey) : Statement (.orecvTimeout k) := of_event rfl

theorem reclaimComplete (tag : BitVec 16) : Statement (.reclaimComplete tag) := of_event rfl

theorem moveCompletes (part : Nat) (handle : BitVec 32) : Statement (.moveCompletes part handle) := of_event rfl

theorem moveFails (part : Nat) (handle : BitVec 32) : Statement (.moveFails part handle) := of_event rfl

theorem evictionEnd (part : Nat) (handle : BitVec 32) : Statement (.evictionEnd part handle) := of_event rfl

theorem pageReadIssue (launch : Nat) : Statement (.pageReadIssue launch) := of_event rfl

theorem pageLanding (launch page : Nat) (r : FlashRead) : Statement (.pageLanding launch page r) := of_event rfl

theorem distaffBoundExpiry (launch page retries : Nat) : Statement (.distaffBoundExpiry launch page retries) := of_event rfl

theorem nvmeReadCompletion (launch page : Nat) (st : DriveStatus) (data : List (Nat × Byte)) : Statement (.nvmeReadCompletion launch page st data) := of_event rfl

theorem nvmeTimeout (launch page : Nat) : Statement (.nvmeTimeout launch page) := of_event rfl

theorem memoryPageCopy (launch spindle : Nat) : Statement (.memoryPageCopy launch spindle) := of_event rfl

theorem placement (launch spindle : Nat) : Statement (.placement launch spindle) := of_event rfl

theorem activeSwap (spindle lane : Nat) : Statement (.activeSwap spindle lane) := of_event rfl

theorem promotion (k : GKey) : Statement (.promotion k) := of_event rfl

theorem teamSwapOut (t : TKey) : Statement (.teamSwapOut t) := of_event rfl

theorem teamSwapIn (t : TKey) : Statement (.teamSwapIn t) := of_event rfl

theorem timeSliceExpiry (part : Nat) : Statement (.timeSliceExpiry part) := of_event rfl

theorem deferralLimitExpiry (t : TKey) : Statement (.deferralLimitExpiry t) := of_event rfl

theorem teamSave (t : TKey) : Statement (.teamSave t) := of_event rfl

theorem teamRestore (t : TKey) : Statement (.teamRestore t) := of_event rfl

theorem quantumEnd (launch : Nat) : Statement (.quantumEnd launch) := of_event rfl

theorem syncOpEffect (k : GKey) : Statement (.syncOpEffect k) := of_event rfl

theorem launch (part q : Nat) : Statement (.launch part q) := of_event rfl

theorem move (part q : Nat) : Statement (.move part q) := of_event rfl

theorem copyPacket (part q : Nat) : Statement (.copyPacket part q) := of_event rfl

theorem signal (part q : Nat) : Statement (.signal part q) := of_event rfl

theorem waitPacket (part q : Nat) : Statement (.waitPacket part q) := of_event rfl

theorem bundle (part q : Nat) : Statement (.bundle part q) := of_event rfl

theorem completionRecord (packet : Nat) : Statement (.completionRecord packet) := of_event rfl

theorem createq (fn : Fn) (a : QueueArgs) : Statement (.createq fn a) := of_event rfl

theorem resetq (fn : Fn) (q : Nat) : Statement (.resetq fn q) := of_event rfl

theorem destroyq (fn : Fn) (q : Nat) : Statement (.destroyq fn q) := of_event rfl

theorem setasid (fn : Fn) (asid : BitVec 16) (home : Nat) (gpa : BitVec 64) (bar2 : Option (BitVec 64)) : Statement (.setasid fn asid home gpa bar2) := of_event rfl

theorem sets2 (fn : Fn) (part home rootHome : Nat) (rootPa : BitVec 64) : Statement (.sets2 fn part home rootHome rootPa) := of_event rfl

theorem tlbinv (fn : Fn) (what : TlbScope) : Statement (.tlbinv fn what) := of_event rfl

theorem faultq (fn : Fn) (addr : BitVec 64) (log2 : Nat) : Statement (.faultq fn addr log2) := of_event rfl

theorem faultrespReplay (fn : Fn) (id : Nat) : Statement (.faultrespReplay fn id) := of_event rfl

theorem faultrespFail (fn : Fn) (id : Nat) : Statement (.faultrespFail fn id) := of_event rfl

theorem eventq (fn : Fn) (addr : BitVec 64) (log2 : Nat) : Statement (.eventq fn addr log2) := of_event rfl

theorem quota (fn : Fn) (part res idx value : Nat) : Statement (.quota fn part res idx value) := of_event rfl

theorem cellstore (fn : Fn) (home cells : Nat) : Statement (.cellstore fn home cells) := of_event rfl

theorem regtensor (fn : Fn) (a : TensorArgs) : Statement (.regtensor fn a) := of_event rfl

theorem unregtensor (fn : Fn) (handle : BitVec 32) : Statement (.unregtensor fn handle) := of_event rfl

theorem preempt (fn : Fn) (q : Nat) : Statement (.preempt fn q) := of_event rfl

theorem keyset (fn : Fn) (key : Nat) : Statement (.keyset fn key) := of_event rfl

theorem keyclr (fn : Fn) (key : Nat) : Statement (.keyclr fn key) := of_event rfl

theorem power (fn : Fn) (state warn : Nat) : Statement (.power fn state warn) := of_event rfl

theorem fwload (fn : Fn) (addr : BitVec 64) (len : Nat) (commit : Bool) : Statement (.fwload fn addr len commit) := of_event rfl

theorem attest (fn : Fn) (nonce report : BitVec 64) (cert : Bool) : Statement (.attest fn nonce report cert) := of_event rfl

theorem nvmepass (fn : Fn) (drive : PassQueue) (cmd cpl : BitVec 64) : Statement (.nvmepass fn drive cmd cpl) := of_event rfl

theorem nvmepassCompletion (drive : Nat) (entry : List Byte) : Statement (.nvmepassCompletion drive entry) := of_event rfl

theorem ringbind (fn : Fn) (ring part : Nat) (asid : BitVec 16) (va : BitVec 64) (log2 : Nat) (logical : Bool) : Statement (.ringbind fn ring part asid va log2 logical) := of_event rfl

theorem ringfree (fn : Fn) (ring : Nat) : Statement (.ringfree fn ring) := of_event rfl

theorem importBind (fn : Fn) (srcDev srcPart part : Nat) (asid : BitVec 16) : Statement (.importBind fn srcDev srcPart part asid) := of_event rfl

theorem importRemove (fn : Fn) (srcDev srcPart : Nat) : Statement (.importRemove fn srcDev srcPart) := of_event rfl

theorem nvmeto (fn : Fn) (drive ms : Nat) : Statement (.nvmeto fn drive ms) := of_event rfl

theorem fabricMessageArrival (port : Nat) (m : Msg) : Statement (.fabricMessageArrival port m) := of_event rfl

theorem beaconArrival (port w lw : Nat) : Statement (.beaconArrival port w lw) := of_event rfl

theorem unorderedArrival (port : Nat) (m : Msg) : Statement (.unorderedArrival port m) := of_event rfl

theorem orderedDelivery : Statement (.orderedDelivery) := of_event rfl

theorem beaconTimer (port : Nat) : Statement (.beaconTimer port) := of_event rfl

theorem timeBeacon (time : BitVec 64) : Statement (.timeBeacon time) := of_event rfl

theorem portStall (port : Nat) : Statement (.portStall port) := of_event rfl

theorem pause (port : Nat) (c : PauseClass) (on : Bool) : Statement (.pause port c on) := of_event rfl

theorem peerRequest (srcDev srcPart phome : Nat) (off : Nat) (acc : ExtAccess) : Statement (.peerRequest srcDev srcPart phome off acc) := of_event rfl

theorem portAdmit (port : Nat) : Statement (.portAdmit port) := of_event rfl

theorem portFence (port : Nat) : Statement (.portFence port) := of_event rfl

theorem fabdropClear (v : BitVec 64) : Statement (.fabdropClear v) := of_event rfl

theorem linkdown (l : Link) : Statement (.linkdown l) := of_event rfl

theorem bar2Access (fn : Fn) (off : Nat) (acc : ExtAccess) : Statement (.bar2Access fn off acc) := of_event rfl

theorem cxlMemAccess (off : Nat) (acc : ExtAccess) : Statement (.cxlMemAccess off acc) := of_event rfl

theorem gcmdStop (spindle : Nat) : Statement (.gcmdStop spindle) := of_event rfl

theorem gcmdResume (spindle : Nat) (team : Bool) : Statement (.gcmdResume spindle team) := of_event rfl

theorem gcmdStep (spindle : Nat) : Statement (.gcmdStep spindle) := of_event rfl

theorem prctlClr (spindle : Nat) (freeze : Bool) : Statement (.prctlClr spindle freeze) := of_event rfl

theorem groupWindowWrite (spindle off : Nat) (v : BitVec 64) : Statement (.groupWindowWrite spindle off v) := of_event rfl

theorem traceEnable (spindle : Nat) (ctl : BitVec 64) : Statement (.traceEnable spindle ctl) := of_event rfl

theorem syncSet (spindle : Nat) : Statement (.syncSet spindle) := of_event rfl

theorem traceRecordWrite (spindle : Nat) : Statement (.traceRecordWrite spindle) := of_event rfl

theorem breakpointStop (k : GKey) : Statement (.breakpointStop k) := of_event rfl

theorem coreDump (t : TKey) : Statement (.coreDump t) := of_event rfl

theorem hankMirror : Statement (.hankMirror) := of_event rfl

theorem thermwarn (die temp : Nat) : Statement (.thermwarn die temp) := of_event rfl

theorem thermtrip (die temp : Nat) : Statement (.thermtrip die temp) := of_event rfl

theorem fundamentalReset : Statement (.fundamentalReset) := of_event rfl

theorem functionLevelReset (part : Nat) : Statement (.functionLevelReset part) := of_event rfl

theorem registerWrite (r : HostReg) (v : BitVec 64) : Statement (.registerWrite r v) := of_event rfl

theorem illegalWord (w : BitVec 32) : Statement (.illegalWord w) := of_event rfl

theorem outOfSectionFetch (addr : BitVec 64) : Statement (.outOfSectionFetch addr) := of_event rfl

theorem powerLoss : Statement (.powerLoss) := of_event rfl

theorem linkTrained (port peerDev peerPort : Nat) : Statement (.linkTrained port peerDev peerPort) := of_event rfl

theorem unusedSlot (spindle quad : Nat) : Statement (.unusedSlot spindle quad) := of_event rfl

end Sys2Proof.Laws.RoundTrip
end

