-- ==== Sys2Proof/Laws/State.lean ====
section
/-! SUPPORT. What the updates of the state leave: one equation for each field. -/

namespace Sys2Proof.Machine

section onGrp
variable (f : Group → Group) (s : State)
@[simp] theorem onGrp_agenda : (onGrp f s).agenda = s.agenda := rfl
@[simp] theorem onGrp_grp : (onGrp f s).grp = f s.grp := rfl
@[simp] theorem onGrp_team : (onGrp f s).team = s.team := rfl
@[simp] theorem onGrp_grid : (onGrp f s).grid = s.grid := rfl
@[simp] theorem onGrp_groups : (onGrp f s).groups = s.groups := rfl
@[simp] theorem onGrp_teams : (onGrp f s).teams = s.teams := rfl
@[simp] theorem onGrp_grids : (onGrp f s).grids = s.grids := rfl
@[simp] theorem onGrp_ops : (onGrp f s).ops = s.ops := rfl
@[simp] theorem onGrp_nextOp : (onGrp f s).nextOp = s.nextOp := rfl
@[simp] theorem onGrp_nextAccept : (onGrp f s).nextAccept = s.nextAccept := rfl
@[simp] theorem onGrp_nextLaunch : (onGrp f s).nextLaunch = s.nextLaunch := rfl
@[simp] theorem onGrp_nextPacket : (onGrp f s).nextPacket = s.nextPacket := rfl
@[simp] theorem onGrp_nextAge : (onGrp f s).nextAge = s.nextAge := rfl
@[simp] theorem onGrp_fresh : (onGrp f s).fresh = s.fresh := rfl
@[simp] theorem onGrp_now : (onGrp f s).now = s.now := rfl
@[simp] theorem onGrp_ticks : (onGrp f s).ticks = s.ticks := rfl
@[simp] theorem onGrp_cycles : (onGrp f s).cycles = s.cycles := rfl
@[simp] theorem onGrp_nextPromo : (onGrp f s).nextPromo = s.nextPromo := rfl
@[simp] theorem onGrp_laneBusy : (onGrp f s).laneBusy = s.laneBusy := rfl
@[simp] theorem onGrp_byteGen : (onGrp f s).byteGen = s.byteGen := rfl
@[simp] theorem onGrp_ecc : (onGrp f s).ecc = s.ecc := rfl
@[simp] theorem onGrp_poison : (onGrp f s).poison = s.poison := rfl
@[simp] theorem onGrp_aborting : (onGrp f s).aborting = s.aborting := rfl
@[simp] theorem onGrp_peerFaults : (onGrp f s).peerFaults = s.peerFaults := rfl
@[simp] theorem onGrp_slots : (onGrp f s).slots = s.slots := rfl
@[simp] theorem onGrp_creels : (onGrp f s).creels = s.creels := rfl
@[simp] theorem onGrp_tags : (onGrp f s).tags = s.tags := rfl
@[simp] theorem onGrp_cells : (onGrp f s).cells = s.cells := rfl
@[simp] theorem onGrp_cellStore : (onGrp f s).cellStore = s.cellStore := rfl
@[simp] theorem onGrp_ctxWaiters : (onGrp f s).ctxWaiters = s.ctxWaiters := rfl
@[simp] theorem onGrp_tensors : (onGrp f s).tensors = s.tensors := rfl
@[simp] theorem onGrp_trees : (onGrp f s).trees = s.trees := rfl
@[simp] theorem onGrp_rings : (onGrp f s).rings = s.rings := rfl
@[simp] theorem onGrp_ports : (onGrp f s).ports = s.ports := rfl
@[simp] theorem onGrp_holdBuf : (onGrp f s).holdBuf = s.holdBuf := rfl
@[simp] theorem onGrp_outBuf : (onGrp f s).outBuf = s.outBuf := rfl
@[simp] theorem onGrp_egress : (onGrp f s).egress = s.egress := rfl
@[simp] theorem onGrp_floor : (onGrp f s).floor = s.floor := rfl
@[simp] theorem onGrp_stallUs : (onGrp f s).stallUs = s.stallUs := rfl
@[simp] theorem onGrp_tmaster : (onGrp f s).tmaster = s.tmaster := rfl
@[simp] theorem onGrp_synced : (onGrp f s).synced = s.synced := rfl
@[simp] theorem onGrp_steer : (onGrp f s).steer = s.steer := rfl
@[simp] theorem onGrp_devId : (onGrp f s).devId = s.devId := rfl
@[simp] theorem onGrp_dropUnbound : (onGrp f s).dropUnbound = s.dropUnbound := rfl
@[simp] theorem onGrp_dropKind : (onGrp f s).dropKind = s.dropKind := rfl
@[simp] theorem onGrp_routes : (onGrp f s).routes = s.routes := rfl
@[simp] theorem onGrp_imports : (onGrp f s).imports = s.imports := rfl
@[simp] theorem onGrp_aspaces : (onGrp f s).aspaces = s.aspaces := rfl
@[simp] theorem onGrp_s2roots : (onGrp f s).s2roots = s.s2roots := rfl
@[simp] theorem onGrp_tlb : (onGrp f s).tlb = s.tlb := rfl
@[simp] theorem onGrp_records : (onGrp f s).records = s.records := rfl
@[simp] theorem onGrp_nextRecord : (onGrp f s).nextRecord = s.nextRecord := rfl
@[simp] theorem onGrp_nextTree : (onGrp f s).nextTree = s.nextTree := rfl
@[simp] theorem onGrp_parts : (onGrp f s).parts = s.parts := rfl
@[simp] theorem onGrp_fns : (onGrp f s).fns = s.fns := rfl
@[simp] theorem onGrp_queues : (onGrp f s).queues = s.queues := rfl
@[simp] theorem onGrp_tokens : (onGrp f s).tokens = s.tokens := rfl
@[simp] theorem onGrp_packets : (onGrp f s).packets = s.packets := rfl
@[simp] theorem onGrp_keys : (onGrp f s).keys = s.keys := rfl
@[simp] theorem onGrp_nextKey : (onGrp f s).nextKey = s.nextKey := rfl
@[simp] theorem onGrp_firmware : (onGrp f s).firmware = s.firmware := rfl
@[simp] theorem onGrp_pstate : (onGrp f s).pstate = s.pstate := rfl
@[simp] theorem onGrp_warnTemp : (onGrp f s).warnTemp = s.warnTemp := rfl
@[simp] theorem onGrp_power : (onGrp f s).power = s.power := rfl
@[simp] theorem onGrp_temp : (onGrp f s).temp = s.temp := rfl
@[simp] theorem onGrp_cxl : (onGrp f s).cxl = s.cxl := rfl
@[simp] theorem onGrp_cxlBase : (onGrp f s).cxlBase = s.cxlBase := rfl
@[simp] theorem onGrp_cxlSize : (onGrp f s).cxlSize = s.cxlSize := rfl
@[simp] theorem onGrp_atomicsOff : (onGrp f s).atomicsOff = s.atomicsOff := rfl
@[simp] theorem onGrp_replies : (onGrp f s).replies = s.replies := rfl
@[simp] theorem onGrp_peerWaits : (onGrp f s).peerWaits = s.peerWaits := rfl
@[simp] theorem onGrp_nvmeMs : (onGrp f s).nvmeMs = s.nvmeMs := rfl
@[simp] theorem onGrp_passing : (onGrp f s).passing = s.passing := rfl
@[simp] theorem onGrp_nvmeReads : (onGrp f s).nvmeReads = s.nvmeReads := rfl
@[simp] theorem onGrp_metaNs : (onGrp f s).metaNs = s.metaNs := rfl
@[simp] theorem onGrp_nextTurn : (onGrp f s).nextTurn = s.nextTurn := rfl
@[simp] theorem onGrp_dbg : (onGrp f s).dbg = s.dbg := rfl
@[simp] theorem onGrp_windowWrites : (onGrp f s).windowWrites = s.windowWrites := rfl
@[simp] theorem onGrp_hank : (onGrp f s).hank = s.hank := rfl
@[simp] theorem onGrp_hankFlash : (onGrp f s).hankFlash = s.hankFlash := rfl
@[simp] theorem onGrp_hankHead : (onGrp f s).hankHead = s.hankHead := rfl
@[simp] theorem onGrp_boots : (onGrp f s).boots = s.boots := rfl
@[simp] theorem onGrp_linkDown : (onGrp f s).linkDown = s.linkDown := rfl
@[simp] theorem onGrp_off : (onGrp f s).off = s.off := rfl
@[simp] theorem onGrp_cto : (onGrp f s).cto = s.cto := rfl
@[simp] theorem onGrp_halts : (onGrp f s).halts = s.halts := rfl
end onGrp

section onTeam
variable (f : Team → Team) (s : State)
@[simp] theorem onTeam_agenda : (onTeam f s).agenda = s.agenda := rfl
@[simp] theorem onTeam_grp : (onTeam f s).grp = s.grp := rfl
@[simp] theorem onTeam_team : (onTeam f s).team = f s.team := rfl
@[simp] theorem onTeam_grid : (onTeam f s).grid = s.grid := rfl
@[simp] theorem onTeam_groups : (onTeam f s).groups = s.groups := rfl
@[simp] theorem onTeam_teams : (onTeam f s).teams = s.teams := rfl
@[simp] theorem onTeam_grids : (onTeam f s).grids = s.grids := rfl
@[simp] theorem onTeam_ops : (onTeam f s).ops = s.ops := rfl
@[simp] theorem onTeam_nextOp : (onTeam f s).nextOp = s.nextOp := rfl
@[simp] theorem onTeam_nextAccept : (onTeam f s).nextAccept = s.nextAccept := rfl
@[simp] theorem onTeam_nextLaunch : (onTeam f s).nextLaunch = s.nextLaunch := rfl
@[simp] theorem onTeam_nextPacket : (onTeam f s).nextPacket = s.nextPacket := rfl
@[simp] theorem onTeam_nextAge : (onTeam f s).nextAge = s.nextAge := rfl
@[simp] theorem onTeam_fresh : (onTeam f s).fresh = s.fresh := rfl
@[simp] theorem onTeam_now : (onTeam f s).now = s.now := rfl
@[simp] theorem onTeam_ticks : (onTeam f s).ticks = s.ticks := rfl
@[simp] theorem onTeam_cycles : (onTeam f s).cycles = s.cycles := rfl
@[simp] theorem onTeam_nextPromo : (onTeam f s).nextPromo = s.nextPromo := rfl
@[simp] theorem onTeam_laneBusy : (onTeam f s).laneBusy = s.laneBusy := rfl
@[simp] theorem onTeam_byteGen : (onTeam f s).byteGen = s.byteGen := rfl
@[simp] theorem onTeam_ecc : (onTeam f s).ecc = s.ecc := rfl
@[simp] theorem onTeam_poison : (onTeam f s).poison = s.poison := rfl
@[simp] theorem onTeam_aborting : (onTeam f s).aborting = s.aborting := rfl
@[simp] theorem onTeam_peerFaults : (onTeam f s).peerFaults = s.peerFaults := rfl
@[simp] theorem onTeam_slots : (onTeam f s).slots = s.slots := rfl
@[simp] theorem onTeam_creels : (onTeam f s).creels = s.creels := rfl
@[simp] theorem onTeam_tags : (onTeam f s).tags = s.tags := rfl
@[simp] theorem onTeam_cells : (onTeam f s).cells = s.cells := rfl
@[simp] theorem onTeam_cellStore : (onTeam f s).cellStore = s.cellStore := rfl
@[simp] theorem onTeam_ctxWaiters : (onTeam f s).ctxWaiters = s.ctxWaiters := rfl
@[simp] theorem onTeam_tensors : (onTeam f s).tensors = s.tensors := rfl
@[simp] theorem onTeam_trees : (onTeam f s).trees = s.trees := rfl
@[simp] theorem onTeam_rings : (onTeam f s).rings = s.rings := rfl
@[simp] theorem onTeam_ports : (onTeam f s).ports = s.ports := rfl
@[simp] theorem onTeam_holdBuf : (onTeam f s).holdBuf = s.holdBuf := rfl
@[simp] theorem onTeam_outBuf : (onTeam f s).outBuf = s.outBuf := rfl
@[simp] theorem onTeam_egress : (onTeam f s).egress = s.egress := rfl
@[simp] theorem onTeam_floor : (onTeam f s).floor = s.floor := rfl
@[simp] theorem onTeam_stallUs : (onTeam f s).stallUs = s.stallUs := rfl
@[simp] theorem onTeam_tmaster : (onTeam f s).tmaster = s.tmaster := rfl
@[simp] theorem onTeam_synced : (onTeam f s).synced = s.synced := rfl
@[simp] theorem onTeam_steer : (onTeam f s).steer = s.steer := rfl
@[simp] theorem onTeam_devId : (onTeam f s).devId = s.devId := rfl
@[simp] theorem onTeam_dropUnbound : (onTeam f s).dropUnbound = s.dropUnbound := rfl
@[simp] theorem onTeam_dropKind : (onTeam f s).dropKind = s.dropKind := rfl
@[simp] theorem onTeam_routes : (onTeam f s).routes = s.routes := rfl
@[simp] theorem onTeam_imports : (onTeam f s).imports = s.imports := rfl
@[simp] theorem onTeam_aspaces : (onTeam f s).aspaces = s.aspaces := rfl
@[simp] theorem onTeam_s2roots : (onTeam f s).s2roots = s.s2roots := rfl
@[simp] theorem onTeam_tlb : (onTeam f s).tlb = s.tlb := rfl
@[simp] theorem onTeam_records : (onTeam f s).records = s.records := rfl
@[simp] theorem onTeam_nextRecord : (onTeam f s).nextRecord = s.nextRecord := rfl
@[simp] theorem onTeam_nextTree : (onTeam f s).nextTree = s.nextTree := rfl
@[simp] theorem onTeam_parts : (onTeam f s).parts = s.parts := rfl
@[simp] theorem onTeam_fns : (onTeam f s).fns = s.fns := rfl
@[simp] theorem onTeam_queues : (onTeam f s).queues = s.queues := rfl
@[simp] theorem onTeam_tokens : (onTeam f s).tokens = s.tokens := rfl
@[simp] theorem onTeam_packets : (onTeam f s).packets = s.packets := rfl
@[simp] theorem onTeam_keys : (onTeam f s).keys = s.keys := rfl
@[simp] theorem onTeam_nextKey : (onTeam f s).nextKey = s.nextKey := rfl
@[simp] theorem onTeam_firmware : (onTeam f s).firmware = s.firmware := rfl
@[simp] theorem onTeam_pstate : (onTeam f s).pstate = s.pstate := rfl
@[simp] theorem onTeam_warnTemp : (onTeam f s).warnTemp = s.warnTemp := rfl
@[simp] theorem onTeam_power : (onTeam f s).power = s.power := rfl
@[simp] theorem onTeam_temp : (onTeam f s).temp = s.temp := rfl
@[simp] theorem onTeam_cxl : (onTeam f s).cxl = s.cxl := rfl
@[simp] theorem onTeam_cxlBase : (onTeam f s).cxlBase = s.cxlBase := rfl
@[simp] theorem onTeam_cxlSize : (onTeam f s).cxlSize = s.cxlSize := rfl
@[simp] theorem onTeam_atomicsOff : (onTeam f s).atomicsOff = s.atomicsOff := rfl
@[simp] theorem onTeam_replies : (onTeam f s).replies = s.replies := rfl
@[simp] theorem onTeam_peerWaits : (onTeam f s).peerWaits = s.peerWaits := rfl
@[simp] theorem onTeam_nvmeMs : (onTeam f s).nvmeMs = s.nvmeMs := rfl
@[simp] theorem onTeam_passing : (onTeam f s).passing = s.passing := rfl
@[simp] theorem onTeam_nvmeReads : (onTeam f s).nvmeReads = s.nvmeReads := rfl
@[simp] theorem onTeam_metaNs : (onTeam f s).metaNs = s.metaNs := rfl
@[simp] theorem onTeam_nextTurn : (onTeam f s).nextTurn = s.nextTurn := rfl
@[simp] theorem onTeam_dbg : (onTeam f s).dbg = s.dbg := rfl
@[simp] theorem onTeam_windowWrites : (onTeam f s).windowWrites = s.windowWrites := rfl
@[simp] theorem onTeam_hank : (onTeam f s).hank = s.hank := rfl
@[simp] theorem onTeam_hankFlash : (onTeam f s).hankFlash = s.hankFlash := rfl
@[simp] theorem onTeam_hankHead : (onTeam f s).hankHead = s.hankHead := rfl
@[simp] theorem onTeam_boots : (onTeam f s).boots = s.boots := rfl
@[simp] theorem onTeam_linkDown : (onTeam f s).linkDown = s.linkDown := rfl
@[simp] theorem onTeam_off : (onTeam f s).off = s.off := rfl
@[simp] theorem onTeam_cto : (onTeam f s).cto = s.cto := rfl
@[simp] theorem onTeam_halts : (onTeam f s).halts = s.halts := rfl
end onTeam

section onGrid
variable (f : Grid → Grid) (s : State)
@[simp] theorem onGrid_agenda : (onGrid f s).agenda = s.agenda := rfl
@[simp] theorem onGrid_grp : (onGrid f s).grp = s.grp := rfl
@[simp] theorem onGrid_team : (onGrid f s).team = s.team := rfl
@[simp] theorem onGrid_grid : (onGrid f s).grid = f s.grid := rfl
@[simp] theorem onGrid_groups : (onGrid f s).groups = s.groups := rfl
@[simp] theorem onGrid_teams : (onGrid f s).teams = s.teams := rfl
@[simp] theorem onGrid_grids : (onGrid f s).grids = s.grids := rfl
@[simp] theorem onGrid_ops : (onGrid f s).ops = s.ops := rfl
@[simp] theorem onGrid_nextOp : (onGrid f s).nextOp = s.nextOp := rfl
@[simp] theorem onGrid_nextAccept : (onGrid f s).nextAccept = s.nextAccept := rfl
@[simp] theorem onGrid_nextLaunch : (onGrid f s).nextLaunch = s.nextLaunch := rfl
@[simp] theorem onGrid_nextPacket : (onGrid f s).nextPacket = s.nextPacket := rfl
@[simp] theorem onGrid_nextAge : (onGrid f s).nextAge = s.nextAge := rfl
@[simp] theorem onGrid_fresh : (onGrid f s).fresh = s.fresh := rfl
@[simp] theorem onGrid_now : (onGrid f s).now = s.now := rfl
@[simp] theorem onGrid_ticks : (onGrid f s).ticks = s.ticks := rfl
@[simp] theorem onGrid_cycles : (onGrid f s).cycles = s.cycles := rfl
@[simp] theorem onGrid_nextPromo : (onGrid f s).nextPromo = s.nextPromo := rfl
@[simp] theorem onGrid_laneBusy : (onGrid f s).laneBusy = s.laneBusy := rfl
@[simp] theorem onGrid_byteGen : (onGrid f s).byteGen = s.byteGen := rfl
@[simp] theorem onGrid_ecc : (onGrid f s).ecc = s.ecc := rfl
@[simp] theorem onGrid_poison : (onGrid f s).poison = s.poison := rfl
@[simp] theorem onGrid_aborting : (onGrid f s).aborting = s.aborting := rfl
@[simp] theorem onGrid_peerFaults : (onGrid f s).peerFaults = s.peerFaults := rfl
@[simp] theorem onGrid_slots : (onGrid f s).slots = s.slots := rfl
@[simp] theorem onGrid_creels : (onGrid f s).creels = s.creels := rfl
@[simp] theorem onGrid_tags : (onGrid f s).tags = s.tags := rfl
@[simp] theorem onGrid_cells : (onGrid f s).cells = s.cells := rfl
@[simp] theorem onGrid_cellStore : (onGrid f s).cellStore = s.cellStore := rfl
@[simp] theorem onGrid_ctxWaiters : (onGrid f s).ctxWaiters = s.ctxWaiters := rfl
@[simp] theorem onGrid_tensors : (onGrid f s).tensors = s.tensors := rfl
@[simp] theorem onGrid_trees : (onGrid f s).trees = s.trees := rfl
@[simp] theorem onGrid_rings : (onGrid f s).rings = s.rings := rfl
@[simp] theorem onGrid_ports : (onGrid f s).ports = s.ports := rfl
@[simp] theorem onGrid_holdBuf : (onGrid f s).holdBuf = s.holdBuf := rfl
@[simp] theorem onGrid_outBuf : (onGrid f s).outBuf = s.outBuf := rfl
@[simp] theorem onGrid_egress : (onGrid f s).egress = s.egress := rfl
@[simp] theorem onGrid_floor : (onGrid f s).floor = s.floor := rfl
@[simp] theorem onGrid_stallUs : (onGrid f s).stallUs = s.stallUs := rfl
@[simp] theorem onGrid_tmaster : (onGrid f s).tmaster = s.tmaster := rfl
@[simp] theorem onGrid_synced : (onGrid f s).synced = s.synced := rfl
@[simp] theorem onGrid_steer : (onGrid f s).steer = s.steer := rfl
@[simp] theorem onGrid_devId : (onGrid f s).devId = s.devId := rfl
@[simp] theorem onGrid_dropUnbound : (onGrid f s).dropUnbound = s.dropUnbound := rfl
@[simp] theorem onGrid_dropKind : (onGrid f s).dropKind = s.dropKind := rfl
@[simp] theorem onGrid_routes : (onGrid f s).routes = s.routes := rfl
@[simp] theorem onGrid_imports : (onGrid f s).imports = s.imports := rfl
@[simp] theorem onGrid_aspaces : (onGrid f s).aspaces = s.aspaces := rfl
@[simp] theorem onGrid_s2roots : (onGrid f s).s2roots = s.s2roots := rfl
@[simp] theorem onGrid_tlb : (onGrid f s).tlb = s.tlb := rfl
@[simp] theorem onGrid_records : (onGrid f s).records = s.records := rfl
@[simp] theorem onGrid_nextRecord : (onGrid f s).nextRecord = s.nextRecord := rfl
@[simp] theorem onGrid_nextTree : (onGrid f s).nextTree = s.nextTree := rfl
@[simp] theorem onGrid_parts : (onGrid f s).parts = s.parts := rfl
@[simp] theorem onGrid_fns : (onGrid f s).fns = s.fns := rfl
@[simp] theorem onGrid_queues : (onGrid f s).queues = s.queues := rfl
@[simp] theorem onGrid_tokens : (onGrid f s).tokens = s.tokens := rfl
@[simp] theorem onGrid_packets : (onGrid f s).packets = s.packets := rfl
@[simp] theorem onGrid_keys : (onGrid f s).keys = s.keys := rfl
@[simp] theorem onGrid_nextKey : (onGrid f s).nextKey = s.nextKey := rfl
@[simp] theorem onGrid_firmware : (onGrid f s).firmware = s.firmware := rfl
@[simp] theorem onGrid_pstate : (onGrid f s).pstate = s.pstate := rfl
@[simp] theorem onGrid_warnTemp : (onGrid f s).warnTemp = s.warnTemp := rfl
@[simp] theorem onGrid_power : (onGrid f s).power = s.power := rfl
@[simp] theorem onGrid_temp : (onGrid f s).temp = s.temp := rfl
@[simp] theorem onGrid_cxl : (onGrid f s).cxl = s.cxl := rfl
@[simp] theorem onGrid_cxlBase : (onGrid f s).cxlBase = s.cxlBase := rfl
@[simp] theorem onGrid_cxlSize : (onGrid f s).cxlSize = s.cxlSize := rfl
@[simp] theorem onGrid_atomicsOff : (onGrid f s).atomicsOff = s.atomicsOff := rfl
@[simp] theorem onGrid_replies : (onGrid f s).replies = s.replies := rfl
@[simp] theorem onGrid_peerWaits : (onGrid f s).peerWaits = s.peerWaits := rfl
@[simp] theorem onGrid_nvmeMs : (onGrid f s).nvmeMs = s.nvmeMs := rfl
@[simp] theorem onGrid_passing : (onGrid f s).passing = s.passing := rfl
@[simp] theorem onGrid_nvmeReads : (onGrid f s).nvmeReads = s.nvmeReads := rfl
@[simp] theorem onGrid_metaNs : (onGrid f s).metaNs = s.metaNs := rfl
@[simp] theorem onGrid_nextTurn : (onGrid f s).nextTurn = s.nextTurn := rfl
@[simp] theorem onGrid_dbg : (onGrid f s).dbg = s.dbg := rfl
@[simp] theorem onGrid_windowWrites : (onGrid f s).windowWrites = s.windowWrites := rfl
@[simp] theorem onGrid_hank : (onGrid f s).hank = s.hank := rfl
@[simp] theorem onGrid_hankFlash : (onGrid f s).hankFlash = s.hankFlash := rfl
@[simp] theorem onGrid_hankHead : (onGrid f s).hankHead = s.hankHead := rfl
@[simp] theorem onGrid_boots : (onGrid f s).boots = s.boots := rfl
@[simp] theorem onGrid_linkDown : (onGrid f s).linkDown = s.linkDown := rfl
@[simp] theorem onGrid_off : (onGrid f s).off = s.off := rfl
@[simp] theorem onGrid_cto : (onGrid f s).cto = s.cto := rfl
@[simp] theorem onGrid_halts : (onGrid f s).halts = s.halts := rfl
end onGrid

section goTo
variable (npc : DWord) (g : Group)
@[simp] theorem goTo_key : (g.goTo npc).key = g.key := rfl
@[simp] theorem goTo_phase : (g.goTo npc).phase = g.phase := rfl
@[simp] theorem goTo_role : (g.goTo npc).role = g.role := rfl
@[simp] theorem goTo_quad : (g.goTo npc).quad = g.quad := rfl
@[simp] theorem goTo_laneInQuad : (g.goTo npc).laneInQuad = g.laneInQuad := rfl
@[simp] theorem goTo_laneSlot : (g.goTo npc).laneSlot = g.laneSlot := rfl
@[simp] theorem goTo_priv : (g.goTo npc).priv = g.priv := rfl
@[simp] theorem goTo_pc : (g.goTo npc).pc = npc := rfl
@[simp] theorem goTo_live : (g.goTo npc).live = g.live := rfl
@[simp] theorem goTo_masks : (g.goTo npc).masks = g.masks := rfl
@[simp] theorem goTo_sregs : (g.goTo npc).sregs = g.sregs := rfl
@[simp] theorem goTo_vregs : (g.goTo npc).vregs = g.vregs := rfl
@[simp] theorem goTo_alloc : (g.goTo npc).alloc = g.alloc := rfl
@[simp] theorem goTo_winbase : (g.goTo npc).winbase = g.winbase := rfl
@[simp] theorem goTo_cc : (g.goTo npc).cc = g.cc := rfl
@[simp] theorem goTo_gang : (g.goTo npc).gang = g.gang := rfl
@[simp] theorem goTo_fpctl : (g.goTo npc).fpctl = g.fpctl := rfl
@[simp] theorem goTo_cntL : (g.goTo npc).cntL = g.cntL := rfl
@[simp] theorem goTo_cntS : (g.goTo npc).cntS = g.cntS := rfl
@[simp] theorem goTo_cntC : (g.goTo npc).cntC = g.cntC := rfl
@[simp] theorem goTo_cntT : (g.goTo npc).cntT = g.cntT := rfl
@[simp] theorem goTo_clk : (g.goTo npc).clk = if g.priv then g.clk else g.clk + 1 := rfl
@[simp] theorem goTo_ctx : (g.goTo npc).ctx = g.ctx := rfl
@[simp] theorem goTo_bwto : (g.goTo npc).bwto = g.bwto := rfl
@[simp] theorem goTo_tvec : (g.goTo npc).tvec = g.tvec := rfl
@[simp] theorem goTo_epc : (g.goTo npc).epc = g.epc := rfl
@[simp] theorem goTo_tcause : (g.goTo npc).tcause = g.tcause := rfl
@[simp] theorem goTo_tval : (g.goTo npc).tval = g.tval := rfl
@[simp] theorem goTo_unf : (g.goTo npc).unf = g.unf := rfl
@[simp] theorem goTo_tgroup : (g.goTo npc).tgroup = g.tgroup := rfl
@[simp] theorem goTo_replay : (g.goTo npc).replay = g.replay := rfl
@[simp] theorem goTo_ppriv : (g.goTo npc).ppriv = g.ppriv := rfl
@[simp] theorem goTo_intrap : (g.goTo npc).intrap = g.intrap := rfl
@[simp] theorem goTo_wpHit : (g.goTo npc).wpHit = g.wpHit := rfl
@[simp] theorem goTo_wpEn : (g.goTo npc).wpEn = g.wpEn := rfl
@[simp] theorem goTo_batchOpen : (g.goTo npc).batchOpen = g.batchOpen := rfl
@[simp] theorem goTo_batchPend : (g.goTo npc).batchPend = g.batchPend := rfl
@[simp] theorem goTo_curBatch : (g.goTo npc).curBatch = g.curBatch := rfl
@[simp] theorem goTo_copyCount : (g.goTo npc).copyCount = g.copyCount := rfl
@[simp] theorem goTo_copyCode : (g.goTo npc).copyCode = g.copyCode := rfl
@[simp] theorem goTo_copyWhere : (g.goTo npc).copyWhere = g.copyWhere := rfl
@[simp] theorem goTo_wait : (g.goTo npc).wait = g.wait := rfl
@[simp] theorem goTo_replayMask : (g.goTo npc).replayMask = g.replayMask := rfl
@[simp] theorem goTo_park : (g.goTo npc).park = g.park := rfl
@[simp] theorem goTo_held : (g.goTo npc).held = g.held := rfl
@[simp] theorem goTo_heldTrap : (g.goTo npc).heldTrap = g.heldTrap := rfl
@[simp] theorem goTo_posted : (g.goTo npc).posted = g.posted := rfl
@[simp] theorem goTo_haltedBy : (g.goTo npc).haltedBy = g.haltedBy := rfl
@[simp] theorem goTo_stopped : (g.goTo npc).stopped = g.stopped := rfl
@[simp] theorem goTo_stepping : (g.goTo npc).stepping = g.stepping := rfl
@[simp] theorem goTo_bpSkip : (g.goTo npc).bpSkip = if g.intrap then g.bpSkip else none := rfl
@[simp] theorem goTo_decoded : (g.goTo npc).decoded = none := rfl
@[simp] theorem goTo_hits : (g.goTo npc).hits = g.hits := rfl
@[simp] theorem goTo_hitsTrap : (g.goTo npc).hitsTrap = g.hitsTrap := rfl
@[simp] theorem goTo_eccPend : (g.goTo npc).eccPend = g.eccPend.map EccDue.unnamed := rfl
@[simp] theorem goTo_mtxAfter : (g.goTo npc).mtxAfter = g.mtxAfter := rfl
@[simp] theorem goTo_lastSend : (g.goTo npc).lastSend = g.lastSend := rfl
@[simp] theorem goTo_lastRecv : (g.goTo npc).lastRecv = g.lastRecv := rfl
@[simp] theorem goTo_set : (g.goTo npc).set = g.set := rfl
@[simp] theorem goTo_order : (g.goTo npc).order = g.order := rfl
@[simp] theorem goTo_age : (g.goTo npc).age = g.age := rfl
@[simp] theorem goTo_eligCycles : (g.goTo npc).eligCycles = g.eligCycles := rfl
@[simp] theorem goTo_promoted : (g.goTo npc).promoted = g.promoted := rfl
@[simp] theorem goTo_stallAt : (g.goTo npc).stallAt = g.stallAt := rfl
@[simp] theorem goTo_commAt : (g.goTo npc).commAt = g.commAt := rfl
@[simp] theorem goTo_commCnt : (g.goTo npc).commCnt = g.commCnt := rfl
@[simp] theorem goTo_heldFree : (g.goTo npc).heldFree = g.heldFree := rfl
@[simp] theorem goTo_pcNext : (g.goTo npc).pcNext = g.pcNext := rfl
@[simp] theorem goTo_atHalt : (g.goTo npc).atHalt = g.atHalt := rfl
end goTo

section setK
variable (n : Nat) (v : Word) (g : Group)
@[simp] theorem setK_key : (setK n v g).key = g.key := rfl
@[simp] theorem setK_phase : (setK n v g).phase = g.phase := rfl
@[simp] theorem setK_role : (setK n v g).role = g.role := rfl
@[simp] theorem setK_quad : (setK n v g).quad = g.quad := rfl
@[simp] theorem setK_laneInQuad : (setK n v g).laneInQuad = g.laneInQuad := rfl
@[simp] theorem setK_laneSlot : (setK n v g).laneSlot = g.laneSlot := rfl
@[simp] theorem setK_priv : (setK n v g).priv = g.priv := rfl
@[simp] theorem setK_pc : (setK n v g).pc = g.pc := rfl
@[simp] theorem setK_sregs : (setK n v g).sregs = g.sregs := rfl
@[simp] theorem setK_vregs : (setK n v g).vregs = g.vregs := rfl
@[simp] theorem setK_alloc : (setK n v g).alloc = g.alloc := rfl
@[simp] theorem setK_winbase : (setK n v g).winbase = g.winbase := rfl
@[simp] theorem setK_cc : (setK n v g).cc = g.cc := rfl
@[simp] theorem setK_gang : (setK n v g).gang = g.gang := rfl
@[simp] theorem setK_fpctl : (setK n v g).fpctl = g.fpctl := rfl
@[simp] theorem setK_cntL : (setK n v g).cntL = g.cntL := rfl
@[simp] theorem setK_cntS : (setK n v g).cntS = g.cntS := rfl
@[simp] theorem setK_cntC : (setK n v g).cntC = g.cntC := rfl
@[simp] theorem setK_cntT : (setK n v g).cntT = g.cntT := rfl
@[simp] theorem setK_clk : (setK n v g).clk = g.clk := rfl
@[simp] theorem setK_ctx : (setK n v g).ctx = g.ctx := rfl
@[simp] theorem setK_bwto : (setK n v g).bwto = g.bwto := rfl
@[simp] theorem setK_tvec : (setK n v g).tvec = g.tvec := rfl
@[simp] theorem setK_epc : (setK n v g).epc = g.epc := rfl
@[simp] theorem setK_tcause : (setK n v g).tcause = g.tcause := rfl
@[simp] theorem setK_tval : (setK n v g).tval = g.tval := rfl
@[simp] theorem setK_unf : (setK n v g).unf = g.unf := rfl
@[simp] theorem setK_tgroup : (setK n v g).tgroup = g.tgroup := rfl
@[simp] theorem setK_replay : (setK n v g).replay = g.replay := rfl
@[simp] theorem setK_ppriv : (setK n v g).ppriv = g.ppriv := rfl
@[simp] theorem setK_intrap : (setK n v g).intrap = g.intrap := rfl
@[simp] theorem setK_wpHit : (setK n v g).wpHit = g.wpHit := rfl
@[simp] theorem setK_wpEn : (setK n v g).wpEn = g.wpEn := rfl
@[simp] theorem setK_batchOpen : (setK n v g).batchOpen = g.batchOpen := rfl
@[simp] theorem setK_batchPend : (setK n v g).batchPend = g.batchPend := rfl
@[simp] theorem setK_curBatch : (setK n v g).curBatch = g.curBatch := rfl
@[simp] theorem setK_copyCount : (setK n v g).copyCount = g.copyCount := rfl
@[simp] theorem setK_copyCode : (setK n v g).copyCode = g.copyCode := rfl
@[simp] theorem setK_copyWhere : (setK n v g).copyWhere = g.copyWhere := rfl
@[simp] theorem setK_wait : (setK n v g).wait = g.wait := rfl
@[simp] theorem setK_replayMask : (setK n v g).replayMask = g.replayMask := rfl
@[simp] theorem setK_park : (setK n v g).park = g.park := rfl
@[simp] theorem setK_held : (setK n v g).held = g.held := rfl
@[simp] theorem setK_heldTrap : (setK n v g).heldTrap = g.heldTrap := rfl
@[simp] theorem setK_posted : (setK n v g).posted = g.posted := rfl
@[simp] theorem setK_haltedBy : (setK n v g).haltedBy = g.haltedBy := rfl
@[simp] theorem setK_stopped : (setK n v g).stopped = g.stopped := rfl
@[simp] theorem setK_stepping : (setK n v g).stepping = g.stepping := rfl
@[simp] theorem setK_bpSkip : (setK n v g).bpSkip = g.bpSkip := rfl
@[simp] theorem setK_decoded : (setK n v g).decoded = g.decoded := rfl
@[simp] theorem setK_hits : (setK n v g).hits = g.hits := rfl
@[simp] theorem setK_hitsTrap : (setK n v g).hitsTrap = g.hitsTrap := rfl
@[simp] theorem setK_eccPend : (setK n v g).eccPend = g.eccPend := rfl
@[simp] theorem setK_mtxAfter : (setK n v g).mtxAfter = g.mtxAfter := rfl
@[simp] theorem setK_lastSend : (setK n v g).lastSend = g.lastSend := rfl
@[simp] theorem setK_lastRecv : (setK n v g).lastRecv = g.lastRecv := rfl
@[simp] theorem setK_set : (setK n v g).set = g.set := rfl
@[simp] theorem setK_order : (setK n v g).order = g.order := rfl
@[simp] theorem setK_age : (setK n v g).age = g.age := rfl
@[simp] theorem setK_eligCycles : (setK n v g).eligCycles = g.eligCycles := rfl
@[simp] theorem setK_promoted : (setK n v g).promoted = g.promoted := rfl
@[simp] theorem setK_stallAt : (setK n v g).stallAt = g.stallAt := rfl
@[simp] theorem setK_commAt : (setK n v g).commAt = g.commAt := rfl
@[simp] theorem setK_commCnt : (setK n v g).commCnt = g.commCnt := rfl
@[simp] theorem setK_heldFree : (setK n v g).heldFree = g.heldFree := rfl
@[simp] theorem setK_pcNext : (setK n v g).pcNext = g.pcNext := rfl
@[simp] theorem setK_atHalt : (setK n v g).atHalt = g.atHalt := rfl
@[simp] theorem setK_live : (setK n v g).live = g.live := rfl
end setK

section setV
variable (n t : Nat) (v : Word) (g : Group)
@[simp] theorem setV_key : (setV n t v g).key = g.key := rfl
@[simp] theorem setV_phase : (setV n t v g).phase = g.phase := rfl
@[simp] theorem setV_role : (setV n t v g).role = g.role := rfl
@[simp] theorem setV_quad : (setV n t v g).quad = g.quad := rfl
@[simp] theorem setV_laneInQuad : (setV n t v g).laneInQuad = g.laneInQuad := rfl
@[simp] theorem setV_laneSlot : (setV n t v g).laneSlot = g.laneSlot := rfl
@[simp] theorem setV_priv : (setV n t v g).priv = g.priv := rfl
@[simp] theorem setV_pc : (setV n t v g).pc = g.pc := rfl
@[simp] theorem setV_live : (setV n t v g).live = g.live := rfl
@[simp] theorem setV_masks : (setV n t v g).masks = g.masks := rfl
@[simp] theorem setV_sregs : (setV n t v g).sregs = g.sregs := rfl
@[simp] theorem setV_alloc : (setV n t v g).alloc = g.alloc := rfl
@[simp] theorem setV_winbase : (setV n t v g).winbase = g.winbase := rfl
@[simp] theorem setV_cc : (setV n t v g).cc = g.cc := rfl
@[simp] theorem setV_gang : (setV n t v g).gang = g.gang := rfl
@[simp] theorem setV_fpctl : (setV n t v g).fpctl = g.fpctl := rfl
@[simp] theorem setV_cntL : (setV n t v g).cntL = g.cntL := rfl
@[simp] theorem setV_cntS : (setV n t v g).cntS = g.cntS := rfl
@[simp] theorem setV_cntC : (setV n t v g).cntC = g.cntC := rfl
@[simp] theorem setV_cntT : (setV n t v g).cntT = g.cntT := rfl
@[simp] theorem setV_clk : (setV n t v g).clk = g.clk := rfl
@[simp] theorem setV_ctx : (setV n t v g).ctx = g.ctx := rfl
@[simp] theorem setV_bwto : (setV n t v g).bwto = g.bwto := rfl
@[simp] theorem setV_tvec : (setV n t v g).tvec = g.tvec := rfl
@[simp] theorem setV_epc : (setV n t v g).epc = g.epc := rfl
@[simp] theorem setV_tcause : (setV n t v g).tcause = g.tcause := rfl
@[simp] theorem setV_tval : (setV n t v g).tval = g.tval := rfl
@[simp] theorem setV_unf : (setV n t v g).unf = g.unf := rfl
@[simp] theorem setV_tgroup : (setV n t v g).tgroup = g.tgroup := rfl
@[simp] theorem setV_replay : (setV n t v g).replay = g.replay := rfl
@[simp] theorem setV_ppriv : (setV n t v g).ppriv = g.ppriv := rfl
@[simp] theorem setV_intrap : (setV n t v g).intrap = g.intrap := rfl
@[simp] theorem setV_wpHit : (setV n t v g).wpHit = g.wpHit := rfl
@[simp] theorem setV_wpEn : (setV n t v g).wpEn = g.wpEn := rfl
@[simp] theorem setV_batchOpen : (setV n t v g).batchOpen = g.batchOpen := rfl
@[simp] theorem setV_batchPend : (setV n t v g).batchPend = g.batchPend := rfl
@[simp] theorem setV_curBatch : (setV n t v g).curBatch = g.curBatch := rfl
@[simp] theorem setV_copyCount : (setV n t v g).copyCount = g.copyCount := rfl
@[simp] theorem setV_copyCode : (setV n t v g).copyCode = g.copyCode := rfl
@[simp] theorem setV_copyWhere : (setV n t v g).copyWhere = g.copyWhere := rfl
@[simp] theorem setV_wait : (setV n t v g).wait = g.wait := rfl
@[simp] theorem setV_replayMask : (setV n t v g).replayMask = g.replayMask := rfl
@[simp] theorem setV_park : (setV n t v g).park = g.park := rfl
@[simp] theorem setV_held : (setV n t v g).held = g.held := rfl
@[simp] theorem setV_heldTrap : (setV n t v g).heldTrap = g.heldTrap := rfl
@[simp] theorem setV_posted : (setV n t v g).posted = g.posted := rfl
@[simp] theorem setV_haltedBy : (setV n t v g).haltedBy = g.haltedBy := rfl
@[simp] theorem setV_stopped : (setV n t v g).stopped = g.stopped := rfl
@[simp] theorem setV_stepping : (setV n t v g).stepping = g.stepping := rfl
@[simp] theorem setV_bpSkip : (setV n t v g).bpSkip = g.bpSkip := rfl
@[simp] theorem setV_decoded : (setV n t v g).decoded = g.decoded := rfl
@[simp] theorem setV_hits : (setV n t v g).hits = g.hits := rfl
@[simp] theorem setV_hitsTrap : (setV n t v g).hitsTrap = g.hitsTrap := rfl
@[simp] theorem setV_eccPend : (setV n t v g).eccPend = g.eccPend := rfl
@[simp] theorem setV_mtxAfter : (setV n t v g).mtxAfter = g.mtxAfter := rfl
@[simp] theorem setV_lastSend : (setV n t v g).lastSend = g.lastSend := rfl
@[simp] theorem setV_lastRecv : (setV n t v g).lastRecv = g.lastRecv := rfl
@[simp] theorem setV_set : (setV n t v g).set = g.set := rfl
@[simp] theorem setV_order : (setV n t v g).order = g.order := rfl
@[simp] theorem setV_age : (setV n t v g).age = g.age := rfl
@[simp] theorem setV_eligCycles : (setV n t v g).eligCycles = g.eligCycles := rfl
@[simp] theorem setV_promoted : (setV n t v g).promoted = g.promoted := rfl
@[simp] theorem setV_stallAt : (setV n t v g).stallAt = g.stallAt := rfl
@[simp] theorem setV_commAt : (setV n t v g).commAt = g.commAt := rfl
@[simp] theorem setV_commCnt : (setV n t v g).commCnt = g.commCnt := rfl
@[simp] theorem setV_heldFree : (setV n t v g).heldFree = g.heldFree := rfl
@[simp] theorem setV_pcNext : (setV n t v g).pcNext = g.pcNext := rfl
@[simp] theorem setV_atHalt : (setV n t v g).atHalt = g.atHalt := rfl
end setV

section setCC
variable (c : CC) (g : Group)
@[simp] theorem setCC_key : (setCC c g).key = g.key := rfl
@[simp] theorem setCC_phase : (setCC c g).phase = g.phase := rfl
@[simp] theorem setCC_role : (setCC c g).role = g.role := rfl
@[simp] theorem setCC_quad : (setCC c g).quad = g.quad := rfl
@[simp] theorem setCC_laneInQuad : (setCC c g).laneInQuad = g.laneInQuad := rfl
@[simp] theorem setCC_laneSlot : (setCC c g).laneSlot = g.laneSlot := rfl
@[simp] theorem setCC_priv : (setCC c g).priv = g.priv := rfl
@[simp] theorem setCC_pc : (setCC c g).pc = g.pc := rfl
@[simp] theorem setCC_live : (setCC c g).live = g.live := rfl
@[simp] theorem setCC_masks : (setCC c g).masks = g.masks := rfl
@[simp] theorem setCC_sregs : (setCC c g).sregs = g.sregs := rfl
@[simp] theorem setCC_vregs : (setCC c g).vregs = g.vregs := rfl
@[simp] theorem setCC_alloc : (setCC c g).alloc = g.alloc := rfl
@[simp] theorem setCC_winbase : (setCC c g).winbase = g.winbase := rfl
@[simp] theorem setCC_cc : (setCC c g).cc = c := rfl
@[simp] theorem setCC_gang : (setCC c g).gang = g.gang := rfl
@[simp] theorem setCC_fpctl : (setCC c g).fpctl = g.fpctl := rfl
@[simp] theorem setCC_cntL : (setCC c g).cntL = g.cntL := rfl
@[simp] theorem setCC_cntS : (setCC c g).cntS = g.cntS := rfl
@[simp] theorem setCC_cntC : (setCC c g).cntC = g.cntC := rfl
@[simp] theorem setCC_cntT : (setCC c g).cntT = g.cntT := rfl
@[simp] theorem setCC_clk : (setCC c g).clk = g.clk := rfl
@[simp] theorem setCC_ctx : (setCC c g).ctx = g.ctx := rfl
@[simp] theorem setCC_bwto : (setCC c g).bwto = g.bwto := rfl
@[simp] theorem setCC_tvec : (setCC c g).tvec = g.tvec := rfl
@[simp] theorem setCC_epc : (setCC c g).epc = g.epc := rfl
@[simp] theorem setCC_tcause : (setCC c g).tcause = g.tcause := rfl
@[simp] theorem setCC_tval : (setCC c g).tval = g.tval := rfl
@[simp] theorem setCC_unf : (setCC c g).unf = g.unf := rfl
@[simp] theorem setCC_tgroup : (setCC c g).tgroup = g.tgroup := rfl
@[simp] theorem setCC_replay : (setCC c g).replay = g.replay := rfl
@[simp] theorem setCC_ppriv : (setCC c g).ppriv = g.ppriv := rfl
@[simp] theorem setCC_intrap : (setCC c g).intrap = g.intrap := rfl
@[simp] theorem setCC_wpHit : (setCC c g).wpHit = g.wpHit := rfl
@[simp] theorem setCC_wpEn : (setCC c g).wpEn = g.wpEn := rfl
@[simp] theorem setCC_batchOpen : (setCC c g).batchOpen = g.batchOpen := rfl
@[simp] theorem setCC_batchPend : (setCC c g).batchPend = g.batchPend := rfl
@[simp] theorem setCC_curBatch : (setCC c g).curBatch = g.curBatch := rfl
@[simp] theorem setCC_copyCount : (setCC c g).copyCount = g.copyCount := rfl
@[simp] theorem setCC_copyCode : (setCC c g).copyCode = g.copyCode := rfl
@[simp] theorem setCC_copyWhere : (setCC c g).copyWhere = g.copyWhere := rfl
@[simp] theorem setCC_wait : (setCC c g).wait = g.wait := rfl
@[simp] theorem setCC_replayMask : (setCC c g).replayMask = g.replayMask := rfl
@[simp] theorem setCC_park : (setCC c g).park = g.park := rfl
@[simp] theorem setCC_held : (setCC c g).held = g.held := rfl
@[simp] theorem setCC_heldTrap : (setCC c g).heldTrap = g.heldTrap := rfl
@[simp] theorem setCC_posted : (setCC c g).posted = g.posted := rfl
@[simp] theorem setCC_haltedBy : (setCC c g).haltedBy = g.haltedBy := rfl
@[simp] theorem setCC_stopped : (setCC c g).stopped = g.stopped := rfl
@[simp] theorem setCC_stepping : (setCC c g).stepping = g.stepping := rfl
@[simp] theorem setCC_bpSkip : (setCC c g).bpSkip = g.bpSkip := rfl
@[simp] theorem setCC_decoded : (setCC c g).decoded = g.decoded := rfl
@[simp] theorem setCC_hits : (setCC c g).hits = g.hits := rfl
@[simp] theorem setCC_hitsTrap : (setCC c g).hitsTrap = g.hitsTrap := rfl
@[simp] theorem setCC_eccPend : (setCC c g).eccPend = g.eccPend := rfl
@[simp] theorem setCC_mtxAfter : (setCC c g).mtxAfter = g.mtxAfter := rfl
@[simp] theorem setCC_lastSend : (setCC c g).lastSend = g.lastSend := rfl
@[simp] theorem setCC_lastRecv : (setCC c g).lastRecv = g.lastRecv := rfl
@[simp] theorem setCC_set : (setCC c g).set = g.set := rfl
@[simp] theorem setCC_order : (setCC c g).order = g.order := rfl
@[simp] theorem setCC_age : (setCC c g).age = g.age := rfl
@[simp] theorem setCC_eligCycles : (setCC c g).eligCycles = g.eligCycles := rfl
@[simp] theorem setCC_promoted : (setCC c g).promoted = g.promoted := rfl
@[simp] theorem setCC_stallAt : (setCC c g).stallAt = g.stallAt := rfl
@[simp] theorem setCC_commAt : (setCC c g).commAt = g.commAt := rfl
@[simp] theorem setCC_commCnt : (setCC c g).commCnt = g.commCnt := rfl
@[simp] theorem setCC_heldFree : (setCC c g).heldFree = g.heldFree := rfl
@[simp] theorem setCC_pcNext : (setCC c g).pcNext = g.pcNext := rfl
@[simp] theorem setCC_atHalt : (setCC c g).atHalt = g.atHalt := rfl
end setCC

end Sys2Proof.Machine
end

