-- ==== Sys2Proof/Tests/Slice0.lean ====
section
/-! SUPPORT. Tests against words, tables and worked cases of the specification, one step each, and a witness for the hypotheses of every statement. -/

namespace Sys2Proof.Tests
open Sys2Proof Machine

-- Many small kernel evaluations: one after another, so that their threads do not fill the memory.
set_option Elab.async false

/-- A group of a two-group team of launch 1, at its first instruction, with a handler at 0x2000. -/
def grp0 : Group :=
  { Group.initial with key := ⟨1, 0, 0⟩, phase := .running, pc := 0x1000, alloc := 8, tvec := 0x2000 }

/-- Its team: tiles of 32 × 64 BF16 elements, every queue initialised with allowance 4. -/
def team0 : Team :=
  { Team.initial with
    key := ⟨1, 0⟩
    phase := .running
    ngroups := 2
    scratchBytes := 0x10000
    tagSlots := 4
    tileWin := 16
    tshape := List.replicate 16 0x4020
    accCount := 8
    queues := List.replicate 16 ⟨true, 4, [], [], []⟩ }

/-- Its grid, of partition 0 and address space 0. -/
def grid0 : Grid :=
  { Grid.initial with
    id := 1
    codeBase := 0x1000
    codeLen := 0x1000
    pages := [⟨7, 0, .running, 0x10000, none, none, (0, 0)⟩]
    ended := false }

/-- The machine with that group alone; the virtual addresses below 2^30 lie at the same addresses of home 0, through one leaf of level 2. -/
def base : State :=
  { State.reset with
    grp := grp0
    team := team0
    grid := grid0
    nextLaunch := 2
    aspaces := [⟨0, 0, 8, 0⟩]
    mem := [(8 * 2 ^ 53, 0x01), (8 * 2 ^ 53 + 1, 0x10), (8 * 2 ^ 53 + 6, 0x80), (8 * 2 ^ 53 + 0x1000, 0x01), (8 * 2 ^ 53 + 0x1001, 0x20),
      (8 * 2 ^ 53 + 0x1006, 0x80), (8 * 2 ^ 53 + 0x2000, 0x0F)] }

/-- The machine with a change of the issuing group. -/
def withG (f : Group → Group) : State := { base with grp := f grp0 }

/-- The machine with scalar registers. -/
def sr (l : SMap 64) : State := withG fun g => { g with sregs := l }

/-- Whether `i` completes with a next state that meets `f`. -/
def reads (i : Instr) (s : State) (f : State → Bool) : Bool := match exec i s with | .next t => f t | _ => false

/-- Whether `i` writes `v` to scalar register `d`, and goes on at the next instruction. -/
def writes (i : Instr) (s : State) (d : Nat) (v : DWord) : Bool := reads i s fun t => getS t.grp d = v && t.grp.pc = s.grp.pc + 4

/-- A sibling of the issuing group, in its lane. -/
def sib : Group := { grp0 with key := ⟨1, 0, 1⟩ }

/-- Whether the group enters its handler with a cause, a TVAL and an EPC. -/
def traps (i : Instr) (s : State) (cause : BitVec 8) (tval epc : DWord) : Bool :=
  reads i s fun t => t.grp.pc = s.grp.tvec && t.grp.tcause = cause && t.grp.tval = tval && t.grp.epc = epc && t.grp.priv && t.grp.intrap

/-- The machine with the group in privileged mode. -/
def privBase : State := withG fun g => { g with priv := true }

/-- A byte of home 0. -/
def at0 (a : Nat) : Loc := ⟨.phys, a, 0⟩

/-- An access of thread 0 to home 0. -/
def acc0 (a : Nat) : Access := ⟨0, BitVec.ofNat 64 a, at0 a⟩

/-- An operation of the issuing group. -/
def op0 (k : OpKind) : Op := ⟨5, .group ⟨1, 0, 0⟩, 0, k, false, false, none, none, none, [], none, 0, [], [], none, 0⟩

/-- The machine with one outstanding operation, every counter at 1. -/
def withOp (o : Op) : State := { withG (fun g => { g with cntL := 1, cntS := 1, cntC := 1, cntT := 1 }) with ops := [o] }

/-- The machine with thread 0 alone acting under k1, and an address in registers 4 and 5. -/
def oneThread (a : Word) : State := withG fun g => { g with masks := [(1, 1)], vregs := [(128, a), (192, 7)], sregs := [(4, a.setWidth 64), (6, 7)] }

/-- The first byte of the team's scratchpad. -/
def w0 : DWord := 0x01E0000000000000

theorem test_spec_words : ∀ p ∈ [
    (0x02204180, Instr.haltgRes 3), (0x0760C205, .sbfe 3 4 5), (0x280E22A2, .sst 7 8 2 2 2 2), (0xF80FFFFC, .wait 0 63 63 63), (0x3C204103, .kor 1 2 3),
    (0x3D410010, .kall 4 16), (0x2C22C380, .smts 11 7), (0x2C050300, .smfs 20 6), (0x38000480, .jr 9), (0x38400000, .ret), (0x6C00C202, .vcvt 0 3 4 2),
    (0x00400005, .trap 5), (0x00600000, .eret), (0x01400002, .window 2), (0x02400001, .mbatch 1), (0x02600001, .mwait 1), (0x01600103, .donate 0 2 3),
    (0x01604083, .donate 1 1 3), (0x01A50184, .bara 20 3 4), (0x01C00194, .barw 3 20), (0x01E0050B, .waita 10 11), (0x02000500, .wakea 10),
    (0x1C004001, .scmpi 4 1), (0x0867F080, .saddi 12 127 128), (0x06800205, .scmp 4 5), (0x3C608083, .kandn 2 1 3), (0x38200480, .callr 9), (0x01800184, .bar 3 4)],
    decode p.1 = some p.2 := by decide +kernel

theorem test_spec_words_vector : ∀ p ∈ [
    (0x4000C205, Instr.vadd 0 3 4 5), (0x480102E7, .vbfe 0 4 5 103), (0x5C0A1883, .vsrai 0 5 6 3), (0x606204E3, .vfma 0 8 9 99), (0x61020409, .vfadd 1 8 8 9),
    (0x6862860E, .vdfma 0 10 12 14), (0x7000C0E6, .vceq 0 3 1 102), (0x786081E6, .vshfld 0 2 3 102), (0x78DD0380, .vballot 0 20 7), (0x78E04000, .vtid 0 1),
    (0x7CBA4200, .vredfadd 0 9 4), (0x80418388, .vmerge 0 6 7 8), (0x80251401, .vmfs 0 20 40 1), (0x8414135F, .vld 0 10 4 3 1 1 15), (0x8807A102, .vldu 0 3 104 1 0 0 2),
    (0x8E11C2A0, .vst 2 8 112 2 2 2 0), (0x8D101200, .vst 1 8 4 2 0 0 0), (0x90818269, .vldx 0 4 6 4 9), (0x9401C205, .vamoadd 0 7 4 5), (0x9801C205, .vcas 0 7 4 5)],
    decode p.1 = some p.2 := by decide +kernel

theorem test_spec_words_engines : ∀ p ∈ [
    (0x9C05050B, Instr.samoadd 20 10 11), (0xA0030500, .tlook 12 10), (0xA442450B, .cpyd 9 10 11), (0xA8600000, .qpusht 0 0), (0xA8838000, .qpopt 14 0),
    (0xAC850A80, .tnwait 20 21), (0xC000048C, .tld 0 9 12), (0xC000400C, .tld 1 0 12), (0xC0208A15, .tst 2 20 21), (0xC040C000, .tzero 3), (0xC4000080, .mma 0 1 0),
    (0xC4208205, .mmaz 2 4 5), (0xC4400080, .mmar 0 1 0), (0xC8000000, .accz 0), (0xC8220007, .accld 8 0 7), (0xC8404A15, .draina 1 20 21), (0xC8604A15, .drains 1 20 21),
    (0xEC050180, .pstatr 20 3), (0xEC250A80, .bwait 20 21), (0xEC450A80, .btry 20 21), (0xEC600000, .pfree), (0xE4024400, .cxnew 9 8), (0xE4224400, .cxtnew 9 8),
    (0xE4400480, .cxret 9), (0xE4600480, .cxset 9), (0xE4828480, .cxget 10 9), (0xE4A28480, .cxpar 10 9), (0xE0050A80, .trnew 20 21), (0xE0258A01, .trroot 22 20 1),
    (0xE0458A00, .trdesc 22 20), (0xE065CB01, .trexp 23 22 1), (0xE065CB00, .trexp 23 22 0), (0xE0800B18, .trback 22 24), (0xE0A58B80, .trreuse 22 23),
    (0xE0C00B80, .trfree 23 0), (0xE0C00A01, .trfree 20 1), (0xE0E64A1A, .trleaf 25 20 26), (0xE106CB00, .trstat 27 22 0), (0xE8050A96, .osend 20 21 22),
    (0xE8250A96, .usend 20 21 22), (0xE8450A96, .orecv 20 21 22), (0xE8650A80, .opeek 20 21), (0xE8850001, .ostamp 20 1), (0xE8A50A80, .owm 20 21)],
    decode p.1 = some p.2 := by decide +kernel

/-- Words that no row has: an unassigned or reserved major, an unassigned function, an unused field that is not 0. -/
theorem test_unassigned : ∀ w ∈ [0xFC000000, 0xB0000000, 0xCC000000, 0xF0000000, 0x02800000, 0x07A00000, 0x00000001, 0x00200080, 0x38400001, 0x180000C0, 0x18000300, 0x5C000020,
    0x70000000 + 6 * 2 ^ 21, 0x80600000, 0xC0600000, 0xC8800000, 0xC8000001, 0xEC800000, 0xE4C00000, 0xE8C00000, 0xE1200000, 0xE0258A02, 0xF4000000],
    decode w = none := by decide +kernel

/-- Each check of well-formedness refuses a term: the ranges of the entries. -/
theorem test_ill_formed_ranges : ∀ i ∈ [Instr.fence 0 1, .donate 0 1 0, .bar 0 0, .bar 0 33, .bara 1 0 0, .bara 1 0 33, .sld 1 2 0 2 0 0, .sst 1 2 0 1 0 0, .smfs 1 27,
    .smfs 1 64, .smts 27 1, .smts 8 1, .smts 16 1, .b 15 0, .kall 1 33, .vcvt 0 0 2 6, .vcvt 0 0 2 0x1C, .vld 0 0 2 0 2 0 0, .vldu 0 0 2 0 2 0 0, .vst 0 0 2 0 1 0 0,
    .vldx 0 6 0 2 0, .qinit 0 0, .qinit 0 64, .qallow 0 0, .trstat 1 2 5, .ostamp 1 3], i.wf = false := by decide +kernel

/-- Each check of well-formedness refuses a term: the operand classes. -/
theorem test_ill_formed_classes : ∀ i ∈ [Instr.vadd 0 96 1 2, .vdadd 0 95 92 90, .vdadd 0 94 91 90, .vdadd 0 94 92 89, .kand 0 1 2, .smtk 0 1, .vceq 0 0 1 2, .vfceq 0 0 1 2,
    .kfroms 0 1 2, .kall 0 4, .vld 0 1 2 3 0 0 0, .vld 0 1 3 2 0 0 0, .vld 0 1 5 2 0 0 0, .vst 0 1 2 3 0 0 0, .vcvt 0 1 2 0, .vcvt 0 0 3 1, .vmfs 0 1 0 1, .vldx 0 5 1 2 0],
    i.wf = false := by decide +kernel

/-- At the edge of a class or a range a term is well formed. -/
theorem test_well_formed : ∀ i ∈ [Instr.vadd 3 95 127 96, .vdadd 0 94 127 90, .kand 7 0 7, .bar 15 32, .bara 127 15 1, .donate 1 31 7, .b 14 0, .b 16 0, .kall 7 32, .vcvt 0 0 2 0x1B,
    .smfs 1 26, .smfs 1 63, .smts 11 1, .smts 21 1, .qinit 15 63, .trstat 1 2 4, .ostamp 1 2, .vmfs 0 94 127 1], i.wf = true := by decide +kernel

/-- FIPS 180-4's digest of "abc". -/
theorem test_sha512_abc :
    (sha512 [0x61, 0x62, 0x63]).toNat = 0x9FA44CA54FC99A2A0EE83C6423444D45BDEBFEA3233CBA36A8C14F272A9992219AD3554BE6EE9E0AA27EA9894EFAE612314120AE497341CCBA7A6193A135AFDD := by
  decide +kernel

/-- RFC 8032's first test vector verifies, and no other message does with its signature. -/
theorem test_ed25519_verifies :
    let key := toBytes 0x1A5107F7681A02AF2523A6DAF372E10E3A0764C9D3FE4BD5B70AB18201985AD7 32
    let sig := toBytes 0x0B107A8E4341516524BE5B59F0F55BD26BB4F91C70391EC6AC3BA3901582B85F5501492265E073D874D9E5B81E7F87848A826E80CCE2869072AC60C3004356E5 64
    edVerifies key sig [] = true ∧ edVerifies key sig [0] = false := by decide +kernel

theorem test_decode_00 :
    decode 0x00400002 = some (.trap 2) ∧
    decode 0x00800002 = some (.brk 2) ∧
    decode 0x00A00002 = some (.mark 2) ∧
    decode 0x00C00102 = some (.fence 2 2) ∧
    decode 0x00E08202 = some (.fencex 2 4 2) ∧
    decode 0x01200002 = some (.yieldc 2) ∧
    decode 0x01400002 = some (.window 2) ∧
    decode 0x01600207 = some (.donate 0 4 7) ∧
    decode 0x01800120 = some (.bar 2 32) ∧
    decode 0x01A08201 = some (.bara 2 4 1) ∧
    decode 0x01C00104 = some (.barw 2 4) ∧
    decode 0x01E00104 = some (.waita 2 4) ∧
    decode 0x02000100 = some (.wakea 2) ∧
    decode 0x02200100 = some (.haltg 2) ∧
    decode 0x02204100 = some (.haltgRes 2) ∧
    decode 0x02400002 = some (.mbatch 2) ∧
    decode 0x02600002 = some (.mwait 2) ∧
    decode 0x00000000 = some .nop ∧
    decode 0x00200000 = some .exit ∧
    decode 0x00600000 = some .eret ∧
    decode 0x01000000 = some .yield := by decide +kernel

theorem test_decode_01 :
    decode 0x04008206 = some (.sadd 2 4 6) ∧
    decode 0x04208206 = some (.ssub 2 4 6) ∧
    decode 0x04408206 = some (.smul 2 4 6) ∧
    decode 0x04608206 = some (.smulh 2 4 6) ∧
    decode 0x04808206 = some (.smulhu 2 4 6) ∧
    decode 0x04A08206 = some (.sdiv 2 4 6) ∧
    decode 0x04C08206 = some (.sdivu 2 4 6) ∧
    decode 0x04E08206 = some (.srem 2 4 6) ∧
    decode 0x05008206 = some (.sremu 2 4 6) ∧
    decode 0x05208206 = some (.sand 2 4 6) ∧
    decode 0x05408206 = some (.sor 2 4 6) ∧
    decode 0x05608206 = some (.sxor 2 4 6) ∧
    decode 0x05808206 = some (.sandn 2 4 6) ∧
    decode 0x05A08206 = some (.sshl 2 4 6) ∧
    decode 0x05C08206 = some (.sshr 2 4 6) ∧
    decode 0x05E08206 = some (.ssra 2 4 6) ∧
    decode 0x06008206 = some (.smin 2 4 6) ∧
    decode 0x06208206 = some (.smax 2 4 6) ∧
    decode 0x06408206 = some (.sminu 2 4 6) ∧
    decode 0x06608206 = some (.smaxu 2 4 6) ∧
    decode 0x06800104 = some (.scmp 2 4) ∧
    decode 0x06A00104 = some (.scmpu 2 4) ∧
    decode 0x06C08206 = some (.ssel 2 4 6) ∧
    decode 0x06E08200 = some (.spopc 2 4) ∧
    decode 0x07008200 = some (.sclz 2 4) ∧
    decode 0x07208200 = some (.sctz 2 4) ∧
    decode 0x07408200 = some (.sbrev 2 4) ∧
    decode 0x07608206 = some (.sbfe 2 4 6) ∧
    decode 0x07808206 = some (.sbfi 2 4 6) := by decide +kernel

theorem test_decode_02 :
    decode 0x08104006 = some (.saddi 2 4 6) := by decide +kernel

theorem test_decode_03 :
    decode 0x0C104006 = some (.sandi 2 4 6) := by decide +kernel

theorem test_decode_04 :
    decode 0x10104006 = some (.sori 2 4 6) := by decide +kernel

theorem test_decode_05 :
    decode 0x14104006 = some (.sxori 2 4 6) := by decide +kernel

theorem test_decode_06 :
    decode 0x18104006 = some (.sshli 2 4 6) ∧
    decode 0x18104046 = some (.sshri 2 4 6) ∧
    decode 0x18104086 = some (.ssrai 2 4 6) := by decide +kernel

theorem test_decode_07 :
    decode 0x1C002004 = some (.scmpi 2 4) ∧
    decode 0x1C082004 = some (.scmpiu 2 4) := by decide +kernel

theorem test_decode_08 :
    decode 0x20160006 = some (.sli 2 1 2 6) := by decide +kernel

theorem test_decode_09 :
    decode 0x240412AC = some (.sld 2 4 2 2 2 12) := by decide +kernel

theorem test_decode_0a :
    decode 0x280412AC = some (.sst 2 4 2 2 2 12) := by decide +kernel

theorem test_decode_0b :
    decode 0x2C024800 = some (.smfs 9 16) ∧
    decode 0x2C230280 = some (.smts 12 5) ∧
    decode 0x2C408200 = some (.smfk 2 4) ∧
    decode 0x2C608200 = some (.smtk 2 4) := by decide +kernel

theorem test_decode_0c :
    decode 0x323FFFFE = some (.b 17 2097150) := by decide +kernel

theorem test_decode_0d :
    decode 0x37FFFFFD = some (.call 67108861) := by decide +kernel

theorem test_decode_0e :
    decode 0x38000100 = some (.jr 2) ∧
    decode 0x38200100 = some (.callr 2) ∧
    decode 0x38400000 = some .ret := by decide +kernel

theorem test_decode_0f :
    decode 0x3C008206 = some (.kand 2 4 6) ∧
    decode 0x3C208206 = some (.kor 2 4 6) ∧
    decode 0x3C408206 = some (.kxor 2 4 6) ∧
    decode 0x3C608206 = some (.kandn 2 4 6) ∧
    decode 0x3C808200 = some (.knot 2 4) ∧
    decode 0x3CA08200 = some (.kmov 2 4) ∧
    decode 0x3CC08200 = some (.kpopc 2 4) ∧
    decode 0x3CE08200 = some (.kffs 2 4) ∧
    decode 0x3D008206 = some (.kfroms 2 4 6) ∧
    decode 0x3D208206 = some (.ktos 2 4 6) ∧
    decode 0x3D408020 = some (.kall 2 32) := by decide +kernel

theorem test_decode_10 :
    decode 0x42010308 = some (.vadd 2 4 6 8) ∧
    decode 0x42210308 = some (.vsub 2 4 6 8) ∧
    decode 0x42410308 = some (.vmul 2 4 6 8) ∧
    decode 0x42610308 = some (.vmulh 2 4 6 8) ∧
    decode 0x42810308 = some (.vmulhu 2 4 6 8) ∧
    decode 0x42A10308 = some (.vmin 2 4 6 8) ∧
    decode 0x42C10308 = some (.vmax 2 4 6 8) ∧
    decode 0x42E10308 = some (.vminu 2 4 6 8) := by decide +kernel

theorem test_decode_11 :
    decode 0x46010308 = some (.vmaxu 2 4 6 8) ∧
    decode 0x46210308 = some (.vand 2 4 6 8) ∧
    decode 0x46410308 = some (.vor 2 4 6 8) ∧
    decode 0x46610308 = some (.vxor 2 4 6 8) ∧
    decode 0x46810308 = some (.vandn 2 4 6 8) ∧
    decode 0x46A10308 = some (.vshl 2 4 6 8) ∧
    decode 0x46C10308 = some (.vshr 2 4 6 8) ∧
    decode 0x46E10308 = some (.vsra 2 4 6 8) := by decide +kernel

theorem test_decode_12 :
    decode 0x4A010308 = some (.vbfe 2 4 6 8) ∧
    decode 0x4A210308 = some (.vbfeu 2 4 6 8) ∧
    decode 0x4A410308 = some (.vbfi 2 4 6 8) ∧
    decode 0x4A610300 = some (.vbrev 2 4 6) ∧
    decode 0x4A810300 = some (.vpopc 2 4 6) ∧
    decode 0x4AA10300 = some (.vclz 2 4 6) ∧
    decode 0x4AC10300 = some (.vctz 2 4 6) ∧
    decode 0x4AE10300 = some (.vabs 2 4 6) := by decide +kernel

theorem test_decode_13 :
    decode 0x4E081808 = some (.vaddi 2 4 6 8) := by decide +kernel

theorem test_decode_14 :
    decode 0x52081808 = some (.vandi 2 4 6 8) := by decide +kernel

theorem test_decode_15 :
    decode 0x56081808 = some (.vori 2 4 6 8) := by decide +kernel

theorem test_decode_16 :
    decode 0x5A081808 = some (.vxori 2 4 6 8) := by decide +kernel

theorem test_decode_17 :
    decode 0x5E081808 = some (.vshli 2 4 6 8) ∧
    decode 0x5E081848 = some (.vshri 2 4 6 8) ∧
    decode 0x5E081888 = some (.vsrai 2 4 6 8) := by decide +kernel

theorem test_decode_18 :
    decode 0x62010308 = some (.vfadd 2 4 6 8) ∧
    decode 0x62210308 = some (.vfsub 2 4 6 8) ∧
    decode 0x62410308 = some (.vfmul 2 4 6 8) ∧
    decode 0x62610308 = some (.vfma 2 4 6 8) ∧
    decode 0x62810308 = some (.vfms 2 4 6 8) ∧
    decode 0x62A10308 = some (.vfmin 2 4 6 8) ∧
    decode 0x62C10308 = some (.vfmax 2 4 6 8) ∧
    decode 0x62E10300 = some (.vfabs 2 4 6) := by decide +kernel

theorem test_decode_19 :
    decode 0x66010308 = some (.vfdiv 2 4 6 8) ∧
    decode 0x66210300 = some (.vfsqrt 2 4 6) ∧
    decode 0x66410300 = some (.vfrcp 2 4 6) ∧
    decode 0x66610300 = some (.vfrsq 2 4 6) ∧
    decode 0x66810300 = some (.vfexp2 2 4 6) ∧
    decode 0x66A10300 = some (.vflog2 2 4 6) ∧
    decode 0x66C10300 = some (.vffloor 2 4 6) ∧
    decode 0x66E10300 = some (.vfrint 2 4 6) := by decide +kernel

theorem test_decode_1a :
    decode 0x6A010308 = some (.vdadd 2 4 6 8) ∧
    decode 0x6A210308 = some (.vdsub 2 4 6 8) ∧
    decode 0x6A410308 = some (.vdmul 2 4 6 8) ∧
    decode 0x6A610308 = some (.vdfma 2 4 6 8) ∧
    decode 0x6A810308 = some (.vddiv 2 4 6 8) ∧
    decode 0x6AA10300 = some (.vdsqrt 2 4 6) ∧
    decode 0x6AC10308 = some (.vdmin 2 4 6 8) ∧
    decode 0x6AE10308 = some (.vdmax 2 4 6 8) := by decide +kernel

theorem test_decode_1b :
    decode 0x6E010302 = some (.vcvt 2 4 6 2) := by decide +kernel

theorem test_decode_1c :
    decode 0x72010308 = some (.vceq 2 4 6 8) ∧
    decode 0x72210308 = some (.vcne 2 4 6 8) ∧
    decode 0x72410308 = some (.vclt 2 4 6 8) ∧
    decode 0x72610308 = some (.vcle 2 4 6 8) ∧
    decode 0x72810308 = some (.vcltu 2 4 6 8) ∧
    decode 0x72A10308 = some (.vcleu 2 4 6 8) := by decide +kernel

theorem test_decode_1d :
    decode 0x76010308 = some (.vfceq 2 4 6 8) ∧
    decode 0x76210308 = some (.vfcne 2 4 6 8) ∧
    decode 0x76410308 = some (.vfclt 2 4 6 8) ∧
    decode 0x76610308 = some (.vfcle 2 4 6 8) ∧
    decode 0x76810308 = some (.vfcun 2 4 6 8) ∧
    decode 0x76A10308 = some (.vdceq 2 4 6 8) ∧
    decode 0x76C10308 = some (.vdclt 2 4 6 8) ∧
    decode 0x76E10308 = some (.vdcle 2 4 6 8) := by decide +kernel

theorem test_decode_1e :
    decode 0x7A010308 = some (.vshfl 2 4 6 8) ∧
    decode 0x7A210308 = some (.vshflx 2 4 6 8) ∧
    decode 0x7A410308 = some (.vshflu 2 4 6 8) ∧
    decode 0x7A610308 = some (.vshfld 2 4 6 8) ∧
    decode 0x7A810368 = some (.vbcast 2 4 6 8) ∧
    decode 0x7AA10308 = some (.vsel 2 4 6 8) ∧
    decode 0x7AD90300 = some (.vballot 2 4 6) ∧
    decode 0x7AE10000 = some (.vtid 2 4) := by decide +kernel

theorem test_decode_1f :
    decode 0x7E190300 = some (.vredadd 2 4 6) ∧
    decode 0x7E390300 = some (.vredmin 2 4 6) ∧
    decode 0x7E590300 = some (.vredmax 2 4 6) ∧
    decode 0x7E790300 = some (.vredminu 2 4 6) ∧
    decode 0x7E990300 = some (.vredmaxu 2 4 6) ∧
    decode 0x7EB90300 = some (.vredfadd 2 4 6) ∧
    decode 0x7EC10300 = some (.vscan 2 4 6) ∧
    decode 0x7EE10300 = some (.vscanf 2 4 6) := by decide +kernel

theorem test_decode_20 :
    decode 0x82010300 = some (.vmov 2 4 6) ∧
    decode 0x82210301 = some (.vmfs 2 4 6 1) ∧
    decode 0x82410308 = some (.vmerge 2 4 6 8) := by decide +kernel

theorem test_decode_21 :
    decode 0x86081AAE = some (.vld 2 4 6 2 2 2 14) := by decide +kernel

theorem test_decode_22 :
    decode 0x8A0818AE = some (.vldu 2 4 6 0 2 2 14) := by decide +kernel

theorem test_decode_23 :
    decode 0x8E081AAE = some (.vst 2 4 6 2 2 2 14) := by decide +kernel

theorem test_decode_24 :
    decode 0x92810368 = some (.vldx 2 4 4 6 8) := by decide +kernel

theorem test_decode_25 :
    decode 0x96010308 = some (.vamoadd 2 4 6 8) ∧
    decode 0x96210308 = some (.vamomin 2 4 6 8) ∧
    decode 0x96410308 = some (.vamomax 2 4 6 8) ∧
    decode 0x96610308 = some (.vamominu 2 4 6 8) ∧
    decode 0x96810308 = some (.vamomaxu 2 4 6 8) ∧
    decode 0x96A10308 = some (.vamoand 2 4 6 8) ∧
    decode 0x96C10308 = some (.vamoor 2 4 6 8) ∧
    decode 0x96E10308 = some (.vamoxor 2 4 6 8) := by decide +kernel

theorem test_decode_26 :
    decode 0x9A010308 = some (.vcas 2 4 6 8) ∧
    decode 0x9A210308 = some (.vxchg 2 4 6 8) ∧
    decode 0x9A410308 = some (.vamofadd 2 4 6 8) ∧
    decode 0x9A610308 = some (.vamofmin 2 4 6 8) ∧
    decode 0x9A810308 = some (.vamofmax 2 4 6 8) := by decide +kernel

theorem test_decode_27 :
    decode 0x9C008206 = some (.samoadd 2 4 6) ∧
    decode 0x9C208206 = some (.samomin 2 4 6) ∧
    decode 0x9C408206 = some (.samomax 2 4 6) ∧
    decode 0x9C608206 = some (.samoand 2 4 6) ∧
    decode 0x9C808206 = some (.samoor 2 4 6) ∧
    decode 0x9CA08206 = some (.samoxor 2 4 6) ∧
    decode 0x9CC08206 = some (.scas 2 4 6) ∧
    decode 0x9CE08206 = some (.sxchg 2 4 6) := by decide +kernel

theorem test_decode_28 :
    decode 0xA0008200 = some (.tlook 2 4) ∧
    decode 0xA0200104 = some (.tset 2 4) ∧
    decode 0xA0400100 = some (.tinv 2) ∧
    decode 0xA0808200 = some (.tslot 2 4) ∧
    decode 0xA0600000 = some .tclr := by decide +kernel

theorem test_decode_29 :
    decode 0xA4008206 = some (.cpy 2 4 6) ∧
    decode 0xA4208206 = some (.cpym 2 4 6) ∧
    decode 0xA4408206 = some (.cpyd 2 4 6) ∧
    decode 0xA4608206 = some (.cpyc 2 4 6) ∧
    decode 0xA4808206 = some (.cpyg 2 4 6) ∧
    decode 0xA4A08206 = some (.cpys 2 4 6) := by decide +kernel

theorem test_decode_2a :
    decode 0xA8008004 = some (.qinit 2 4) ∧
    decode 0xA8208200 = some (.qpush 2 4) ∧
    decode 0xA8408200 = some (.qpop 2 4) ∧
    decode 0xA8608200 = some (.qpusht 2 4) ∧
    decode 0xA8808200 = some (.qpopt 2 4) ∧
    decode 0xA8A08004 = some (.qallow 2 4) := by decide +kernel

theorem test_decode_2b :
    decode 0xAC008206 = some (.tnmov 2 4 6) ∧
    decode 0xAC208200 = some (.tnpin 2 4) ∧
    decode 0xAC408200 = some (.tnunpin 2 4) ∧
    decode 0xAC608200 = some (.tnevict 2 4) ∧
    decode 0xAC808200 = some (.tnwait 2 4) ∧
    decode 0xACA08200 = some (.tnstat 2 4) := by decide +kernel

theorem test_decode_30 :
    decode 0xC0008206 = some (.tld 2 4 6) ∧
    decode 0xC0208206 = some (.tst 2 4 6) ∧
    decode 0xC0408000 = some (.tzero 2) := by decide +kernel

theorem test_decode_31 :
    decode 0xC4008206 = some (.mma 2 4 6) ∧
    decode 0xC4208206 = some (.mmaz 2 4 6) ∧
    decode 0xC4408206 = some (.mmar 2 4 6) := by decide +kernel

theorem test_decode_32 :
    decode 0xC8008000 = some (.accz 2) ∧
    decode 0xC8208206 = some (.accld 2 4 6) ∧
    decode 0xC8408206 = some (.draina 2 4 6) ∧
    decode 0xC8608206 = some (.drains 2 4 6) := by decide +kernel

theorem test_decode_38 :
    decode 0xE0008200 = some (.trnew 2 4) ∧
    decode 0xE0208200 = some (.trroot 2 4 0) ∧
    decode 0xE0408200 = some (.trdesc 2 4) ∧
    decode 0xE0608200 = some (.trexp 2 4 0) ∧
    decode 0xE0800104 = some (.trback 2 4) ∧
    decode 0xE0A08200 = some (.trreuse 2 4) ∧
    decode 0xE0C00100 = some (.trfree 2 0) ∧
    decode 0xE0E08206 = some (.trleaf 2 4 6) ∧
    decode 0xE1008204 = some (.trstat 2 4 4) := by decide +kernel

theorem test_decode_39 :
    decode 0xE4008200 = some (.cxnew 2 4) ∧
    decode 0xE4208200 = some (.cxtnew 2 4) ∧
    decode 0xE4400100 = some (.cxret 2) ∧
    decode 0xE4600100 = some (.cxset 2) ∧
    decode 0xE4808200 = some (.cxget 2 4) ∧
    decode 0xE4A08200 = some (.cxpar 2 4) := by decide +kernel

theorem test_decode_3a :
    decode 0xE8008206 = some (.osend 2 4 6) ∧
    decode 0xE8208206 = some (.usend 2 4 6) ∧
    decode 0xE8408206 = some (.orecv 2 4 6) ∧
    decode 0xE8608200 = some (.opeek 2 4) ∧
    decode 0xE8808002 = some (.ostamp 2 2) ∧
    decode 0xE8A08200 = some (.owm 2 4) := by decide +kernel

theorem test_decode_3b :
    decode 0xEC008200 = some (.pstatr 2 4) ∧
    decode 0xEC208200 = some (.bwait 2 4) ∧
    decode 0xEC408200 = some (.btry 2 4) ∧
    decode 0xEC600000 = some .pfree := by decide +kernel

theorem test_decode_3e :
    decode 0xF8210620 = some (.wait 2 4 6 8) := by decide +kernel

/-- Hypotheses of DecodeEncode, EncodeDecode. -/
theorem test_wit_encoding : (Instr.vmfs 3 94 127 1).isWord = true ∧ encode (.vmfs 3 94 127 1) = some 0x8337BF81 ∧ decode 0x8337BF81 = some (.vmfs 3 94 127 1) := by
  decide +kernel

/-- Hypotheses of StepRunsInstruction; the first step after reset with `saddi s12, s127, 128` placed runs it. -/
theorem test_wit_step : let s := State.reset.withFetchWord 32 0x0867F080
    s.off = false ∧ s.agenda = [] ∧ eligible s s.grp = true ∧ s.grp.set = .active ∧ s.grp.park = none ∧ s.grp.posted = none ∧ s.grp.hits = none ∧ s.grp.live ≠ 0 ∧ bpMatches s = false ∧
      Issuer s ∧ (allGroups s).all (fun g => decide (g.eligCycles < 4096)) = true ∧ slotPick s s.team.spindle s.grp.quad = some (s.grp.key, false) ∧
      fetchWord s = some 0x0867F080 ∧ decode 0x0867F080 = some (.saddi 12 127 128) ∧
      (match step s with | .next t => getS t.grp 12 = 128 && t.grp.pc = s.grp.pc + 4 | _ => false) = true := by
  decide +kernel

/-- Hypotheses of IllegalWord, and its conclusions: a major that is not assigned, and an unassigned function of VINT under guard k2. -/
theorem test_wit_illegal_word : let s := { base with grid := { grid0 with code := [(0, 0xFC000000)] } }
    s.grp.phase = .running ∧ s.grp.wait = .none ∧ s.grp.Quiet ∧ HasHandler s.grp ∧ fetchWord s = some 0xFC000000 ∧ decode 0xFC000000 = none ∧
      traps (.illegalWord 0xFC000000) s 0x01 0xFC000000 0x1000 = true ∧ reads (.illegalWord 0xFC000000) s (fun t => t.grp.unf = 0xFFFFFFFF && !t.grp.replay) = true := by
  decide +kernel

theorem test_wit_illegal_guarded : let s := { withG (fun g => { g with masks := [(2, 0xF0)], live := 0x3C }) with grid := { grid0 with code := [(0, 0x7C000000)] } }
    s.grp.Quiet ∧ HasHandler s.grp ∧ fetchWord s = some 0x7C000000 ∧ decode 0x7C000000 = none ∧ traps (.illegalWord 0x7C000000) s 0x01 0x7C000000 0x1000 = true ∧
      reads (.illegalWord 0x7C000000) s (fun t => t.grp.unf = 0x3C) = true ∧
      (let v := { s with grid := { grid0 with code := [(0, 0x7E000000)] } }
       decode 0x7E000000 = none ∧ reads (.illegalWord 0x7E000000) v (fun t => t.grp.unf = 0x30) = true) := by
  decide +kernel

theorem test_wit_illegal_ends : let s := { base with grid := { grid0 with code := [(0, 0xFC000000)] }, grp := { grp0 with tvec := 0 }, parts := [{ Partition.initial 0 with dmpEn := true }] }
    s.grp.Quiet ∧ s.grp.tvec = 0 ∧ s.team.key = tkeyOf s.grp.key ∧ s.team.phase = .running ∧ (partOf s s.grid.part).dmpEn = true ∧
      reads (.illegalWord 0xFC000000) s (fun t => t.team.phase = .ended && t.team.endRec = some ⟨0, 0x01, 0xFC000000, 0x1000, 0⟩ && t.grp.unf = 0xFFFFFFFF) = true := by
  decide +kernel

/-- Hypotheses of DecodeFaults, one case for each check of R63, and the traps. -/
theorem test_wit_decode_faults :
    base.grp.decoded = none ∧ (Instr.bar 0 0).isWord = true ∧ encode (.bar 0 0) = some 0x01800000 ∧ (Instr.bar 0 0).wf = false ∧ traps (.bar 0 0) base 0x01 0x01800000 0x1000 = true ∧
    privFault (checksOf .eret) base.grp = true ∧ traps .eret base 0x02 0x00600000 0x1000 = true ∧
    traps (.vadd 0 15 16 2) (withG fun g => { g with alloc := 1 }) 0x04 16 0x1000 = true ∧
    traps (.vadd 0 79 80 2) (withG fun g => { g with winbase := 3 }) 0x04 128 0x1000 = true ∧
    traps (.tzero 3) { base with team := { team0 with tileWin := 3 } } 0x05 3 0x1000 = true ∧
    traps (.accz 5) { base with team := { team0 with accCount := 5 } } 0x05 0x105 0x1000 = true ∧
    traps (.qpop 1 2) { base with team := { team0 with queues := List.replicate 16 .initial } } 0x06 2 0x1000 = true ∧
    traps (.mma 0 0 1) (withG fun g => { g with gang := 1 }) 0x07 1 0x1000 = true := by
  decide +kernel

/-- The instructions of ScalarArithmetic, ScalarCompare and MaskResults are executed normally. -/
theorem test_wit_scalar : ∀ i ∈ [Instr.sadd 1 2 3, .ssub 1 2 3, .smul 1 2 3, .smulh 1 2 3, .smulhu 1 2 3, .sdiv 1 2 3, .sdivu 1 2 3, .srem 1 2 3, .sremu 1 2 3, .sand 1 2 3,
    .sor 1 2 3, .sxor 1 2 3, .sandn 1 2 3, .sshl 1 2 3, .sshr 1 2 3, .ssra 1 2 3, .smin 1 2 3, .smax 1 2 3, .sminu 1 2 3, .smaxu 1 2 3, .ssel 1 2 3, .sbfe 1 2 3, .sbfi 1 2 3,
    .spopc 1 2, .sclz 1 2, .sctz 1 2, .sbrev 1 2, .saddi 1 2 3, .sandi 1 2 3, .sori 1 2 3, .sxori 1 2 3, .sshli 1 2 3, .sshri 1 2 3, .ssrai 1 2 3, .sli 1 0 3 5, .scmp 1 2,
    .scmpu 1 2, .scmpi 1 2, .scmpiu 1 2, .kand 1 2 3, .kor 1 2 3, .kxor 1 2 3, .kandn 1 2 3, .knot 1 2, .kmov 1 2, .kfroms 1 2 3, .kall 1 32, .kpopc 1 2, .kffs 1 2, .ktos 1 2 3,
    .sadd 127 2 3, .nop], Ready i base := by
  decide +kernel

/-- R95's example, and the edges of the field. -/
theorem test_sbfe : writes (.sbfe 3 4 5) (sr [(4, 0xDEADBEEF), (5, 0x0C08)]) 3 0xDBE = true ∧
    writes (.sbfe 3 4 5) (sr [(4, 0xFFFFFFFFFFFFFFFF), (5, 0x7F3F)]) 3 1 = true ∧ writes (.sbfe 3 4 5) (sr [(4, 0xFF), (5, 0)]) 3 0 = true ∧
    writes (.sbfi 3 4 5) (sr [(3, 0xFFFF), (4, 0), (5, 0x0404)]) 3 0xFF0F = true := by
  decide +kernel

/-- R80: a divisor of zero, and the most negative dividend by −1. -/
theorem test_division : writes (.sdiv 3 4 5) (sr [(4, 7)]) 3 0xFFFFFFFFFFFFFFFF = true ∧ writes (.srem 3 4 5) (sr [(4, 7)]) 3 7 = true ∧
    writes (.sdiv 3 4 5) (sr [(4, 0x8000000000000000), (5, 0xFFFFFFFFFFFFFFFF)]) 3 0x8000000000000000 = true ∧
    writes (.srem 3 4 5) (sr [(4, 0x8000000000000000), (5, 0xFFFFFFFFFFFFFFFF)]) 3 0 = true ∧
    writes (.srem 3 4 5) (sr [(4, 0xFFFFFFFFFFFFFFF9), (5, 2)]) 3 0xFFFFFFFFFFFFFFFF = true ∧
    writes (.sdiv 3 4 5) (sr [(4, 0xFFFFFFFFFFFFFFF9), (5, 2)]) 3 0xFFFFFFFFFFFFFFFD = true := by
  decide +kernel

/-- R78: the high halves; R79: amounts at and above the width. -/
theorem test_products_and_shifts : writes (.smulh 3 4 4) (sr [(4, 0xFFFFFFFFFFFFFFFF)]) 3 0 = true ∧
    writes (.smulhu 3 4 4) (sr [(4, 0xFFFFFFFFFFFFFFFF)]) 3 0xFFFFFFFFFFFFFFFE = true ∧ writes (.sshl 3 4 5) (sr [(4, 1), (5, 64)]) 3 0 = true ∧
    writes (.sshl 3 4 5) (sr [(4, 1), (5, 63)]) 3 0x8000000000000000 = true ∧ writes (.ssra 3 4 5) (sr [(4, 0x8000000000000000), (5, 0x100000000)]) 3 0xFFFFFFFFFFFFFFFF = true ∧
    writes (.sbrev 3 4) (sr [(4, 1)]) 3 0x8000000000000000 = true ∧ writes (.sclz 3 4) (sr []) 3 64 = true ∧ writes (.sctz 3 4) (sr [(4, 8)]) 3 3 = true := by
  decide +kernel

/-- R96, R97 with R23: immediates, SLI, and s127, which reads 0 and discards a write. -/
theorem test_immediates : writes (.sandi 3 4 0xFF0) (sr [(4, 0xFFFF)]) 3 0xFFF0 = true ∧ writes (.saddi 12 127 128) base 12 128 = true ∧
    writes (.sli 3 0 3 0xABCD) (sr [(3, 0x1111111111111111)]) 3 0xABCD111111111111 = true ∧ writes (.sli 3 1 0 5) (sr [(3, 0x1111)]) 3 5 = true ∧
    writes (.saddi 127 127 1) base 127 0 = true ∧ writes (.ssel 3 4 5) (sr [(3, 1), (4, 8), (5, 9)]) 3 8 = true ∧ writes (.ssel 3 4 5) (sr [(4, 8), (5, 9)]) 3 9 = true := by
  decide +kernel

/-- R94's example. -/
theorem test_compare : reads (.scmp 4 5) (sr [(4, 0xFFFFFFFFFFFFFFFF), (5, 1)]) (fun t => t.grp.cc = ⟨false, true, true, false⟩) = true ∧
    reads (.scmpu 4 5) (sr [(4, 0xFFFFFFFFFFFFFFFF), (5, 1)]) (fun t => t.grp.cc = ⟨false, false, true, false⟩) = true ∧
    reads (.scmp 4 5) (sr [(4, 0x8000000000000000), (5, 1)]) (fun t => t.grp.cc = ⟨false, false, true, true⟩) = true ∧
    reads (.scmpi 4 0xFFF) (sr [(4, 0xFFFFFFFFFFFFFFFF)]) (fun t => t.grp.cc = ⟨true, false, true, false⟩) = true := by
  decide +kernel

/-- R101: masks, and the moves between masks and scalars. -/
theorem test_masks : reads (.kall 4 16) base (fun t => getK t.grp 4 = 0xFFFF) = true ∧ reads (.kall 4 32) base (fun t => getK t.grp 4 = 0xFFFFFFFF) = true ∧
    reads (.kfroms 1 4 5) (sr [(4, 0x123456789), (5, 4)]) (fun t => getK t.grp 1 = 0x12345678) = true ∧
    reads (.kffs 3 1) (withG fun g => { g with masks := [(1, 0xFF00)], live := 0xF000 }) (fun t => getS t.grp 3 = 12) = true ∧
    reads (.kffs 3 1) base (fun t => getS t.grp 3 = 32) = true ∧
    reads (.ktos 3 1 5) (withG fun g => { g with masks := [(1, 0xF)], sregs := [(3, 0xFFFFFFFFFFFFFFFF), (5, 62)] })
      (fun t => getS t.grp 3 = 0xFFFFFFFFFFFFFFFF) = true := by
  decide +kernel

/-- Hypotheses of SpecialMoves: each register the statement names, in user mode and in privileged mode. -/
theorem test_wit_special : targetKey base = base.grp.key ∧ base.grp.phase = .running ∧ targetKey privBase = privBase.grp.key ∧
    (∀ n, n < 64 → n < 27 ∨ 32 ≤ n → Ready (.smfs 3 (BitVec.ofNat 7 n)) (if n ∈ [20, 21, 23, 24, 26] then privBase else base)) := by
  decide +kernel

theorem test_wit_special_writes : (∀ n ∈ [11, 12, 13, 14, 25, 32, 47, 48, 63], Ready (.smts (BitVec.ofNat 7 n) 3) base) ∧
    (∀ n ∈ [20, 21, 22, 23, 24, 26], Ready (.smts (BitVec.ofNat 7 n) 3) privBase) ∧ Ready (.smfk 3 0) base ∧ Ready (.smtk 7 3) base := by
  decide +kernel

/-- R35, R27, R30: reads of special registers, and the reserved bits of TSHAPE and TQUEUE. -/
theorem test_special_reads : writes (.smfs 3 15) (withG fun g => { g with cntL := 3, cntS := 2, cntC := 1, cntT := 63 }) 3 0xFC1083 = true ∧
    writes (.smfs 3 24) (withG fun g => { g with priv := true, intrap := true, replay := true, unf := 0xF0, tgroup := 9 }) 3 0xF000000905 = true ∧
    writes (.smfs 3 7) base 3 0x01E0400000000000 = true ∧ writes (.smfs 3 33) base 3 0x4020 = true ∧
    reads (.smts 33 4) (sr [(4, 0xFFFFFFFFFFFFFFFF)]) (fun t => t.team.tshape.getD 1 0 = 0x3FF3F && t.team.tshape.getD 2 0 = 0x4020) = true ∧
    reads (.smts 63 4) (sr [(4, 0xFF)]) (fun t => t.team.tqueue.getD 15 0 = 0xF) = true := by
  decide +kernel

/-- R36, R24: writes of special registers. -/
theorem test_special : reads (.smts 25 4) (sr []) (fun t => t.grp.bwto = 1) = true ∧
    reads (.smts 14 4) (sr [(4, 0xF0)]) (fun t => t.grp.live = 0xF0) = true ∧ reads (.smts 14 4) (sr []) (fun t => t.grp.live = 0 && t.grp.phase = .exiting) = true ∧
    reads (.smts 23 4) (withG fun g => { g with priv := true, sregs := [(4, 0x1237)] }) (fun t => t.grp.epc = 0x1234) = true ∧
    traps (.smts 21 4) base 0x02 (0x2C200000 + 21 * 0x4000 + 4 * 0x80) 0x1000 = true := by
  decide +kernel

/-- Hypotheses of BranchesAndMisalignment. -/
theorem test_wit_branches : (∀ i ∈ [Instr.b 0 5, .b 14 5, .b 31 5, .call 5, .jr 4, .callr 4, .ret], Ready i base) ∧ (getS base.grp 4).toNat % 4 = 0 ∧
    (getS base.grp 126).toNat % 4 = 0 := by
  decide +kernel

/-- R61, R102: a branch back, one that is not taken, and CALLR through the old LR. -/
theorem test_branches : reads (.b 0 0x1FFFFF) base (fun t => t.grp.pc = 0xFFC) = true ∧ reads (.b 1 8) base (fun t => t.grp.pc = 0x1004) = true ∧
    reads (.b 24 8) base (fun t => t.grp.pc = 0x1020) = true ∧ reads (.b 16 8) base (fun t => t.grp.pc = 0x1004) = true ∧
    reads (.callr 126) (sr [(126, 0x1400)]) (fun t => t.grp.pc = 0x1400 && getS t.grp 126 = 0x1004) = true ∧
    reads (.call 0x3FFFFFF) base (fun t => t.grp.pc = 0xFFC && getS t.grp 126 = 0x1004) = true ∧
    reads (.b 3 8) (withG fun g => { g with cc := ⟨false, true, true, false⟩ }) (fun t => t.grp.pc = 0x1020) = true := by
  decide +kernel

/-- Hypotheses and conclusion of BranchesAndMisalignment, misaligned. -/
theorem test_wit_misaligned : HasHandler base.grp ∧ Ready (.callr 4) (sr [(4, 0x1402)]) ∧ traps (.callr 4) (sr [(4, 0x1402)]) 0x03 0x1402 0x1000 = true ∧
    traps (.jr 4) (sr [(4, 1)]) 0x03 1 0x1000 = true ∧ traps .ret (sr [(126, 3)]) 0x03 3 0x1000 = true ∧ Ready (.sld 3 4 3 0 0 15) (sr [(4, 0x1003)]) ∧
    traps (.sld 3 4 3 0 0 15) (sr [(4, 0x1003)]) 0x03 0xFFB 0x1000 = true ∧ Ready (.sst 3 4 1 0 0 0) (sr [(4, 1)]) ∧
    traps (.sst 3 4 1 0 0 0) (sr [(4, 1)]) 0x03 1 0x1000 = true := by
  decide +kernel

/-- The instructions of VectorInteger, VectorFloat, VectorConvertAndCompare, VectorCrossThread and VectorReduceAndScan are executed normally. -/
theorem test_wit_vector_integer : ∀ i ∈ [Instr.vadd 0 2 4 6, .vsub 0 2 4 6, .vmul 0 2 4 6, .vmulh 0 2 4 6, .vmulhu 0 2 4 6, .vmin 0 2 4 6, .vmax 0 2 4 6, .vminu 0 2 4 6,
    .vmaxu 0 2 4 6, .vand 0 2 4 6, .vor 0 2 4 6, .vxor 0 2 4 6, .vandn 0 2 4 6, .vshl 0 2 4 6, .vshr 0 2 4 6, .vsra 0 2 4 6, .vbfe 0 2 4 6, .vbfeu 0 2 4 6, .vbfi 0 2 4 6,
    .vbrev 0 2 4, .vpopc 0 2 4, .vclz 0 2 4, .vctz 0 2 4, .vabs 0 2 4, .vmov 0 2 4, .vmerge 0 2 4 6, .vaddi 0 2 4 6, .vandi 0 2 4 6, .vori 0 2 4 6, .vxori 0 2 4 6,
    .vshli 0 2 4 6, .vshri 0 2 4 6, .vsrai 3 95 127 31], Ready i base := by
  decide +kernel

theorem test_wit_vector_float : ∀ i ∈ [Instr.vfadd 0 2 4 6, .vfsub 0 2 4 6, .vfmul 0 2 4 6, .vfma 0 2 4 6, .vfms 0 2 4 6, .vfmin 0 2 4 6, .vfmax 0 2 4 6, .vfabs 0 2 4,
    .vfdiv 0 2 4 6, .vfsqrt 0 2 4, .vfrcp 0 2 4, .vfrsq 0 2 4, .vfexp2 0 2 4, .vflog2 0 2 4, .vffloor 0 2 4, .vfrint 0 2 4, .vdadd 0 2 4 6, .vdsub 0 2 4 6, .vdmul 0 2 4 6,
    .vdfma 0 2 4 6, .vddiv 0 2 4 6, .vdsqrt 0 2 4, .vdmin 0 2 4 6, .vdmax 0 94 126 92, .vcvt 0 2 4 0, .vcvt 0 2 4 1, .vcvt 0 2 4 2, .vcvt 0 2 4 3, .vcvt 0 2 4 4, .vcvt 0 2 4 5,
    .vcvt 0 2 4 8, .vcvt 0 2 4 9, .vcvt 0 2 4 10, .vcvt 0 2 4 11, .vcvt 0 2 4 12, .vcvt 0 2 4 13, .vcvt 0 2 4 16, .vcvt 0 2 4 17, .vcvt 0 2 4 18, .vcvt 0 2 4 19,
    .vcvt 0 2 4 20, .vcvt 0 2 4 21, .vcvt 0 2 4 22, .vcvt 0 2 4 23, .vcvt 0 2 4 24, .vcvt 0 2 4 25, .vcvt 0 2 4 26, .vcvt 0 2 4 27], Ready i base := by
  decide +kernel

theorem test_wit_vector_rest : ∀ i ∈ [Instr.vceq 0 1 4 6, .vcne 0 1 4 6, .vclt 0 1 4 6, .vcle 0 1 4 6, .vcltu 0 1 4 6, .vcleu 0 1 4 6, .vfceq 0 1 4 6, .vfcne 0 1 4 6,
    .vfclt 0 1 4 6, .vfcle 0 1 4 6, .vfcun 0 1 4 6, .vdceq 0 1 4 6, .vdclt 0 1 4 6, .vdcle 0 1 4 6, .vshfl 0 2 4 6, .vshflx 0 2 4 6, .vshflu 0 2 4 6, .vshfld 0 2 4 6,
    .vbcast 0 2 4 31, .vsel 0 2 4 6, .vballot 0 31 4, .vtid 0 2, .vmfs 0 2 127 0, .vmfs 0 2 127 1, .vredadd 0 9 4, .vredmin 0 9 4, .vredmax 0 9 4, .vredminu 0 9 4,
    .vredmaxu 0 9 4, .vredfadd 0 9 4, .vscan 0 2 4, .vscanf 0 2 4], Ready i base := by
  decide +kernel

/-- The element of thread `t` that `i` leaves in vector register `d`, from registers 4 and 6 of that thread. -/
def vres (i : Instr) (t d : Nat) (x y v : Word) : Bool :=
  reads i (withG fun g => { g with vregs := mset (mset [] (4 * 32 + t) x) (6 * 32 + t) y }) fun s => mget s.grp.vregs (d * 32 + t) = v

/-- R128, R129: the examples. -/
theorem test_vector_fields : vres (.vbfe 0 2 4 6) 0 2 0x80000000 0x0804 0 = true ∧ vres (.vbfe 0 2 4 6) 31 2 0x80000000 0x081C 8 = true ∧
    vres (.vbfe 0 2 4 6) 5 2 0xFF0 0x0804 0xFFFFFFFF = true ∧ vres (.vshl 0 2 4 6) 3 2 1 33 0 = true ∧ vres (.vsra 0 2 4 6) 3 2 0x80000000 32 0xFFFFFFFF = true ∧
    vres (.vabs 0 2 4) 3 2 0x80000000 0 0x80000000 = true ∧ vres (.vmulh 0 2 4 6) 3 2 0x80000000 0x80000000 0x40000000 = true ∧
    vres (.vmerge 0 2 4 6) 7 2 0x3F80 0x4040 0x40403F80 = true ∧ vres (.vandi 0 2 4 0x3F0) 7 2 0xFFFF 0 0xFFF0 = true := by
  decide +kernel

/-- Outside LIVE and guard an element keeps its value. -/
theorem test_vector_guard : reads (.vtid 1 2) (withG fun g => { g with masks := [(1, 4)], vregs := [(66, 9), (67, 9)] })
    (fun s => mget s.grp.vregs 66 = 2 && mget s.grp.vregs 67 = 9) = true := by
  decide +kernel

/-- R67, R72, R73, R75, R76: values by hand. -/
theorem test_fp32 : vres (.vfadd 0 2 4 6) 0 2 0x3F800000 0x33800000 0x3F800000 = true ∧ vres (.vfadd 0 2 4 6) 0 2 0x3F800001 0x33800000 0x3F800002 = true ∧
    vres (.vfmul 0 2 4 6) 0 2 0x7F800000 0 0x7FC00000 = true ∧ vres (.vfdiv 0 2 4 6) 0 2 0x3F800000 0x40400000 0x3EAAAAAB = true ∧
    vres (.vfsqrt 0 2 4) 0 2 0x40000000 0 0x3FB504F3 = true ∧ vres (.vfmin 0 2 4 6) 0 2 0x7FC00000 0x3F800000 0x3F800000 = true ∧
    vres (.vfabs 0 2 4) 0 2 0xFFFFFFFF 0 0x7FC00000 = true ∧ vres (.vfrint 0 2 4) 0 2 0x40200000 0 0x40000000 = true ∧ vres (.vffloor 0 2 4) 0 2 0xBF000000 0 0xBF800000 = true ∧
    vres (.vfrcp 0 2 4) 0 2 0x40000000 0 0x3F000000 = true := by
  decide +kernel

/-- Exact powers and roots of R75. -/
theorem test_fp32_functions : vres (.vfexp2 0 2 4) 0 2 0x40400000 0 0x41000000 = true ∧ vres (.vflog2 0 2 4) 0 2 0x41000000 0 0x40400000 = true ∧
    vres (.vfrsq 0 2 4) 0 2 0x40800000 0 0x3F000000 = true ∧ vres (.vfexp2 0 2 4) 0 2 0x3F000000 0 0x3FB504F3 = true := by
  decide +kernel

/-- R83's examples: a BF16 tie, saturation, and truncation of a negative fraction. -/
theorem test_conversions : vres (.vcvt 0 2 4 2) 0 2 0x3F808000 0 0x3F80 = true ∧ vres (.vcvt 0 2 4 0x18) 0 2 0xC3488000 0 0xFFFFFF80 = true ∧
    vres (.vcvt 0 2 4 9) 0 2 0xBF400000 0 0 = true ∧ vres (.vcvt 0 2 4 4) 0 2 0x4788B800 0 0x7C00 = true ∧ vres (.vcvt 0 2 4 8) 0 2 0x7FC00000 0 0 = true ∧
    vres (.vcvt 0 2 4 10) 0 2 0xBFC00000 0 0xFFFFFFFF = true ∧ vres (.vcvt 0 2 4 0x1A) 0 2 0x80 0 0xC3000000 = true := by
  decide +kernel

/-- FP64 on pairs of registers: 1 + 1 and 1 / 3. -/
theorem test_fp64 : reads (.vdadd 0 2 4 4) (withG fun g => { g with vregs := [(160, 0x3FF00000)] })
      (fun s => mget s.grp.vregs 64 = 0 && mget s.grp.vregs 96 = 0x40000000) = true ∧
    reads (.vddiv 0 2 4 6) (withG fun g => { g with vregs := [(160, 0x3FF00000), (224, 0x40080000)] })
      (fun s => mget s.grp.vregs 64 = 0x55555555 && mget s.grp.vregs 96 = 0x3FD55555) = true := by
  decide +kernel

/-- R133-R140: compares, cross-thread reads, reductions and scans, with threads 0-2 holding 5, 3, 8. -/
theorem test_across_threads : let s := withG fun g => { g with vregs := [(128, 5), (129, 3), (130, 8)], live := 7, sregs := [(6, 1), (7, 4)] }
    reads (.vshfld 0 2 4 102) s (fun t => mget t.grp.vregs 64 = 3 && mget t.grp.vregs 65 = 8) = true ∧
    reads (.vshflu 0 2 4 102) s (fun t => mget t.grp.vregs 64 = 5 && mget t.grp.vregs 65 = 5) = true ∧
    reads (.vclt 0 1 103 4) s (fun t => getK t.grp 1 = 5) = true ∧ reads (.vballot 0 9 4) s (fun t => getS t.grp 9 = 7) = true ∧
    reads (.vredadd 0 9 4) s (fun t => getS t.grp 9 = 16) = true ∧ reads (.vredmin 0 9 4) s (fun t => getS t.grp 9 = 3) = true ∧
    reads (.vscan 0 2 4) s (fun t => mget t.grp.vregs 65 = 8 && mget t.grp.vregs 66 = 16 && mget t.grp.vregs 67 = 0) = true ∧
    reads (.vredmin 1 9 4) s (fun t => getS t.grp 9 = 0x7FFFFFFF) = true := by
  decide +kernel

/-- R139, R140, R91: floating-point sums of 1, 2 and −0. -/
theorem test_float_sums : let s := withG fun g => { g with vregs := [(128, 0x3F800000), (129, 0x40000000)], live := 3 }
    reads (.vredfadd 0 9 4) s (fun t => getS t.grp 9 = 0x40400000) = true ∧ reads (.vscanf 0 2 4) s (fun t => mget t.grp.vregs 65 = 0x40400000) = true ∧
    reads (.vscanf 0 2 4) (withG fun g => { g with vregs := [(128, 0x80000000)], live := 1 }) (fun t => mget t.grp.vregs 64 = 0x80000000) = true := by
  decide +kernel

/-- Hypotheses of RoundsCorrectly. -/
theorem test_wit_rounding : (0 : Nat) < 3 ∧ roundFin fp32 0 false false 3 (-149 - 1) false = 2 ∧ roundFin fp32 1 false false 3 (-149 - 1) false = 1 := by
  decide +kernel

/-- The majors of RegisterFrame. -/
theorem test_wit_frame : HasHandler base.grp ∧ base.grp.hits = none ∧ base.grp.stepping = false ∧ base.grp.wait.begun = false ∧
    (∀ i ∈ [Instr.sadd 1 2 3, .sli 1 0 0 0, .b 0 0, .vmov 0 1 2], i.isWord = true ∧ (encode i).isSome = true ∧
      let m := ((encode i).getD 0).toNat / 2 ^ 26
      (1 ≤ m ∧ m ≤ 8) ∨ (0x0C ≤ m ∧ m ≤ 0x20)) := by
  decide +kernel

/-- Hypotheses of LoadStoreIssue: the loads, the stores, and no acting thread. -/
theorem test_wit_load_issue : let s := oneThread 0x100
    s.grp.cntL ≠ 63 ∧ s.grp.cntS ≠ 63 ∧ CommAtMost 62 s ∧ actOf s.grp 1 ≠ 0 ∧ actOf s.grp 2 = 0 ∧
    (∀ i ∈ [Instr.sld 3 4 3 0 0 15, .vld 1 2 4 2 1 0 0, .vldu 1 2 4 1 3 0 0, .vldx 1 4 2 4 31, .vld 2 2 4 3 0 0 0, .vldu 2 2 4 1 0 0 0, .vldx 2 5 2 4 0, .vst 2 8 4 3 0 0 0,
      .sst 3 4 3 3 0 0, .vst 1 6 4 2 2 0 0], Ready i s) ∧
    (let va := getS s.grp 4 + (15 : BitVec 4).signExtend 64 * BitVec.ofNat 64 8
     va = 0xF8 ∧ va.toNat % 8 = 0 ∧ (threadAcc s (envOf s) .ls 8 true false 0 va).fine = true) ∧
    (let p := gather (fun s => threadAcc s { envOf s with ctx := 0 } .ls 4 true false) false 4 ((threads (actOf s.grp 1)).map fun t => (t, opnd64 s.grp 4 t)) s
     p.2.all Got.fine = true ∧ watched s true false 4 p.2 = false ∧ (s.grid.det && anyDet p.2) = false ∧ (OpKind.load 2 4 true (fineAccs p.2)).paused s = false) ∧
    (let p := gather (fun s => threadAcc s (envOf s) .ls 4 false true) true 4 ((threads (actOf s.grp 1)).map fun t => (t, opnd64 s.grp 4 t)) s
     p.2.all Got.fine = true ∧ watched s false true 4 p.2 = false ∧ (OpKind.store 4 ((fineAccs p.2).map fun x => (x, 7)) 0).paused s = false) := by
  decide +kernel

/-- A load and a store are outstanding when they have issued: neither memory nor a register has changed. -/
theorem test_access_issue : let s := oneThread 0x100
    reads (.vld 1 2 4 2 1 0 0) s (fun t => t.grp.cntL = 1 && t.grp.pc = 0x1004 && t.mem = s.mem && t.grp.vregs = s.grp.vregs &&
      t.ops.map (fun o => o.kind) = [.load 2 4 true [acc0 0x100]] && t.ops.all fun o => o.acq && !o.rel) = true ∧
    reads (.vst 1 6 4 2 2 0 0) s (fun t => t.grp.cntS = 1 && t.mem = s.mem && t.ops.map (fun o => o.kind) = [.store 4 [(acc0 0x100, 7)] 0] &&
      t.ops.all fun o => o.rel && !o.acq) = true ∧
    reads (.sst 6 4 3 0 0 0) s (fun t => t.grp.cntS = 1 && t.ops.map (fun o => o.kind) = [.store 8 [(acc0 0x100, 7)] 0]) = true := by
  decide +kernel

/-- R53, R60: a scalar source of VST's data reaches every acting thread. -/
theorem test_store_scalar_data : let s := { oneThread 0x100 with grp := { (oneThread 0x100).grp with sregs := [(5, 0x1122334455667788)] } }
    Ready (.vst 1 101 4 2 0 0 0) s ∧ Ready (.vst 1 101 4 3 0 0 0) s ∧ reads (.vst 1 101 4 2 0 0 0) s (fun t => t.ops.map (fun o => o.kind) = [.store 4 [(acc0 0x100, 0x55667788)] 0]) = true ∧
    reads (.vst 1 101 4 3 0 0 0) s (fun t => t.ops.map (fun o => o.kind) = [.store 8 [(acc0 0x100, 0x1122334455667788)] 0]) = true := by
  decide +kernel

/-- Hypotheses of LoadStoreEffect, with what completes. -/
theorem test_wit_load_effect : let o := op0 (.sload 3 2 (acc0 0x100))
    let s := { withOp o with mem := [(0x100, 0x34), (0x101, 0x82)] }
    readyOp s o.id = some o ∧ o.owner = .group s.grp.key ∧ s.grp.phase = .running ∧ s.grp.wait = .none ∧ s.team.key = tkeyOf s.grp.key ∧ s.team.phase = .running ∧
    reads (.loadCompletion 5) s (fun t => getS t.grp 3 = 0x8234 && t.grp.cntL = 0 && t.ops = []) = true := by
  decide +kernel

theorem test_wit_vector_load_effect : let o := op0 (.load 2 2 true [acc0 0x100])
    let s := { withOp o with mem := [(0x100, 0x34), (0x101, 0x82)] }
    readyOp s o.id = some o ∧ ([acc0 0x100].map Access.thread).Nodup ∧ (∀ x ∈ [acc0 0x100], x.thread < 32) ∧
    reads (.loadCompletion 5) s (fun t => mget t.grp.vregs 64 = 0xFFFF8234) = true ∧
    (let o := op0 (.load 2 8 true [acc0 0x100])
     reads (.loadCompletion 5) { withOp o with mem := [(0x100, 0x34), (0x107, 0x82)] } (fun t => mget t.grp.vregs 64 = 0x34 && mget t.grp.vregs 96 = 0x82000000) = true) := by
  decide +kernel

theorem test_wit_store_effect : let o := op0 (.store 4 [(acc0 0x100, 0xAABBCCDD), (⟨1, 0x102, at0 0x102⟩, 0x11223344)] 1)
    let s := withOp o
    readyOp s o.id = some o ∧ (∀ x ∈ [acc0 0x100, ⟨1, 0x102, at0 0x102⟩], x.loc.space = .phys) ∧
    reads (.storePerformed 5) s (fun t => t.grp.cntS = 0 && mgets t.mem 0x100 7 = [0xDD, 0xCC, 0x44, 0x33, 0x22, 0x11, 0]) = true := by
  decide +kernel

/-- Hypotheses of AtomicIssue. -/
theorem test_wit_atomic_issue : let s := oneThread 0x100
    actOf s.grp 1 ≠ 0 ∧ (∀ i ∈ [Instr.vamoadd 1 2 4 6, .vamomin 1 2 4 6, .vamomax 1 2 4 6, .vamominu 1 2 4 6, .vamomaxu 1 2 4 6, .vamoand 1 2 4 6, .vamoor 1 2 4 6,
      .vamoxor 1 2 4 6, .vcas 1 2 4 6, .vxchg 1 2 4 6, .vamofadd 1 2 4 6, .vamofmin 1 2 4 6, .vamofmax 1 2 4 6, .samoadd 3 4 6, .samomin 3 4 6, .samomax 3 4 6, .samoand 3 4 6,
      .samoor 3 4 6, .samoxor 3 4 6, .scas 3 4 6, .sxchg 3 4 6], Ready i s ∧ reads i s (fun t => t.grp.cntS = 1 && t.ops.length = 1 && t.mem = s.mem) = true) ∧
    CommAtMost 62 s ∧ (threadAmo s (envOf s) .add 8 0 (getS s.grp 4)).fine = true ∧ (OpKind.samo .add 3 (acc0 0x100) 7 0).paused s = false := by
  decide +kernel

/-- Hypotheses of AtomicCompletes, with what completes. -/
theorem test_wit_atomic_effect : let o := op0 (.samo .min 3 (acc0 0x100) 0xFFFFFFFFFFFFFFFF 0)
    let s := { withOp o with mem := [(0x100, 5)] }
    readyOp s o.id = some o ∧ o.host = none ∧ o.into = none ∧ o.owner = .group s.grp.key ∧ (acc0 0x100).loc.space = .phys ∧
    reads (.atomicCompletion 5) s (fun t => getS t.grp 3 = 5 && mgets t.mem 0x100 8 = [255, 255, 255, 255, 255, 255, 255, 255] && t.grp.cntS = 0) = true := by
  decide +kernel

theorem test_wit_vector_atomic : let o := op0 (.amo .cas 2 [(acc0 0x100, 9, 5), (⟨1, 0x104, at0 0x104⟩, 9, 6)])
    let s := { withOp o with mem := [(0x100, 5), (0x104, 5)] }
    readyOp s o.id = some o ∧
      (∀ x ∈ [acc0 0x100, ⟨1, 0x104, at0 0x104⟩], x.loc.gen = 0) ∧ s.byteGen = [] ∧
      [(acc0 0x100, (9 : Word)), (⟨1, 0x104, at0 0x104⟩, 9)].Pairwise (fun x y => x.1.thread ≠ y.1.thread ∧ (x.1.loc.off + 4 ≤ y.1.loc.off ∨ y.1.loc.off + 4 ≤ x.1.loc.off)) ∧
    reads (.atomicCompletion 5) s (fun t => mget t.grp.vregs 64 = 5 && mget t.grp.vregs 65 = 5 && mget t.mem 0x100 = 9 && mget t.mem 0x104 = 5) = true := by
  decide +kernel

/-- Hypotheses of TagTable: a hit, a miss, slots inside and outside the table. -/
theorem test_wit_tags : let s := { sr [(4, 0x5000), (5, 3), (6, 4)] with team := { team0 with tags := [(2, 5)] } }
    (ownOps s).all (fun o => !o.acq) = true ∧ (∀ i ∈ [Instr.tlook 3 4, .tset 5 4, .tset 6 4, .tinv 4, .tclr, .tslot 3 5, .tslot 3 6], Ready i s) ∧
    reads (.tlook 3 4) s (fun t => getS t.grp 3 = 2 && t.grp.cc = ⟨true, false, false, false⟩) = true ∧
    reads (.tlook 3 5) s (fun t => getS t.grp 3 = 0xFFFFFFFFFFFFFFFF && t.grp.cc = ⟨false, false, true, false⟩) = true ∧
    reads (.tset 5 4) s (fun t => t.team.tags = [(3, 5)]) = true ∧ reads (.tset 6 4) s (fun t => t.team.tags = [(2, 5)] && t.grp.cc = ⟨false, false, true, false⟩) = true ∧
    writes (.tslot 3 5) s 3 0x01E000000000F000 = true := by
  decide +kernel

/-- Hypotheses of Waits: the bound met at its edge, the bound passed, and an outstanding load. -/
theorem test_wit_waits : let s := withG fun g => { g with cntL := 63, cntS := 2, batchPend := [(1, 1)] }
    let u := withOp (op0 (.load 2 4 true [acc0 0x100]))
    base.grp.eccPend = [] ∧ CommAtMost 0 s ∧ (∀ i ∈ [Instr.wait 63 2 0 0, .wait 62 2 0 0, .mwait 1], Ready i s) ∧
    (∀ i ∈ [Instr.wait 0 0 0 0, .mbatch 7, .mwait 0, .fence 1 2, .fencex 1 4 2], Ready i base) ∧ Ready (.fence 2 2) u ∧ NoComm [.store, .atomic] u ∧ pathPending 1 base = none ∧ (ownOps u).any (fun e => e.kind.vec = some true) = true ∧
    reads (.wait 63 2 0 0) s (fun t => t.grp.pc = 0x1004) = true ∧ reads (.wait 62 1 0 0) s (fun t => t.grp.wait = .stall .load && t.grp.pc = 0x1000) = true ∧
    reads (.wait 63 1 0 0) s (fun t => t.grp.wait = .stall .store) = true ∧ reads (.mwait 1) s (fun t => t.grp.wait = .stall .tile) = true ∧
    reads (.fence 2 2) u (fun t => t.grp.wait = .stall .load) = true := by
  decide +kernel

theorem test_wit_fence_stalls : let u := withOp (op0 (.samo .add 3 (acc0 0x100) 1 0))
    let v := withOp (op0 (.store 4 [(acc0 0x100, 1)] 0))
    (ownOps u).any (fun e => e.kind.vec = some true) = false ∧ (ownOps u).any (fun e => e.kind.atomic) = true ∧ Ready (.fence 1 2) u ∧
    reads (.fence 1 2) u (fun t => t.grp.wait = .stall .store) = true ∧ Ready (.fence 1 2) v ∧ reads (.fence 1 2) v (fun t => t.grp.pc = 0x1004) = true ∧
    pathPending 0 v = some .store ∧ Ready (.fencex 0 1 2) v ∧ reads (.fencex 0 1 2) v (fun t => t.grp.wait = .stall .store) = true := by
  decide +kernel

/-- Waits in a deterministic launch: a store of this quantum waits for its commit, has raised S, and WAIT, FENCE and FENCEX count their attempts in CLK (R328). -/
theorem test_wit_own_quantum : let s := { withG (fun g => { g with commAt := [(.store, 0), (.send, 0)], commCnt := 1 }) with grid := { grid0 with det := true } }
    s.grp.priv = false ∧ s.grp.commS = 1 ∧ s.grp.comm .store = true ∧ s.grp.comm .send = true ∧
    (∀ i ∈ [Instr.wait 63 0 0 0, .fence 2 2, .fencex 0 4 2, .fencex 5 4 2], Ready i s ∧ reads i s (fun t => t.grp.wait = .none && t.grp.pc = 0x1000 && t.grp.clk = 1) = true) ∧
    CommAtMost 1 s ∧ NoComm [.atomic, .drain] s ∧ (∀ i ∈ [Instr.wait 63 1 0 0, .fencex 3 4 2], reads i s (fun t => t.grp.pc = 0x1004) = true) := by
  decide +kernel

/-- The machine with a pending sibling, and three copies counted. -/
def yieldS : State := { withG (fun g => { g with cntC := 3 }) with groups := [{ sib with set := .pending }] }

/-- Hypotheses of YieldWindowMark. -/
theorem test_wit_yield_ready : base.grp.phase ≠ .absent ∧ Ready .yield base ∧ Ready (.yieldc 0) base ∧ nextPending base base.grp = none ∧ Ready .yield yieldS ∧ Ready (.yieldc 2) yieldS ∧
    Ready (.yieldc 3) yieldS := by
  decide +kernel

theorem test_wit_yield : let s := yieldS
    nextPending s s.grp = some { sib with set := .pending } ∧
    reads .yield s (fun t => t.grp.set = .pending && t.grp.pc = 0x1004 && t.groups.map (fun g => g.set) = [.active]) = true ∧
    reads (.yieldc 2) s (fun t => t.grp.set = .pending && t.grp.wait = .yieldc 2 && t.grp.pc = 0x1000) = true := by
  decide +kernel

theorem test_wit_window_mark : Ready (.window 7) base ∧ reads (.window 7) base (fun t => t.grp.winbase = 7) = true ∧
    (let s := withG fun g => { g with alloc := 7 }
     Ready (.window 7) s ∧ HasHandler s.grp ∧ traps (.window 7) s 0x04 112 0x1000 = true) ∧
    Ready (.mark 0x3FFF) base ∧ tracedSlot base base.grp.key = none ∧
    (let s := { base with dbg := [{ Dbg.initial 0 with ctl := 0x80, slots := [(3, 1)] }] }
     Ready (.mark 5) s ∧ tracedSlot s s.grp.key = some 3 ∧ findTeam s (tkeyOf s.grp.key) = some team0 ∧ cyclesSince s (dbgOf s 0) < 2 ^ 15 ∧
     reads (.mark 5) s (fun t => (dbgOf t 0).staged = [BitVec.ofNat 128 (1 + 3 * 2 ^ 4 + 5 * 2 ^ 45 + 0xFFFFFFFF * 2 ^ 96)]) = true) := by
  decide +kernel

/-- Hypotheses of Barriers: a first arrival of two, the last one, a wait that ends, and one that goes on. -/
theorem test_wit_barriers : let one := { base with team := { team0 with barriers := List.replicate 15 .initial ++ [⟨7, 2, 1, 2⟩] } }
    let w := { one with grp := { grp0 with wait := .barrier 15 6 } }
    vecPending true true base = none ∧ NoComm [.store, .atomic] base ∧ 15 < base.team.barriers.length ∧ AtPoint base ∧ base.grid.det = false ∧
    (∀ i ∈ [Instr.bara 3 15 2, .bar 15 2, .barw 15 4], Ready i base ∧ Ready i one) ∧
    (barrierOf one 15).arrivals + 1 = (barrierOf one 15).need ∧ ¬ ((barrierOf base 15).arrivals + 1 = 2) ∧
    (w.grp.wait = .barrier 15 6 ∧ w.grp.Quiet ∧ (barrierOf w 15).phase ≠ 6) ∧
    reads (.bara 3 15 2) base (fun t => (barrierOf t 15).arrivals = 1 && (barrierOf t 15).phase = 0 && t.grp.pc = 0x1004) = true ∧
    reads (.bara 3 15 32) one (fun t => (barrierOf t 15).arrivals = 0 && (barrierOf t 15).phase = 8 && getS t.grp 3 = 7) = true ∧
    reads (.bar 15 2) base (fun t => t.grp.wait = .barrier 15 0 && t.grp.pc = 0x1000) = true ∧ reads (.bar 15 2) w (fun t => t.grp.pc = 0x1004) = true ∧
    reads (.barw 15 4) one (fun t => t.grp.pc = 0x1004) = true ∧ reads (.barw 15 4) base (fun t => t.grp.wait = .stall .bar) = true := by
  decide +kernel

/-- Hypotheses of Monitors: no monitor for home 8, a differing word, an equal word. -/
theorem test_wit_monitors : let s := { sr [(4, 0x100), (6, BitVec.ofNat 64 (8 * 2 ^ 53))] with grp := { (sr [(4, 0x100), (6, BitVec.ofNat 64 (8 * 2 ^ 53))]).grp with bwto := 2 } }
    s.grid.det = false ∧ (∀ i ∈ [Instr.waita 4 5, .waita 6 5, .wakea 4], Ready i s) ∧ (getS s.grp 4).toNat % 8 = 0 ∧ (getS s.grp 4).toNat / 2 ^ 53 < 8 ∧ sleepers s < 32 ∧
    (access s (envOf s) .ls (getS s.grp 4) 8 true false false).fine = true ∧ vecPending false true s = none ∧
    nowBlocked s (.sload 0 8 ⟨0, getS s.grp 4, at0 0x100⟩) false = none ∧ (List.range 8).any (fun w => watchHits s w true false (getS s.grp 4) 8) = false ∧
    reads (.waita 6 5) s (fun t => t.grp.cc = ⟨false, false, true, false⟩ && t.grp.pc = 0x1004) = true ∧
    reads (.waita 4 4) s (fun t => t.grp.cc = ⟨false, false, false, false⟩ && t.grp.pc = 0x1004) = true ∧
    reads (.waita 4 5) s (fun t => t.grp.wait = .monitor (at0 0x100) 0 false) = true := by
  decide +kernel

theorem test_wit_monitor_ends : let m := fun w now => { withG (fun g => { g with bwto := 2, wait := .monitor (at0 0x100) 0 w }) with now := now }
    let s := { sr [(4, 0x13F)] with groups := [{ sib with wait := .monitor (at0 0x100) 0 false }] }
    (m true 0).grp.Quiet ∧ reads (.waita 4 5) (m true 0) (fun t => t.grp.cc = ⟨true, false, false, false⟩ && t.grp.pc = 0x1004) = true ∧
    (m false 4000).grp.bwto.toNat * 2000 ≤ (m false 4000).now - 0 ∧
    reads (.waitaTimeout ⟨1, 0, 0⟩) (m false 4000) (fun t => t.grp.cc = ⟨false, false, false, true⟩ && t.grp.pc = 0x1004) = true ∧
    reads (.waitaTimeout ⟨1, 0, 0⟩) (m false 3999) (fun t => t.grp.pc = 0x1000) = true ∧
    Ready (.wakea 4) s ∧ (access s (envOf s) .ls 0x13F 1 false false false).fine = true ∧ overlaps (at0 0x13F).line 1 (at0 0x100).line 64 = true ∧
    reads (.wakea 4) s (fun t => t.groups.map (fun g => g.wait) = [.monitor (at0 0x100) 0 true]) = true ∧
    (let u := sr [(4, BitVec.ofNat 64 (12 * 2 ^ 53))]
     Ready (.wakea 4) u ∧ (access u (envOf u) .ls (getS u.grp 4) 1 false false false).fine = false ∧ access u (envOf u) .ls (getS u.grp 4) 1 false false false ≠ .uncorr ∧
     reads (.wakea 4) u (fun t => t.grp.pc = 0x1004) = true) := by
  decide +kernel

/-- Monitors, homes 12 to 14 and past 15, and the spindle's 32 entries in use. -/
theorem test_wit_monitor_bounds : (∀ h ∈ [12, 13, 14, 16], let s := sr [(4, BitVec.ofNat 64 (h * 2 ^ 53))]
      Ready (.waita 4 5) s ∧ HasHandler s.grp ∧ traps (.waita 4 5) s 0x11 (BitVec.ofNat 64 (h * 2 ^ 53)) 0x1000 = true) ∧
    (let s := { sr [(4, 0x100)] with groups := (List.range 32).map fun i => { sib with key := ⟨1, 0, i + 1⟩, wait := .monitor (at0 0x40) 0 false } }
     Ready (.waita 4 5) s ∧ 32 ≤ sleepers s ∧ reads (.waita 4 5) s (fun t => t.grp.cc = ⟨false, false, true, false⟩ && t.grp.pc = 0x1004) = true ∧
      sleepers { s with groups := s.groups.drop 1 } < 32) := by
  decide +kernel

/-- Hypotheses of TrapAndReturn, and its conclusions. -/
theorem test_wit_traps : HasHandler base.grp ∧ (∀ i ∈ [Instr.trap 127, .brk 0], Ready i base) ∧ ((dbgOf base 0).brkStop && (dbgOf base 0).part = 0) = false ∧
    traps (.trap 127) base 0x22 127 0x1004 = true ∧ traps (.brk 0) base 0x20 0 0x1004 = true ∧
    (let s := { base with dbg := [{ Dbg.initial 0 with ctl := 0x400 }] }
     Ready (.brk 1) s ∧ ((dbgOf s 0).brkStop && (dbgOf s 0).part = 0) = true ∧ reads (.brk 1) s (fun t => t.grp.stopped && t.grp.pc = 0x1004 && t.grp.priv = false) = true) := by
  decide +kernel

theorem test_wit_return : let s := withG fun g => { g with priv := true, intrap := true, replay := true, unf := 0xF0, epc := 0x1010 }
    Ready .eret s ∧ s.grp.heldTrap = none ∧ s.grp.hitsTrap = none ∧
    reads .eret s (fun t => t.grp.pc = 0x1010 && t.grp.replayMask = some 0xF0 && !t.grp.priv && !t.grp.intrap && !t.grp.replay) = true ∧
    Ready .eret privBase ∧ HasHandler privBase.grp ∧ traps .eret privBase 0x01 0x00600000 0x1000 = true := by
  decide +kernel

/-- Hypotheses of Privileged. -/
theorem test_wit_privileged : base.grp.Quiet ∧ base.grp.decoded = none ∧ base.grp.priv = false ∧ privBase.grp.priv = true ∧ encode (.haltg 3) = some 0x02200180 ∧
    (∀ i ∈ [Instr.eret, .haltg 3, .haltgRes 3, .smts 21 3, .smts 22 3, .smfs 3 20, .smts 26 3], decodeFault (checksOf i) privBase = none ∧
      reads i base (fun t => t.grp.tcause = 0x02 && t.grp.pc = 0x2000) = true) := by
  decide +kernel

/-- Hypotheses of TeamEnds: no handler, and a trap inside the handler, with a dump armed. -/
theorem test_wit_team_ends : let arm := fun (g : Group) => { base with grp := g, groups := [sib], parts := [{ Partition.initial 0 with dmpEn := true }] }
    (∀ s ∈ [arm { grp0 with tvec := 0 }, arm { grp0 with intrap := true }], Ready (.trap 1) s ∧ (s.grp.tvec = 0 ∨ s.grp.intrap = true) ∧ s.team.key = tkeyOf s.grp.key ∧
      (partOf s 0).dmpEn = true ∧ reads (.trap 1) s (fun t => t.team.phase = .ended && t.team.dumping && !(partOf t 0).dmpEn && t.team.endRec = some ⟨0, 0x22, 1, 0x1004, 0⟩ &&
        (allGroups t).all fun g => !mayIssue t g) = true) := by
  decide +kernel

/-- Hypotheses of ExitAndRetire: EXIT, a deferred error at it, a group that is not its team's last, and the last. -/
theorem test_wit_exit : let s := { withG (fun g => { g with phase := .exiting }) with groups := [{ sib with haltedBy := [0] }] }
    Ready .exit base ∧ base.grp.eccPend = [] ∧ reads .exit base (fun t => t.grp.phase = .exiting && t.grp.pc = 0x1000) = true ∧ s.grp.phase = .exiting ∧ s.grp.held = none ∧ s.grp.heldTrap = none ∧
    s.grp.cntL = 0 ∧ s.grp.cntS = 0 ∧ s.grp.cntC = 0 ∧ s.grp.cntT = 0 ∧ s.grp.batchPend = [] ∧ s.team.latches = [] ∧ s.tensors = [] ∧ s.team.key = tkeyOf s.grp.key ∧ s.team.phase = .running ∧
    donateWaiters s s.grp.key = [] ∧ (∃ g ∈ s.groups, tkeyOf g.key = tkeyOf s.grp.key ∧ g.phase ≠ .retired) ∧ s.grid.id = s.grp.key.launch ∧
    reads (.groupRetire ⟨1, 0, 0⟩) s (fun t => t.grp.phase = .retired && t.grp.alloc = 0 && t.groups.map (fun g => g.haltedBy) = [[]]) = true := by
  decide +kernel

theorem test_wit_exit_ecc : let s := withG fun g => { g with eccPend := [⟨0x40, .tile, [2], none, none, none⟩] }
    Ready .exit s ∧ HasHandler s.grp ∧ reads .exit s (fun t => t.grp.pc = 0x2000 && t.grp.tcause = 0x70 && t.grp.tval = 0x40 && t.grp.epc = 0x1000 && t.grp.eccPend = []) = true := by
  decide +kernel

theorem test_wit_last_retires : let s := withG fun g => { g with phase := .exiting }
    s.groups = [] ∧ s.grp.eccPend = [] ∧ s.team.latches = [] ∧ s.tensors = [] ∧ donateWaiters s s.grp.key = [] ∧ s.grid.id = s.grp.key.launch ∧ s.grid.id ≠ 0 ∧
    reads (.groupRetire ⟨1, 0, 0⟩) s (fun t => t.grp.phase = .retired && t.team.phase = .gone && t.grid.pages.map (fun p => p.st) = [.done]) = true := by
  decide +kernel

/-- The last group retires, and a tier move of the team is in flight: the group retires, the team is not complete (R204). -/
theorem test_wit_retires_behind_move :
    let m : Tensor := ⟨0, 5, 32, 0, some (0, 0x4000), some 0x8000, none, false, true, false, .moving, 0, 8, 0, 0, false, [⟨1, 0, 0⟩], [], [], [], [], false⟩
    let s := { withG (fun g => { g with phase := .exiting }) with tensors := [m] }
    s.grp.batchPend.all (fun p => p.2 = 0) = true ∧ tierBusy s s.team.key = true ∧
    reads (.groupRetire ⟨1, 0, 0⟩) s (fun t => t.grp.phase = .retired && t.grp.alloc = 0 && t.team.phase = .running && t.grid.pages.map (fun p => p.st) = [.running]) = true := by
  decide +kernel

/-- Hypotheses of HaltResume: one target, an index that names none, every other group, a target that holds the issuer halted. -/
theorem test_wit_halt : let s := { base with grp := { grp0 with priv := true, sregs := [(4, 1), (5, 33), (6, 32)] }, groups := [sib] }
    AtPoint s ∧ s.team.key = tkeyOf s.grp.key ∧ (s.groups.map fun g => g.key).Nodup ∧ (∀ i ∈ [Instr.haltg 4, .haltgRes 4, .haltg 5, .haltg 3], Ready i s) ∧ s.groups = [sib] ∧ sib.key = { s.grp.key with idx := 1 } ∧ s.grp.haltedBy = [] ∧
    reads (.haltg 4) s (fun t => t.groups.map (fun g => g.haltedBy) = [[0]] && t.grp.cc = ⟨true, false, false, false⟩) = true ∧
    reads (.haltg 5) s (fun t => t.grp.cc = ⟨false, false, true, false⟩ && t.groups = [sib]) = true ∧ reads (.haltg 3) s (fun t => t.grp.cc = ⟨false, false, true, false⟩) = true ∧
    reads (.haltgRes 4) { s with groups := [{ sib with haltedBy := [0] }] } (fun t => t.groups = [sib]) = true ∧
    reads (.haltgRes 5) s (fun t => t.grp.cc = ⟨false, false, true, false⟩) = true ∧ reads (.haltg 6) s (fun t => t.groups.map (fun g => g.haltedBy) = [[0]]) = true := by
  decide +kernel

theorem test_wit_halt_back : let a := { sib with priv := true }
    let s := { base with grp := { grp0 with key := ⟨1, 0, 1⟩, priv := true, haltedBy := [0], sregs := [(4, 0)] }, groups := [{ a with key := ⟨1, 0, 0⟩ }] }
    Ready (.haltg 4) s ∧ s.team.key = tkeyOf s.grp.key ∧ (0 : Nat) ∈ s.grp.haltedBy ∧
    reads (.haltg 4) s (fun t => t.grp.cc = ⟨false, false, true, false⟩ && t.groups = s.groups) = true := by
  decide +kernel

/-- Hypotheses of Donate: no partner, a partner that has not come, the transfer. -/
theorem test_wit_donate : let s := { base with groups := [{ sib with alloc := 1, wait := .donate false 0 7 }] }
    base.grid.det = false ∧ base.groups = [] ∧ (∀ i ∈ [Instr.donate 0 1 7, .donate 1 1 1], Ready i base ∧ reads i base (fun t => t.grp.cc = ⟨false, false, true, false⟩) = true) ∧
    Ready (.donate 0 1 7) s ∧ (7 : Nat) < s.grp.alloc ∧ s.grp.cntL = 0 ∧ mwf s.grp.vregs ∧
    reads (.donate 0 1 7) { base with groups := [sib] } (fun t => t.grp.wait = .donate true 1 7) = true ∧
    reads (.donate 0 1 7) { base with groups := [{ sib with phase := .exiting }] } (fun t => t.grp.wait = .donate true 1 7) = true := by
  decide +kernel

theorem test_donate_moves : let s := { withG (fun g => { g with alloc := 3, vregs := [(2 * 512 + 5, 9)] }) with groups := [{ sib with alloc := 2, wait := .donate false 0 1 }] }
    reads (.donate 0 1 1) s (fun t => t.grp.alloc = 2 && t.groups.map (fun g => g.alloc) = [3] && t.groups.map (fun g => mget g.vregs (2 * 512 + 5)) = [9] &&
      t.grp.pc = 0x1004 && t.groups.map (fun g => g.pc) = [0x1004] && t.groups.map (fun g => g.wait) = [.none]) = true := by
  decide +kernel

/-- Hypotheses of DeterministicWaits: another group with a lower clock holds the points back. -/
theorem test_wit_det : let s := { base with grid := { grid0 with det := true }, groups := [{ sib with key := ⟨1, 0, 1⟩ }], grp := { grp0 with clk := 5 } }
    let c := { s with grp := { grp0 with clk := 4096 } }
    s.grid.det = true ∧ syncPoint s = false ∧ (ownOps s).all (fun o => !o.acq) = true ∧ commPoint c = false ∧
    (∀ i ∈ [Instr.bar 3 4, .bara 1 3 4, .barw 3 1, .waita 1 2, .wakea 1, .donate 0 1 1, .pstatr 1 2, .bwait 1 2, .btry 1 2], Ready i s ∧
      reads i s (fun t => t.grp.wait = .stall .det && t.grp.pc = 0x1000) = true) ∧
    (∀ i ∈ [Instr.qinit 3 4, .qpop 1 3, .qpopt 1 3, .qallow 3 4, .osend 1 2 3, .usend 1 2 3, .trroot 1 2 0, .trdesc 1 2, .trback 1 2, .trreuse 1 2, .trfree 1 1, .trstat 1 2 4],
      Ready i c ∧ reads i c (fun t => t.grp.wait = .stall .det) = true) := by
  decide +kernel

theorem test_wit_det_halt : let s := { base with grid := { grid0 with det := true }, groups := [sib], grp := { grp0 with clk := 5, priv := true } }
    syncPoint s = false ∧ (∀ i ∈ [Instr.haltg 1, .haltgRes 1], Ready i s ∧ reads i s (fun t => t.grp.wait = .stall .det) = true) := by
  decide +kernel

theorem test_wit_det_ends : let w := { base with grid := { grid0 with det := true }, grp := { grp0 with wait := .stall .det } }
    let o : Op := { op0 (.store 4 [(acc0 0x100, 0xAB)] 0) with quantum := some 0 }
    let s := { base with grid := { grid0 with det := true }, ops := [o], grp := { grp0 with clk := 4096, cntS := 1 } }
    syncPoint (checkout w.grp.key w) = true ∧ reads (.syncOpEffect ⟨1, 0, 0⟩) w (fun t => t.grp.wait = .none) = true ∧ quantReached s s.grp.key 0 = true ∧ Issuer s ∧
    reads (.quantumEnd 1) s (fun t => t.ops = [] && mget t.mem 0x100 = 0xAB && t.grp.cntS = 0 && t.grid.progress = 0) = true := by
  decide +kernel

/-- A copy's operands: a scratchpad address, an address of home 0, a length, a parameter block, a length of 0. -/
def cs : State := { sr [(1, w0), (2, 0x100), (3, 16), (4, w0 + 0x40), (5, 0)] with team := { team0 with scratch := [(0x40, 9), (0x44, 1)] } }

/-- The reads of a copy's parameter block. -/
def cq : State × List Got := gather (fun s => threadAcc s (envOf s) .ls 8 true false) false 8 [(0, w0 + 0x40), (0, w0 + 0x48)] cs

/-- Hypotheses of Copies: every copy's operands pass (CPYM's and CPYD's destinations in the scratchpad), and a parameter block that can be read. -/
theorem test_wit_copy_operands : cs.grp.cntC ≠ 63 ∧ ([(w0, 1, true), (0x100, 1, false), (w0, 8, true), (0x100, 8, false)].all fun p => (operandFault cs p.1 p.2.1 p.2.2 none).fine) = true ∧
    (operandFault cs w0 1 true (some fun n => n = 0)).fine = true ∧ (operandFault cs w0 2 true (some fun n => n ≤ 0x18 || n = 0x20)).fine = true ∧
    (operandFault cs w0 1 false (some fun n => n = 0 || n = 0x20)).fine = true := by
  decide +kernel

theorem test_wit_copy_block : cq.2.all Got.fine = true ∧ nowBlocked cs (.load 0 8 false (fineAccs cq.2)) false = none := by decide +kernel

theorem test_wit_copy_ready : ∀ i ∈ [Instr.cpy 1 2 3, .cpy 1 2 5, .cpym 1 2 4, .cpyd 1 2 3, .cpyc 1 1 4, .cpyg 1 2 4, .cpys 1 2 4], Ready i cs := by decide +kernel

theorem test_copy_issue : reads (.cpy 1 2 5) cs (fun t => t.grp.pc = 0x1004 && t.grp.cntC = 0 && t.ops = []) = true ∧
    reads (.cpyd 1 2 3) cs (fun t => t.grp.cntC = 1 && t.ops.map (fun o => o.kind) = [.copy (.cpyd w0 0x100 16)] && t.mem = cs.mem) = true ∧
    reads (.cpys 1 2 4) cs (fun t => t.ops.map (fun o => o.kind) = [.copy (.cpys w0 0x100 (w0 + 0x40) 0x100000009)]) = true := by
  decide +kernel

/-- The machine with a copy outstanding. -/
def copying (j : CopyJob) : State := { withOp (op0 (.copy j)) with team := { team0 with scratch := [(0, 5), (1, 6)] } }

/-- Hypotheses of the copies' completions: one that ends well, one whose parameter block is refused, one to an address that does not exist. -/
theorem test_wit_copy_effect : (∀ j ∈ [CopyJob.cpy 0x8000 w0 1, .cpys 0x8000 w0 0x40 0, .cpy (0x1FE0 * 2 ^ 48) w0 1], readyOp (copying j) 5 = some (op0 (.copy j)) ∧
      awaitsRecord (copying j) (op0 (.copy j)) = false ∧ (copying j).grp.phase = .running ∧ (copying j).grp.wait = .none) := by
  decide +kernel

theorem test_copy_effect : reads (.copyCompletion 5) (copying (.cpy 0x8000 w0 1)) (fun t => mget t.mem 0x8000 = 5 && mget t.mem 0x8001 = 0 && t.grp.cntC = 0 && t.ops = [] && t.grp.copyCount = 0) = true ∧
    reads (.copyCompletion 5) (copying (.cpys 0x8000 w0 0x40 0)) (fun t => t.mem = base.mem && t.grp.copyCount = 1 && t.grp.copyCode = 4 && t.grp.copyWhere = 0x40 && t.grp.cntC = 0) = true ∧
    reads (.copyCompletion 5) (copying (.cpy (0x1FE0 * 2 ^ 48) w0 1)) (fun t => t.mem = base.mem && t.grp.copyCount = 1 && t.grp.copyCode = 3 && t.grp.copyWhere = 0x1FE0 * 2 ^ 48) = true := by
  decide +kernel

theorem test_wit_copy_access : access cs (envOf cs) .copy (w0 + BitVec.ofNat 64 0) 1 true false true = .ok ⟨.scratch ⟨1, 0⟩, 0, 0⟩ false [] ∧
    access cs (envOf cs) .copy (w0 + 0x50 + BitVec.ofNat 64 0) 1 false true true = .ok ⟨.scratch ⟨1, 0⟩, 0x50, 0⟩ false [] := by
  decide +kernel

/-- The machine with a full and empty allowance: two entries in each queue, none allowed. -/
def fullQ : State := { base with team := { team0 with queues := List.replicate 16 ⟨true, 0, [7, 8], [], []⟩ } }

/-- Hypotheses of Queues. -/
theorem test_wit_queues : AtCommPoint base ∧ base.team.queues.length = 16 ∧
    (∀ i ∈ [Instr.qinit 2 5, .qallow 2 60, .qpush 2 4, .qpusht 2 3, .qpop 3 2, .qpopt 3 2], Ready i base ∧ Ready i fullQ) ∧
    1 ≤ (queueOf base 2).allowance ∧ (queueOf base 2).entries.length < 63 ∧ firstInLine base .queue (lineKeys base (queueOf base 2).pushers) = true ∧
    vecPending true true base = none ∧ pathPending 2 base = none ∧
    (queueOf fullQ 2).entries = [7, 8] ∧ firstInLine fullQ .queue (lineKeys fullQ (queueOf fullQ 2).poppers) = true ∧ (queueOf base 2).entries = [] := by
  decide +kernel

theorem test_queues : reads (.qinit 2 5) fullQ (fun t => (queueOf t 2).entries = [] && (queueOf t 2).allowance = 5 && (queueOf t 3).entries = [7, 8]) = true ∧
    reads (.qallow 2 60) base (fun t => (queueOf t 2).allowance = 63) = true ∧
    reads (.qpush 2 4) (sr [(4, 9)]) (fun t => (queueOf t 2).allowance = 3 && (queueOf t 2).entries = [9]) = true ∧
    reads (.qpush 2 4) fullQ (fun t => t.grp.wait = .stall .queue) = true ∧
    reads (.qpop 3 2) fullQ (fun t => getS t.grp 3 = 7 && (queueOf t 2).entries = [8] && (queueOf t 2).allowance = 0) = true ∧
    reads (.qpopt 3 2) base (fun t => t.grp.wait = .stall .queue) = true := by
  decide +kernel

/-- Queues: an outstanding store or tile operation holds a push back, with reason QUEUE (R168). -/
theorem test_wit_queue_order : let v := withOp (op0 (.store 4 [(acc0 0x100, 1)] 0))
    let m := withOp (op0 (.tld 0 0x4020 []))
    AtCommPoint v ∧ vecPending true true v ≠ none ∧ AtCommPoint m ∧ vecPending true true m = none ∧ pathPending 2 m ≠ none ∧
    (∀ i ∈ [Instr.qpush 2 4, .qpusht 2 3], Ready i v ∧ reads i v (fun t => t.grp.wait = .stall .queue && t.grp.pc = 0x1000) = true) ∧
    Ready (.qpusht 2 3) m ∧ reads (.qpusht 2 3) m (fun t => t.grp.wait = .stall .queue) = true ∧ reads (.qpush 2 4) m (fun t => t.grp.pc = 0x1004) = true := by
  decide +kernel

/-- A tensor of partition 0 held on the board, with 32 bytes of HBM of home 0. -/
def tens0 : Tensor := ⟨0, 5, 32, 0, some (0, 0x4000), some 0x8000, none, false, true, false, .resident, 0, 8, 0, 0, false, [], [], [], [], [], false⟩

/-- The machine with that tensor, its handle in s4 and a home in s5. -/
def tens (t : Tensor) (home : DWord) : State := { sr [(4, 5), (5, home)] with tensors := [t] }

/-- The code a tensor request gives. -/
def gives (i : Instr) (s : State) (code : DWord) : Bool := reads i s fun t => getS t.grp 3 = code && t.grp.pc = 0x1004

/-- Hypotheses of Tensors: every clause, in a tensor of its own. -/
theorem test_wit_tensors : ∀ i ∈ [Instr.tnmov 3 4 5, .tnpin 3 4, .tnunpin 3 4, .tnevict 3 4, .tnwait 3 4, .tnstat 3 4], Ready i (tens tens0 0) ∧ (ownOps (tens tens0 0)).all (fun o => !o.acq) = true ∧
    gives i (sr [(4, 5)]) 6 = true := by
  decide +kernel

theorem test_tensor_pins : reads (.tnpin 3 4) (tens tens0 0) (fun t => t.tensors = [{ tens0 with pins := 1 }] && t.grp.cc = ⟨true, false, false, false⟩) = true ∧
    gives (.tnpin 3 4) (tens { tens0 with pins := 65535 } 0) 7 = true ∧ gives (.tnunpin 3 4) (tens tens0 0) 8 = true ∧
    reads (.tnunpin 3 4) (tens { tens0 with pins := 1, defer := true } 0) (fun t => t.tensors = [{ tens0 with st := .evicting }]) = true ∧
    reads (.tnunpin 3 4) (tens { tens0 with pins := 2, defer := true } 0) (fun t => t.tensors = [{ tens0 with pins := 1, defer := true }]) = true ∧
    gives (.tnwait 3 4) (tens { tens0 with last := 4 } 0) 4 = true ∧
    reads (.tnwait 3 4) (tens { tens0 with st := .moving } 0) (fun t => t.grp.wait = .stall .tensor && t.grp.set = .suspended && t.tensors.map (fun t => t.watchers) = [[⟨1, 0, 0⟩]]) = true ∧
    gives (.tnstat 3 4) (tens { tens0 with st := .moving, pins := 3, last := 2 } 0) 0x0000000302010800 = true := by
  decide +kernel

theorem test_wit_tensor_moves : tens0.hasTier 9 = false ∧ tens0.held 8 = true ∧ tens0.hasTier 0 = true ∧ tens0.held 0 = false ∧ tens0.waiters = [] ∧
    gives (.tnmov 3 4 5) (tens tens0 9) 9 = true ∧ gives (.tnmov 3 4 5) (tens tens0 8) 0 = true := by
  decide +kernel

/-- The same tensor, in HBM alone. -/
def tensHbm : Tensor := { tens0 with board := false, hbm := true, source := 0 }

theorem test_tensor_moves : reads (.tnmov 3 4 5) (tens tensHbm 8) (fun u => getS u.grp 3 = 1 && u.tensors.map (fun t => (t.st, t.target, t.source)) = [(.moving, 8, 0)]) = true ∧
    gives (.tnevict 3 4) (tens { tensHbm with boardAt := none } 0) 9 = true ∧ gives (.tnmov 3 4 5) (tens { tens0 with st := .moving, target := 8 } 8) 2 = true ∧
    reads (.tnmov 3 4 5) (tens { tens0 with st := .evicting } 8) (fun t => t.grp.wait = .stall .tensor && t.tensors.map (fun t => t.waiters) = [[.group ⟨1, 0, 0⟩]]) = true ∧
    reads (.tnevict 3 4) (tens { tens0 with pins := 1 } 0) (fun t => getS t.grp 3 = 3 && t.tensors = [{ tens0 with pins := 1, defer := true }]) = true ∧
    reads (.tnevict 3 4) (tens tens0 0) (fun t => getS t.grp 3 = 0 && t.tensors.map (fun t => (t.st, t.movers)) = [(.evicting, [⟨1, 0, 0⟩])]) = true := by
  decide +kernel

/-- No room: the tensor of another partition whose quota is 0. -/
theorem test_wit_tensor_room : hbmRoom (tens tens0 0) tens0 = true ∧
    gives (.tnmov 3 4 5) { tens { tens0 with part := 1 } 0 with grid := { grid0 with part := 1 } } 4 = true ∧
    hbmRoom { tens { tens0 with part := 1 } 0 with grid := { grid0 with part := 1 } } { tens0 with part := 1 } = false := by
  decide +kernel

/-- Tags of partition 0: 1, a child 2 of it, and a chain that is full. -/
def tags0 : List Tag := [⟨1, 0, 0, 0, 1, 0, false⟩, ⟨2, 0, 0, 1, 2, 0, false⟩, ⟨4, 0, 0, 2, 3, 0, false⟩, ⟨5, 0, 0, 4, 4, 0, false⟩]

/-- The machine with those tags and their numbers in registers. -/
def ctxS : State := { sr [(4, 5), (5, 1), (6, 9), (8, 2)] with tags := tags0 }

/-- The same for partition 1, whose quota is spent. -/
def ctxFull : State :=
  { ctxS with grid := { grid0 with part := 1 }, tags := tags0.map fun t => { t with part := 1 }, parts := [{ Partition.initial 1 with tagQuota := 4 }] }

/-- Hypotheses of ContextAllocate: a free tag, a full partition, a bad parent. -/
theorem test_wit_ctx_ready : (∀ i ∈ [Instr.cxnew 3 5, .cxtnew 3 5, .cxnew 3 4, .cxtnew 3 6], Ready i ctxS ∧ Ready i ctxFull) ∧ HasHandler ctxS.grp := by
  decide +kernel

theorem test_wit_ctx_allocate : tagLive ctxS 0 1 = true ∧ tagDepth ctxS 1 ≠ 4 ∧ tagRoom ctxS 0 = true ∧
    (∀ m, 1 ≤ m → m < 3 → ∃ t ∈ ctxS.tags, t.tag.toNat = m) ∧ (∀ t ∈ ctxS.tags, t.tag.toNat ≠ 3) ∧ firstForTag ctxS = true ∧ tagDepth ctxS 5 = 4 ∧
    tagLive ctxFull 1 1 = true ∧ tagRoom ctxFull 1 = false := by
  refine ⟨by decide +kernel, by decide +kernel, by decide +kernel, ?_, by decide +kernel, by decide +kernel, by decide +kernel, by decide +kernel, by decide +kernel⟩
  intro m h1 h2
  have : m = 1 ∨ m = 2 := by omega
  rcases this with rfl | rfl <;> decide +kernel

theorem test_ctx_allocate : reads (.cxnew 3 5) ctxS (fun t => getS t.grp 3 = 3 && t.tags = tags0 ++ [⟨3, 0, 0, 1, 2, 0, false⟩]) = true ∧
    reads (.cxtnew 3 5) ctxFull (fun t => getS t.grp 3 = 0 && t.grp.cc = ⟨false, false, true, false⟩ && t.tags = ctxFull.tags) = true ∧
    reads (.cxnew 3 5) ctxFull (fun t => t.grp.wait = .cxnew && t.ctxWaiters = [⟨1, 0, 0⟩]) = true ∧
    reads (.cxtnew 3 6) ctxS (fun t => getS t.grp 3 = 0 && t.grp.cc = ⟨false, false, false, true⟩) = true ∧
    traps (.cxnew 3 4) ctxS 0x15 0x10005 0x1000 = true ∧ traps (.cxnew 3 4) { ctxS with grid := { grid0 with part := 1 } } 0x15 0x10005 0x1000 = true ∧ traps (.cxnew 3 6) ctxS 0x15 9 0x1000 = true := by
  decide +kernel

/-- CXNEW has waited, and its attempt succeeds though its parent has retired meanwhile: it tests the parent once (R208). -/
theorem test_wit_ctx_retry : let s := { ctxS with grp := { ctxS.grp with wait := .cxnew }, ctxWaiters := [⟨1, 0, 0⟩], tags := tags0.map fun t => { t with retiring := t.tag = 1 } }
    s.grp.phase = .running ∧ s.grp.Quiet ∧ tagRoom s 0 = true ∧ firstForTag s = true ∧
    reads (.cxnew 3 5) s (fun t => getS t.grp 3 = 3 && t.grp.wait = .none && t.ctxWaiters = [] && t.grp.pc = 0x1004) = true := by
  decide +kernel

/-- The machine whose group holds the last tag. -/
def ctxOwn : State := { ctxS with grp := { ctxS.grp with ctx := 5 }, tags := tags0.map fun t => if t.tag = 5 then { t with holders := 1 } else t }

/-- Hypotheses of ContextRetireSetQuery. -/
theorem test_wit_ctx_retire : ∀ i ∈ [Instr.cxret 4, .cxret 6, .cxret 7, .cxset 4, .cxset 6, .cxget 3 4, .cxget 3 6, .cxpar 3 4, .cxpar 3 7, .cxpar 3 8], Ready i ctxS ∧ Ready i ctxOwn := by
  decide +kernel

theorem test_ctx_retire : (∀ c ∈ ctxS.tags, c.parent = 5 → c.retiring = true) ∧
    reads (.cxret 4) ctxS (fun t => t.grp.cc = ⟨true, false, false, false⟩ && (findTag t 5).any fun x => x.retiring) = true ∧
    reads (.cxret 4) ctxOwn (fun t => t.grp.ctx = 4 && (findTag t 4).any fun x => x.holders = 1) = true ∧
    reads (.cxret 4) { ctxOwn with grp := { ctxOwn.grp with cntS := 1 } } (fun t => t.grp.wait = .cxret && t.tags = ctxOwn.tags) = true ∧
    reads (.cxret 5) { ctxOwn with grp := { ctxOwn.grp with wait := .cxret } } (fun t => t.grp.wait = .none && t.grp.cc = ⟨false, false, true, false⟩ && t.tags = ctxOwn.tags) = true ∧
    reads (.cxret 6) ctxS (fun t => t.grp.cc = ⟨false, false, true, false⟩) = true ∧
    reads (.cxset 4) ctxS (fun t => t.grp.ctx = 5 && (findTag t 5).any fun x => x.holders = 1) = true ∧ traps (.cxset 6) ctxS 0x15 9 0x1000 = true := by
  decide +kernel

/-- CXRET answers C for a tag with a live child, and for one that others hold, also where the wait has brought them about (R209, log 41). -/
theorem test_wit_ctx_refused : let held := { ctxS with tags := tags0.map fun t => if t.tag = 5 then { t with holders := 1 } else t }
    (∃ c ∈ ctxS.tags, c.parent = 2 ∧ c.retiring = false) ∧ Ready (.cxret 8) ctxS ∧ Ready (.cxret 4) held ∧
    reads (.cxret 8) ctxS (fun t => t.grp.cc = ⟨false, false, true, false⟩ && t.tags = tags0) = true ∧
    reads (.cxret 4) held (fun t => t.grp.cc = ⟨false, false, true, false⟩ && t.tags = held.tags) = true ∧
    reads (.cxret 4) { held with grp := { ctxS.grp with wait := .cxret } } (fun t => t.grp.wait = .none && t.grp.cc = ⟨false, false, true, false⟩ && t.tags = held.tags) = true ∧
    reads (.cxret 4) { ctxOwn with grp := { ctxOwn.grp with wait := .cxret } } (fun t => t.grp.ctx = 4 && (findTag t 5).any fun x => x.retiring && x.holders = 0) = true := by
  decide +kernel

/-- R212: CXPAR at depths 1, 3 and 4, of a RETIRING tag and of one that is not there. -/
theorem test_ctx_parents : (∀ i ∈ [Instr.cxpar 3 5, .cxpar 3 4, .cxpar 3 8], Ready i ctxS) ∧ writes (.cxpar 3 5) ctxS 3 0 = true ∧
    reads (.cxpar 3 5) ctxS (fun t => t.grp.cc = ⟨true, false, false, false⟩) = true ∧
    writes (.cxpar 3 4) { ctxS with grp := { ctxS.grp with sregs := [(4, 4)] } } 3 0x0000000000010002 = true ∧
    (let s := { ctxS with tags := tags0.map fun t => { t with retiring := t.tag = 5 } }
     Ready (.cxpar 3 4) s ∧ reads (.cxpar 3 4) s (fun t => getS t.grp 3 = 0 && t.grp.cc = ⟨false, false, true, false⟩) = true) := by
  decide +kernel

theorem test_ctx_query : writes (.cxget 3 4) ctxOwn 3 0x0001000000140004 = true ∧ writes (.cxget 3 6) ctxS 3 0 = true ∧ writes (.cxpar 3 7) ctxS 3 0 = true ∧
    findTag ctxS 0 = none ∧ (findTag ctxS 2).any (fun t => t.parent = 1) = true ∧ writes (.cxpar 3 8) ctxS 3 1 = true ∧ writes (.cxpar 3 4) ctxS 3 0x0000000100020004 = true := by
  decide +kernel

/-- Pages: the group's own, one done, one failed, one that runs, one that waits. -/
def pagesS : State :=
  { sr [(4, 9), (5, 0), (6, 1), (7, 2), (8, 3), (9, 4)] with
    grid := { grid0 with pages := [(.running, 0x10000), (.done, 0x12345), (.failed, 0x11), (.running, 0x10000), (.waiting, 0)].map fun p => ⟨0x77, 0, p.1, p.2, none, none, (0, 0)⟩ } }

/-- Hypotheses of PageStatus: no such page, the group's own, one that runs, one done, one failed, one waiting. -/
theorem test_wit_page_status : AtPoint pagesS ∧ CommAtMost 0 pagesS ∧ pagesS.grp.set ≠ .suspended ∧ (ownOps pagesS).all (fun o => !o.acq) = true ∧ (∀ i ∈ [Instr.pstatr 3 4, .bwait 3 4, .btry 3 4, .bwait 3 8, .pfree], Ready i pagesS) := by
  decide +kernel

theorem test_page_status : reads (.pstatr 3 4) pagesS (fun t => getS t.grp 3 = 0 && t.grp.cc = ⟨false, false, false, true⟩) = true ∧
    reads (.btry 3 5) pagesS (fun t => getS t.grp 3 = 3 && t.grp.cc = ⟨false, false, true, true⟩) = true ∧
    reads (.pstatr 3 6) pagesS (fun t => getS t.grp 3 = 0x0000007700092345 && t.grp.cc = ⟨true, false, false, false⟩) = true ∧
    reads (.bwait 3 6) pagesS (fun t => getS t.grp 3 = 0 && t.grp.cc = ⟨true, false, false, false⟩) = true ∧
    reads (.bwait 3 7) pagesS (fun t => getS t.grp 3 = 1 && t.grp.cc = ⟨false, false, true, false⟩) = true ∧
    reads (.btry 3 8) pagesS (fun t => getS t.grp 3 = 4 && t.grp.cc = ⟨false, true, false, false⟩) = true := by
  decide +kernel

theorem test_page_wait : reads (.bwait 3 8) pagesS (fun t => t.grp.wait = .bwait 3 0 false && t.grp.set = .active) = true ∧
    reads (.bwait 3 9) pagesS (fun t => t.grp.wait = .bwait 4 0 false && t.grp.set = .suspended) = true ∧
    reads .pfree pagesS (fun t => t.team.slotFreed && t.grp.cc = ⟨true, false, false, false⟩) = true ∧
    reads .pfree { pagesS with team := { team0 with slotFreed := true } } (fun t => t.grp.cc = ⟨false, false, true, false⟩) = true := by
  decide +kernel

/-- A message header in s6 for device `dst`, ring 3, two bytes; the payload in the scratchpad. -/
def sendS (dst : Nat) : State :=
  { sr [(4, w0), (6, BitVec.ofNat 64 (dst + 3 * 2 ^ 8 + 2 * 2 ^ 16)), (7, 0)] with
    team := { team0 with scratch := [(0, 0x11), (1, 0x22)] }
    ports := List.replicate 16 { Port.initial with link := true, st := .live }
    routes := [(9, 4)]
    now := 100 }

/-- Hypotheses of Sends: a bad header, no route, the device itself, a device behind port 2. -/
theorem test_wit_sends : (∀ i ∈ [Instr.osend 3 4 6, .usend 3 4 6, .osend 3 4 7, .usend 3 4 7], Ready i (sendS 9)) ∧ vecPending true true (sendS 9) = none ∧
    liveRoutes (sendS 8) 8 = [] ∧ outPort (sendS 9) 9 .ordered = some (some 2) ∧ outPort (sendS 9) 9 .unordered = some (some 2) ∧ (sendS 0).devId = 0 ∧
    ((gather (rangeAcc true false 1) false 1 ((List.range 2).map fun i => (0, w0 + BitVec.ofNat 64 (1 * i))) (sendS 9)).2.all Got.fine) = true := by
  decide +kernel

theorem test_sends : reads (.osend 3 4 7) (sendS 9) (fun t => getS t.grp 3 = 1 && t.grp.cc = ⟨false, false, false, true⟩ && t.floor = 0) = true ∧
    reads (.usend 3 4 6) (sendS 8) (fun t => getS t.grp 3 = 2 && t.grp.cc = ⟨false, false, true, false⟩) = true ∧
    reads (.osend 3 4 6) (sendS 0) (fun t => getS t.grp 3 = 0 && t.grp.lastSend = 100 && t.floor = 101 && (portOf t 0).seq = 1 &&
      t.holdBuf = [⟨16, ⟨.ordered, 0, 100, 0, 0, 0, 3, [0x11, 0x22]⟩, some ⟨1, 0, 0⟩⟩]) = true ∧
    reads (.usend 3 4 6) (sendS 9) (fun t => t.egress = [.message 2 ⟨.unordered, 9, 0, 0, 2, 0, 3, [0x11, 0x22]⟩] && t.grp.lastSend = 0) = true := by
  decide +kernel

theorem test_ordered_send : reads (.osend 3 4 6) (sendS 9) (fun t => t.grp.lastSend = 100 && t.floor = 101 &&
      (t.outBuf = [⟨16, 2, ⟨.ordered, 9, 100, 0, 2, 0, 3, [0x11, 0x22]⟩, some ⟨1, 0, 0⟩⟩] || t.egress = [.message 2 ⟨.ordered, 9, 100, 0, 2, 0, 3, [0x11, 0x22]⟩])) = true := by
  decide +kernel

/-- Ring 3 of partition 0 with one entry, and ring 4 with none. -/
def ringS : State :=
  { sr [(4, w0), (5, 3), (6, 4), (7, 8), (8, 16), (9, 17)] with
    rings := [⟨3, 0, 0, 0, 2, false, 1, [⟨0x00000000000000640000000009090002, [0x11, 0x22]⟩], []⟩, ⟨4, 0, 0, 0, 2, false, 0, [], []⟩] }

/-- The same with a port that is STALLED. -/
def ringStall : State := { ringS with ports := List.replicate 16 { Port.initial with st := .stalled, w := 5 } }

/-- Hypotheses of Receives. -/
theorem test_wit_receives : (∀ i ∈ [Instr.orecv 3 5 4, .orecv 3 6 4, .orecv 3 7 4, .opeek 3 5, .opeek 3 6, .opeek 3 7, .ostamp 3 0, .owm 3 6, .owm 3 8, .owm 3 9], Ready i ringS ∧ Ready i ringStall) ∧
    (findRing ringS 3).any (fun r => firstReceiver ringS r) = true ∧ findRing ringS 8 = none ∧ ordStalled ringS = false ∧ ordStalled ringStall = true := by
  decide +kernel

theorem test_wit_receive_range : ((gather (rangeAcc false true 1) true 1 ((List.range 256).map fun i => (0, w0 + BitVec.ofNat 64 (1 * i))) ringS).2.all Got.fine) = true := by
  decide +kernel

theorem test_receives : reads (.opeek 3 5) ringS (fun t => getS t.grp 3 = 0x09090002 && t.rings = ringS.rings) = true ∧
    reads (.opeek 3 7) ringS (fun t => getS t.grp 3 = 0 && t.grp.cc = ⟨false, false, true, true⟩) = true ∧
    reads (.opeek 3 6) ringS (fun t => t.grp.cc = ⟨false, false, true, false⟩) = true ∧ reads (.opeek 3 6) ringStall (fun t => getS t.grp 3 = 0x60) = true ∧
    reads (.orecv 3 6 4) ringS (fun t => t.grp.wait = .orecv 0) = true ∧ reads (.orecv 3 7 4) ringS (fun t => t.grp.cc = ⟨false, false, true, true⟩) = true ∧
    reads (.orecv 3 6 4) ringStall (fun t => getS t.grp 3 = 0x60 && t.grp.cc = ⟨false, false, false, true⟩) = true ∧
    reads (.owm 3 6) ringStall (fun t => getS t.grp 3 = 5 && t.grp.cc.v) = true ∧
    reads (.owm 3 8) { ringStall with now := 9 } (fun t => getS t.grp 3 = 5 && t.grp.cc = ⟨true, false, false, true⟩) = true ∧ reads (.owm 3 9) ringS (fun t => t.grp.cc = ⟨false, false, true, false⟩) = true := by
  decide +kernel

theorem test_receive : reads (.orecv 3 5 4) ringS (fun t => getS t.grp 3 = 0x09090002 && t.grp.lastRecv = 100 && mgets t.team.scratch 0 3 = [0x11, 0x22, 0] &&
    (findRing t 3).any fun r => r.entries = []) = true := by
  decide +kernel

/-- A parameter block of TRNEW in the scratchpad, an expansion record of one child, their addresses, a handle, a home-0 range. -/
def reelS : State :=
  { sr [(4, w0), (5, w0 + 0x40), (6, 0x10003), (7, 2), (8, 0x8000), (9, 1)] with
    team := { team0 with scratch := msets [] 0 (toBytes (0x8000 + 4 * 2 ^ 64 + 0x3F800000 * 2 ^ 96 + 4 * 2 ^ 192) 32 ++ List.replicate 32 0 ++ toBytes 1 8 ++ toBytes (0x3F000000 + 7 * 2 ^ 32) 8) } }

/-- Hypotheses of ReelIssue. -/
theorem test_wit_reel_issue : ∀ i ∈ [Instr.trnew 3 4, .trroot 3 6 0, .trdesc 3 6, .trexp 5 6 0, .trback 6 7, .trreuse 3 6, .trfree 6 1, .trleaf 9 6 4, .trstat 3 6 4], Ready i reelS := by
  decide +kernel

theorem test_reel_issue : reads (.trnew 3 4) reelS (fun t => t.grp.wait = .reel 0 &&
      t.ops.map (fun o => o.kind) = [.reel 0 3 (.new (BitVec.ofNat 256 (0x8000 + 4 * 2 ^ 64 + 0x3F800000 * 2 ^ 96 + 4 * 2 ^ 192)))]) = true ∧
    reads (.trexp 5 6 1) reelS (fun t => t.ops.map (fun o => o.kind) = [.reel 0 5 (.exp 0x10003 1 [0x3F000000] [7] true)] && t.grp.pc = 0x1000) = true ∧
    reads (.trback 6 7) reelS (fun t => t.ops.map (fun o => o.kind) = [.reel 0 127 (.back 0x10003 2 false none none)]) = true ∧
    reads (.trleaf 9 6 4) reelS (fun t => t.ops.map (fun o => o.kind) = [.reel 0 9 (.leaf 0x10003 1 [⟨.scratch ⟨1, 0⟩, 0, 0⟩])]) = true := by
  decide +kernel

/-- A tree of partition 0 on die 0, slot 3: four nodes at 0x8000, of which 0 is the root. -/
def tree0 : Tree := ⟨0, 0, 3, 0, 0, 1, 0x8000, 4, 0x3F800000, 0x3F800000, 0, 4, false, some 0, [], 0⟩

/-- The machine whose group waits for a step on that tree; `f` changes the tree, `ns` are its nodes. -/
def reelAt (f : Tree → Tree) (ns : List Node) (j : ReelJob) : State :=
  { withG (fun g => { g with wait := .reel 5 }) with
    trees := [f tree0]
    ops := [op0 (.reel 0 3 j)]
    mem := msets [] 0x8000 (ns.flatMap fun n => toBytes (nodeBits n) 32) ++ base.mem }

/-- A root that is used, and is a leaf. -/
def root0 : Node := ⟨0, 0, 0x3F800000, 0, 0, false, false, false, true, 0, noParent, 0⟩

/-- Hypotheses of ReelSteps that every clause shares. -/
theorem test_wit_reel_steps : Issuer (reelAt id [root0] (.desc 3 .start none)) ∧ (reelAt id [root0] (.desc 3 .start none)).grp.Quiet ∧
    awaitsRecord (reelAt id [root0] (.desc 3 .start none)) (op0 (.reel 0 3 (.desc 3 .start none))) = false ∧
    findOp (reelAt id [root0] (.desc 3 .start none)) 5 = some (op0 (.reel 0 3 (.desc 3 .start none))) ∧
    blockers (reelAt id [root0] (.desc 3 .start none)) (op0 (.reel 0 3 (.desc 3 .start none))) = [] ∧
    treeOf (reelAt id [root0] (.desc 3 .start none)) 0 3 = some tree0 ∧ refOf (reelAt id [root0] (.desc 3 .start none)) 0 0x10003 = some (tree0, 1) ∧
    refOf (reelAt id [root0] (.desc 3 .start none)) 0 0x40003 = none ∧ HasHandler base.grp := by
  decide +kernel

theorem test_wit_reel_reach : (poolView 0 0 0 true true none (nodeRun tree0 0) (reelAt id [root0] (.desc 3 .start none))).2 = ([(8, at0 0x8000)], none) ∧
    (poolView 0 0 0 true true none (poolRuns tree0) (reelAt id [root0] (.desc 3 .start none))).2 = ([(8, at0 0x8000)], none) := by
  decide +kernel

/-- The value, the flags and the next address that a reel's last step leaves. -/
def finishes (i : Instr) (s : State) (v : DWord) (c : CC) : Bool := reads i s fun t => getS t.grp 3 = v && t.grp.cc = c && t.grp.pc = 0x1004 && t.grp.wait = .none && t.ops = []

theorem test_reel_descents : finishes (.reelStep 5) (reelAt (fun t => { t with root := none }) [] (.desc 3 .start none)) 0 ⟨false, false, true, true⟩ = true ∧
    finishes (.reelStep 5) (reelAt (fun t => { t with reserved := 4 }) [root0] (.desc 3 .start none)) 0 ⟨false, false, false, true⟩ = true ∧
    reads (.reelStep 5) (reelAt id [root0] (.desc 3 .start none)) (fun t => t.ops.map (fun o => o.kind) = [.reel 0 3 (.desc 3 (.at 0 [0]) (some 0))] &&
      mget t.mem 0x800C = 1 && t.trees = [{ tree0 with reserved := 1 }] && t.grp.wait = .reel 5) = true ∧
    finishes (.reelStep 5) (reelAt id [{ root0 with term := true }] (.desc 3 (.at 0 [0]) none)) 3 ⟨false, true, false, false⟩ = true ∧
    finishes (.reelStep 5) (reelAt (fun t => { t with novl := true }) [{ root0 with pend := true }] (.desc 3 (.at 0 [0]) none)) 3 ⟨false, false, true, false⟩ = true := by
  decide +kernel

/-- R285: the step that reads a node and writes it reaches it twice, whether the second access hits the cached leaf of the first or walks again. -/
theorem test_wit_reel_writing : let s := (poolView 0 0 0 true false none (nodeRun tree0 0) (reelAt id [root0] (.desc 3 (.at 0 [0]) none))).1
    stage1 s 0 0 0x8000 = .ok 0x8000 true true false false := by
  exact stage1_cached (e := ⟨false, 0, 0, 0, 8, 8, true, true, false, false, 0⟩) (a := ⟨0, 0, 8, 0⟩) (by decide +kernel) (by decide +kernel) (by decide +kernel)

/-- The node that a step wrote, and the tree. -/
def nodeAt (s : State) (i : Nat) : Node := rdNode s tree0 [(8, at0 0x8000)] i

/-- R224-R226: where an expansion finds room, what a subtree is, and what freeing leaves. -/
theorem test_reel_nodes : let s := fun ns => reelAt id ns (.free 3 false)
    let v : PoolView := [(8, at0 0x8000)]
    let two := [{ root0 with exp := true, first := 1, nch := 1, vl := 1 }, { root0 with parent := 0 }]
    freeRun (s [root0]) tree0 v 2 = some 1 ∧ freeRun (s [root0]) tree0 v 4 = none ∧ freeRun (s [root0, .free, root0]) tree0 v 1 = some 1 ∧
    subtree (s two) tree0 v 4 0 = [0, 1] ∧ subtree (s two) tree0 v 4 1 = [1] ∧ treeBusy (s two) tree0 v [0, 1] = true ∧ treeBusy (s two) tree0 v [1] = false ∧
    (let t := freeNodes tree0 v [1] (reelAt (fun t => { t with batch := [0, 1] }) two (.free 3 false))
     nodeAt t 1 = .free ∧ nodeAt t 0 = { root0 with exp := true, first := 1, nch := 1, vl := 1 } ∧ t.trees = [{ tree0 with batch := [0] }]) := by
  decide +kernel

theorem test_reel_ends : finishes (.reelStep 5) (reelAt id [root0] (.exp 3 4 [] [] false)) 0 ⟨false, true, true, false⟩ = true ∧
    finishes (.reelStep 5) (reelAt id [{ root0 with exp := true, first := 1, nch := 1 }] (.exp 3 2 [] [] false)) 0x10003 ⟨false, true, false, false⟩ = true ∧
    finishes (.reelStep 5) (reelAt id [root0] (.root 3 false)) 3 ⟨true, false, false, false⟩ = true ∧
    finishes (.reelStep 5) (reelAt id [root0] (.reuse 3)) 3 ⟨true, false, false, false⟩ = true ∧
    finishes (.reelStep 5) (reelAt id [root0] (.stat 3 1)) 0x080000003F800000 ⟨true, false, false, false⟩ = true ∧ finishes (.reelStep 5) (reelAt id [] (.new (1 <<< 201))) 0 ⟨false, false, false, true⟩ = true ∧
    reads (.reelStep 5) (reelAt id [root0] (.back 0x10003 0 false none none)) (fun t => t.grp.tcause = 0x41 && t.grp.tval = 0x10003 && t.grp.pc = 0x2000 && t.mem = (reelAt id [root0] (.back 3 0 false none none)).mem) = true ∧
    reads (.reelStep 5) (reelAt (fun t => { t with batch := [2, 0] }) [root0] (.leaf 3 1 [at0 0x9000])) (fun t => mget t.mem 0x9000 = 3 && mget t.mem 0x9002 = 2 && getS t.grp 3 = 1 && t.trees = [{ tree0 with batch := [0] }]) = true := by
  decide +kernel

theorem test_reel_pick : reads (.reelStep 5) (reelAt id [root0, { root0 with n := 1, w := 0x40000000, parent := 0 }] (.desc 3 (.pick 1 2 0x40000000 0 none [0]) none)) (fun t =>
    t.ops.map (fun o => o.kind) = [.reel 0 3 (.desc 3 (.pick 1 2 0x40000000 1 (some (1, 0x40400000)) [0]) (some 0))]) = true := by
  decide +kernel

/-- A reference or a handle that the reel refuses, and no room in an `.f` form: the trap of R220. -/
def refuses (i : Instr) (s : State) (cause : BitVec 8) (h : DWord) : Bool := reads i s fun t =>
  t.grp.pc = 0x2000 && t.grp.tcause = cause && t.grp.tval = h && t.grp.epc = 0x1000 && t.grp.replay && t.mem = s.mem

/-- R222: the last child of a choice with and without virtual loss, the loss of the chosen one, and a descent whose tree has ended. -/
theorem test_reel_choice : let ns := [{ root0 with exp := true, first := 1, nch := 1 }, { root0 with parent := 0 }]
    reads (.reelStep 5) (reelAt (fun t => { t with novl := true }) ns (.desc 3 (.pick 1 1 0x40000000 0 none [0]) (some 0))) (fun t => t.ops.map (fun o => o.kind) = [.reel 0 3 (.desc 3 (.at 1 [0, 1]) (some 0))]) = true ∧
    reads (.reelStep 5) (reelAt id ns (.desc 3 (.pick 1 1 0x40000000 0 none [0]) (some 0))) (fun t => t.ops.map (fun o => o.kind) = [.reel 0 3 (.desc 3 (.lose 1 [0, 1]) (some 0))]) = true ∧
    reads (.reelStep 5) (reelAt id ns (.desc 3 (.lose 1 [0, 1]) (some 0))) (fun t => mget t.mem 0x802C = 1 && t.ops.map (fun o => o.kind) = [.reel 0 3 (.desc 3 (.at 1 [0, 1]) (some 0))]) = true ∧
    refuses (.reelStep 5) (reelAt id ns (.desc 3 (.at 0 [0]) (some 7))) 0x41 3 = true ∧ refuses (.reelStep 5) (reelAt id ns (.back 0x10003 0 false (some 0) (some 7))) 0x41 0x10003 = true := by
  decide +kernel

/-- R222: a descent that met a pending leaf takes its losses back, and ends with C. -/
theorem test_reel_undo : let ns := [{ root0 with exp := true, first := 1, nch := 1, vl := 2 }, { root0 with parent := 0, vl := 1, pend := true }]
    reads (.reelStep 5) (reelAt id ns (.desc 3 (.undo [1, 0] 1) (some 0))) (fun t => mget t.mem 0x802C = 0 && mget t.mem 0x800C = 2 && t.ops.map (fun o => o.kind) = [.reel 0 3 (.desc 3 (.undo [0] 1) (some 0))]) = true ∧
    finishes (.reelStep 5) (reelAt id ns (.desc 3 (.undo [0] 1) (some 0))) 0x10003 ⟨false, false, true, false⟩ = true := by
  decide +kernel

/-- What TRNEW makes of 4 nodes at 0x9000 with a batch of 4. -/
def newJob : ReelJob := .new (BitVec.ofNat 256 (0x9000 + 4 * 2 ^ 64 + 0x3F800000 * 2 ^ 96 + 4 * 2 ^ 192))

/-- R217: TRNEW clears the pool and takes the lowest slot; a pool that meets another tree's is refused; without a slot there is C. -/
theorem test_reel_new : finishes (.reelStep 5) (reelAt id [] newJob) 0 ⟨true, false, false, false⟩ = true ∧
    reads (.reelStep 5) { reelAt id [] newJob with mem := (0x9001, 7) :: base.mem, nextTree := 9 } (fun t => mget t.mem 0x9001 = 0 && t.trees.map (fun t => (t.id, t.slot, t.cap, t.bcap)) = [(0, 3, 4, 4), (9, 0, 4, 4)]) = true ∧
    finishes (.reelStep 5) (reelAt (fun t => { t with pool := 0x9020 }) [] newJob) 0 ⟨false, false, false, true⟩ = true ∧
    finishes (.reelStep 5) { reelAt id [] newJob with trees := (List.range 64).map fun i => { tree0 with slot := i } } 0 ⟨false, false, true, false⟩ = true := by
  decide +kernel

/-- R225, R226: a node that is held elsewhere makes the tree BUSY. -/
theorem test_reel_busy : let ns := fun a b => [{ root0 with exp := true, first := 1, nch := 1, vl := a }, { root0 with parent := 0, vl := b }]
    finishes (.reelStep 5) (reelAt id (ns 1 0) (.reuse 0x10003)) 0 ⟨false, true, false, true⟩ = true ∧
    finishes (.reelStep 5) (reelAt (fun t => { t with reserved := 1 }) (ns 0 0) (.reuse 0x10003)) 0 ⟨false, true, false, true⟩ = true ∧
    finishes (.reelStep 5) (reelAt id (ns 0 1) (.free 0x10003 false)) 0 ⟨false, true, false, true⟩ = true := by
  decide +kernel

/-- R221, R224, R226, R228: no room in the plain and in the `.f` forms, the whole tree freed, and the tree word. -/
theorem test_reel_room : let all := List.replicate 4 root0
    finishes (.reelStep 5) (reelAt (fun t => { t with root := none }) all (.root 3 false)) 0 ⟨false, true, true, false⟩ = true ∧
    refuses (.reelStep 5) (reelAt (fun t => { t with root := none }) all (.root 3 true)) 0x40 3 = true ∧ refuses (.reelStep 5) (reelAt id [root0] (.exp 3 4 [] [] true)) 0x40 3 = true ∧
    reads (.reelStep 5) (reelAt id [root0] (.free 3 true)) (fun t => t.trees = [] && t.grp.cc = ⟨true, false, false, false⟩) = true ∧
    finishes (.reelStep 5) (reelAt id [{ root0 with pend := true }] (.free 3 true)) 0 ⟨false, true, false, true⟩ = true ∧
    finishes (.reelStep 5) (reelAt (fun t => { t with batch := [0] }) [root0] (.stat 3 4)) 0x0100000300000000 ⟨true, false, false, false⟩ = true ∧
    refuses (.reelStep 5) (reelAt id [root0] (.stat 0x10003 1)) 0x41 0x10003 = true ∧ refuses (.reelStep 5) (reelAt id [root0] (.stat 4 4)) 0x41 4 = true := by
  decide +kernel

/-- The machine with tiles of one row of 64 BF16 elements, the scratchpad's address, a stride and a descriptor of one FP32 element in registers. -/
def tileS : State := { sr [(4, w0), (5, 128), (6, 0x10100000000), (7, 0), (8, w0 + 2)] with team := { team0 with tshape := List.replicate 16 0x4001, tqueue := 2 :: List.replicate 15 0xF } }

/-- Hypotheses of MatrixIssue: pieces and elements that pass, a descriptor that is refused, with and without a current batch. -/
theorem test_wit_matrix_issue : tileS.grp.cntT ≠ 63 ∧ tileS.grp.cntS ≠ 63 ∧ CommAtMost 62 tileS ∧ tileS.grp.gang.toNat % 2 ^ 3 = 0 ∧ tileS.grp.curBatch = none ∧
    (∀ i ∈ [Instr.tld 0 4 5, .tst 0 4 5, .tzero 0, .accz 1, .accld 3 1 7, .mma 1 0 2, .mmaz 1 0 2, .mmar 1 0 2, .draina 1 4 6, .drains 1 4 6, .drains 1 4 7], Ready i tileS) ∧
    drainOk true 0x10100000000 = true ∧ drainOk false 0 = false ∧
    ((checkPieces (pieceAcc .tile true false) false (tilePieces 0x4001 w0 128).flatten tileS).2.all fun p => p.2.fine) = true ∧
    ((checkPieces (drainAcc true) true ((drainElems 0x10100000000 w0).map fun e => e.2) tileS).2.all fun p => p.2.fine) = true := by
  decide +kernel

theorem test_matrix_issue : reads (.tld 3 4 5) tileS (fun t => t.grp.cntT = 1 && t.ops.map (fun o => o.kind) = [.tld 3 0x4001 [[⟨w0, ⟨.scratch ⟨1, 0⟩, 0, 0⟩, 128⟩]]]) = true ∧
    reads (.mmar 1 0 2) tileS (fun t => t.grp.cntT = 1 && t.ops.map (fun o => o.kind) = [.mma 1 0 2 false ⟨1, 1, 0, 2, 15⟩ [(0, none)] [(false, 2)] false]) = true ∧
    reads (.mmaz 1 0 2) { tileS with grp := { tileS.grp with curBatch := some 3 } } (fun t => t.grp.cntT = 0 && mget t.grp.batchPend 3 = 1) = true ∧
    reads (.drains 1 4 6) tileS (fun t => t.grp.cntS = 1 && t.ops.map (fun o => o.kind) = [.drain 1 false false 0 [⟨0, w0, ⟨.scratch ⟨1, 0⟩, 0, 0⟩⟩] none]) = true ∧
    traps (.drains 1 4 7) tileS 0x01 (((encode (.drains 1 4 7)).getD 0).setWidth 64) 0x1000 = true ∧ traps (.drains 1 8 6) tileS 0x03 (w0 + 2) 0x1000 = true := by
  decide +kernel

/-- Two groups of a gang: m0 is group 0. -/
def gangS : State := { tileS with grp := { tileS.grp with gang := 2 + 1 * 2 ^ 8 }, groups := [{ sib with gang := 2 + 1 * 2 ^ 8, wait := .latch, cntT := 1 }] }

/-- The word of `mma 1 0 2`. -/
def mmaW : Word := (encode (.mma 1 0 2)).getD 0

/-- What m0 brings to the latch. -/
def sh0 : MmaShape := ⟨1, 1, 0, 2, 15⟩

/-- The second member, with m0 at the latch, for word `w`. -/
def gang2 (w : Word) : State :=
  { gangS with
    grp := { gangS.grp with key := ⟨1, 0, 1⟩ }
    groups := [{ grp0 with gang := 2 + 1 * 2 ^ 8, wait := .latch, cntT := 1 }]
    team := { tileS.team with latches := [⟨[0, 1], w, 2 + 1 * 2 ^ 8, [0], some sh0, (0, 0)⟩] } }

theorem test_wit_gang : encode (.mma 1 0 2) = some mmaW ∧ gangS.grid.det = false ∧ gangS.grp.gang.toNat % 2 ^ 3 ≠ 0 ∧ Issuer gangS ∧ Issuer (gang2 mmaW) ∧ gangMembers gangS.grp.gang = [0, 1] ∧
    (∀ i ∈ [Instr.mma 1 0 2, .mmaz 1 0 2, .mmar 1 0 2], Ready i gangS ∧ Ready i (gang2 mmaW)) ∧
    sameSet [0, 1] (gangMembers (gang2 0).grp.gang) = true ∧ mmaW ≠ 0 := by
  decide +kernel

theorem test_wit_gang_members : (∀ g ∈ (gang2 mmaW).groups, HasHandler g ∧ g.Quiet) ∧ HasHandler (gang2 0).grp := by decide +kernel

theorem test_gang_first : reads (.mma 1 0 2) gangS (fun t => t.grp.wait = .latch && t.grp.cntT = 1 && t.team.latches = [⟨[0, 1], mmaW, 2 + 1 * 2 ^ 8, [0], some sh0, (0, 0)⟩]) = true := by decide +kernel

theorem test_gang_last : reads (.mma 1 0 2) (gang2 mmaW) (fun t => t.grp.pc = 0x1004 && t.groups.map (fun g => (g.pc, g.wait)) = [(0x1004, .none)] && t.team.latches = [] &&
    t.ops.map (fun o => o.kind) = [.mma 1 0 2 false sh0 [(0, none), (1, none)] [] false]) = true := by decide +kernel

/-- m0 arrives last, and a member whose GANG and shapes a stall has kept from its decode (R28, R32, R184). -/
theorem test_gang_kept : let t := { gangS.team with latches := [⟨[0, 1], mmaW, 2 + 1 * 2 ^ 8, [1], none, (0, 0)⟩] }
    let kept := { gangS with team := { t with tshape := List.replicate 16 0x4020, tqueue := List.replicate 16 3 }, grp := { gangS.grp with gang := 0, decoded := some ⟨gangS.team.tshape, gangS.team.tqueue, 2 + 1 * 2 ^ 8, none⟩ } }
    let runs := fun s => reads (.mma 1 0 2) s fun t => t.grp.pc = 0x1004 && t.groups.map (fun g => (g.pc, g.wait)) = [(0x1004, .none)] && t.team.latches = [] &&
      t.ops.map (fun o => o.kind) = [.mma 1 0 2 false sh0 [(0, none), (1, none)] [] false]
    (∀ i ∈ [Instr.mma 1 0 2], Ready i { gangS with team := t } ∧ Ready i kept) ∧ runs { gangS with team := t } = true ∧ runs kept = true := by
  decide +kernel

theorem test_gang_error : reads (.mma 1 0 2) (gang2 0) (fun t => t.grp.pc = 0x2000 && t.grp.tcause = 0x07 && t.grp.cntT = 0 && t.team.latches = [] && t.ops = [] &&
    t.groups.map (fun g => (g.tcause, g.cntT)) = [(0x07, 0)]) = true := by decide +kernel

/-- An operation of the matrix path, accepted and next. -/
def engS (k : OpKind) : State :=
  { withOp { op0 k with accepted := some 0 } with
    team := { team0 with tiles := [(0, 0x80), (1, 0x3F), (4096 * 2, 0), (4096 * 2 + 1, 0x40)], accs := [(1024, 0x3F800000), (1024 + 33, 7)], queues := List.replicate 16 ⟨true, 4, [], [], []⟩ }
    mem := [(0x100, 0xAA), (0x101, 0xBB)] }

/-- Hypotheses of MatrixEffects. -/
theorem test_wit_engine : (∀ k ∈ [OpKind.tzero 2, .accz 1, .accld 1 0 3 1, .tld 3 0x4001 [[⟨0x100, at0 0x100, 128⟩]], .tst 0 0x4001 [[⟨0x100, at0 0x100, 128⟩]],
      .mma 1 0 2 false sh0 [(0, none)] [] false, .mma 1 0 2 false sh0 [(0, none)] [(false, 2)] false, .drain 1 false false 0 [acc0 0x100] none, .drain 1 true false 0 [acc0 0x100] none],
    readyEngine (engS k) 5 = some { op0 k with accepted := some 0 }) ∧ Issuer (engS (.tzero 2)) ∧ (engS (.tzero 2)).grp.wait = .none ∧ (engS (.tzero 2)).team.queues.length = 16 ∧ (engS (.tzero 2)).ecc = [] := by
  decide +kernel

theorem test_engine_accepts : reads (.engineAccept 5) (withOp (op0 (.tzero 2))) (fun t => t.ops.map (fun o => o.accepted) = [some 0] && t.nextAccept = 1) = true := by decide +kernel

theorem test_engine_tiles : reads (.tileCompletion 5) (engS (.tzero 2)) (fun t => mget t.team.tiles 8193 = 0 && mget t.team.tiles 0 = 0x80 && t.grp.cntT = 0 && t.ops = []) = true ∧
    reads (.tileCompletion 5) (engS (.accz 1)) (fun t => mget t.team.accs 1024 = 0 && mget t.team.accs 1057 = 0) = true ∧
    reads (.tileCompletion 5) (engS (.accld 1 1 3 3)) (fun t => mget t.grp.vregs 97 = 7 && mget t.grp.vregs 96 = 0) = true ∧
    reads (.tileCompletion 5) (engS (.tld 0 0x4001 [[⟨0x100, at0 0x100, 128⟩]])) (fun t => mgets t.team.tiles 0 3 = [0xAA, 0xBB, 0]) = true ∧
    reads (.tileCompletion 5) (engS (.tst 0 0x4001 [[⟨0x100, at0 0x100, 128⟩]])) (fun t => mgets t.mem 0x100 3 = [0x80, 0x3F, 0]) = true := by
  decide +kernel

/-- 1 × 2 + 1 = 3, in the first element alone. -/
theorem test_engine_multiplies : reads (.mmaCompletion 5) (engS (.mma 1 0 2 false sh0 [(0, none)] [] false)) (fun t => mget t.team.accs 1024 = 0x40400000 && mget t.team.accs 1057 = 7 && t.grp.cntT = 0) = true ∧
    reads (.mmaCompletion 5) (engS (.mma 1 0 2 true sh0 [(0, none)] [] false)) (fun t => mget t.team.accs 1024 = 0x40000000 && mget t.team.accs 1057 = 0) = true ∧
    reads (.mmarAllowance 5 false) (engS (.mma 1 0 2 false sh0 [(0, none)] [(false, 2)] false)) (fun t => (queueOf t 2).allowance = 5 && mget t.team.accs 1024 = 0x40400000 && t.grp.cntT = 1) = true := by
  decide +kernel

theorem test_engine_drains : reads (.drainCompletion 5) (engS (.drain 1 false true 0 [acc0 0x100] none)) (fun t => mgets t.mem 0x100 3 = [0x80, 0x3F, 0]) = true ∧
    reads (.drainCompletion 5) (engS (.drain 1 false false 0 [⟨33, 0x100, at0 0x100⟩] none)) (fun t => mgets t.mem 0x100 2 = [7, 0] && t.grp.cntS = 0) = true ∧
    reads (.drainCompletion 5) { engS (.drain 1 true false 0 [acc0 0x100] none) with mem := [(0x102, 0x80), (0x103, 0x3F)] } (fun t => mgets t.mem 0x100 4 = [0, 0, 0, 0x40] && t.grp.cntS = 0) = true := by
  decide +kernel

/-- A grid whose page's read has been issued into slot 2 of cluster 1. -/
def pageG (src : PageSource) (st : PageSt) : State :=
  { base with
    now := 1000
    tensors := [{ tens0 with boardAt := none, flashAt := some 0, size := 0x100000, hbm := false, board := false, flash := true, hbmAt := none }]
    parts := [{ Partition.initial 0 with clusters := 0xFFFFFF }]
    grid := { grid0 with clusters := 0xFFFFFF, source := src, nextCluster := 1, pages := [⟨7, BitVec.ofNat 64 (9 * 2 ^ 53 + 0x4000), st, 0, none, none, (0, 0)⟩] } }

/-- Hypotheses of PageReads. -/
theorem test_wit_page_reads : findGrid (pageG .flash .waiting) 1 = some (pageG .flash .waiting).grid ∧ nextPage (pageG .flash .waiting) (pageG .flash .waiting).grid = some 0 ∧
    nextSlot (pageG .flash .waiting) (pageG .flash .waiting).grid = some (1, 0) ∧ flashKnown (pageG .flash .waiting) 0 (BitVec.ofNat 64 (9 * 2 ^ 53 + 0x4000)) = true ∧
    (pageG .nvme (.issued 1 2 0)).grid.part = 0 ∧ (pageG .nvme .waiting).grid.pages.map (nvmeReadable (pageG .nvme .waiting) (pageG .nvme .waiting).grid) = [true] ∧
    (pageG .nvme .waiting).grid.pages.map (nvmeReadable { pageG .nvme .waiting with metaNs := [(0, 288)] } (pageG .nvme .waiting).grid) = [false] := by
  decide +kernel

theorem test_page_issue : reads (.pageReadIssue 1) (pageG .flash .waiting) (fun t => t.slots = [⟨1, 0, .assigned 1 0, []⟩] && t.grid.nextCluster = 2 && t.grid.pages.map (fun p => p.st) = [.issued 1 0 1000]) = true := by
  decide +kernel

theorem test_page_landing : reads (.pageLanding 1 0 ⟨2000, 1, false⟩) { pageG .flash (.issued 1 2 0) with mem := [(9 * 2 ^ 53 + 0x4001, 5)] } (fun t => t.slots = [⟨1, 2, .landed 1 0, [(1, 5)]⟩] &&
      t.grid.pages.map (fun p => (p.pstat, p.st)) = [(0x7FE6, .landed 1 2 0)]) = true ∧
    reads (.pageLanding 1 0 ⟨3, 7, true⟩) (pageG .flash (.issued 1 2 0)) (fun t => t.grid.pages.map (fun p => p.pstat) = [0x1F] && t.slots = [⟨1, 2, .landed 1 0, []⟩]) = true ∧
    reads (.distaffBoundExpiry 1 0 3) { pageG .flash (.issued 1 2 0) with now := 2400000 } (fun t => t.grid.pages.map (fun p => p.pstat) = [0xF]) = true := by
  decide +kernel

theorem test_nvme : let out := fun s : State => { s with nvmeReads := [⟨1, 0, 0, 288, 0x4000, 1, 2⟩] }
    let fly := pageG .nvme (.issued 1 2 0)
    let pstat := fun (t : State) => t.grid.pages.map fun p => p.pstat
    reads (.nvmeReadCompletion 1 0 .success [(3, 9)]) (out fly) (fun t => t.slots = [⟨1, 2, .landed 1 0, [(3, 9)]⟩] && pstat t = [0x8000] && t.nvmeReads = []) = true ∧
    reads (.nvmeReadCompletion 1 0 .success []) { out fly with metaNs := [(0, 288)] } (fun t => pstat t = [0x8000]) = true ∧
    reads (.nvmeReadCompletion 1 0 .success [(3, 9)]) fly (fun t => pstat t = [0x8003] && t.slots = [⟨1, 2, .landed 1 0, []⟩]) = true ∧
    reads (.nvmeReadCompletion 1 0 .success [(3, 9)]) { out fly with now := 20000001 } (fun t => pstat t = [0]) = true ∧
    reads (.pageReadIssue 1) (pageG .nvme .waiting) (fun t => t.nvmeReads = [⟨1, 0, 0, 288, 0x4000, 1, 0⟩]) = true ∧
    reads (.nvmeReadCompletion 1 0 .error []) (out fly) (fun t => pstat t = [0x8003]) = true ∧
    reads (.nvmeTimeout 1 0) { out fly with now := 20000000 } (fun t => pstat t = [0x8003]) = true := by
  decide +kernel

/-- A memory page, taken by the agent of spindle 24. -/
def memPage (src : Nat) : State :=
  { pageG .memory (.issued 1 2 0) with grid := { (pageG .memory (.issued 1 2 0)).grid with pages := [⟨7, BitVec.ofNat 64 src, .issued 1 2 0, 0, some 24, none, (0, 0)⟩] } }

/-- Hypotheses of the memory pages of PageReads: an address that is no page, and one that can be read. -/
theorem test_wit_memory_page : agentCopy (memPage 0x4100).grid 24 = some (0, 1, 2) ∧ copyWaits (memPage 0x4100) (memPage 0x4100).grid 0 = false ∧
    reads (.memoryPageCopy 1 24) (memPage 0x4100) (fun t => t.slots = [] && t.grid.pages.map (fun p => (p.pstat, p.st)) = [(0x10003, .failed)]) = true := by
  decide +kernel

theorem test_wit_agent_reads : (match agentRead (memPage 0x4000) ⟨⟨1, 0, 0⟩, { Team.initial with key := ⟨1, 0⟩, spindle := 24 }, (memPage 0x4000).grid, 0, []⟩ (pieceRuns 0x4000 0x4000) with
    | .ok _ => true
    | _ => false) = true := by
  decide +kernel

/-- A launch of two groups, one of them ganged, whose page 0 has landed in slot 2 of cluster 1. -/
def launchS : State :=
  { State.reset with
    grid := .initial
    parts := [{ Partition.initial 0 with clusters := 0xFFFFFF }]
    slots := [⟨1, 2, .landed 1 0, [(0, 9)]⟩]
    grids := [{ grid0 with
      clusters := 0xFFFFFF
      args := 0x77
      source := .flash
      pages := [⟨7, 0, .landed 1 2 0, 1, none, none, (0, 0)⟩]
      desc := ⟨2, 0x1000, 4, 8, 16, some 0x80, [⟨1, 2, false, 0⟩, ⟨1, 3, true, 0x40⟩], List.replicate 16 0x4020, [0, 5] ++ List.replicate 14 0, List.replicate 16 0xF⟩ }] }

/-- Hypotheses of TeamPlacement. -/
theorem test_wit_placement : (findGrid launchS 1).any (fun d => serves launchS d 24 && nextArrival d 24 = some (0, 2) && gridBase launchS d 24 = some 0) = true ∧ findTeam launchS ⟨1, 0⟩ = none := by
  decide +kernel

theorem test_placement : reads (.placement 1 24) launchS (fun t => t.groups.map (fun g => (g.pc, g.alloc, g.quad, g.gang, g.tvec)) = [(0x1000, 2, 0, 0, 0x1080), (0x1040, 3, 0, 9, 0x1080)] &&
      t.groups.map (fun g => [getS g 0, getS g 1, getS g 2, getS g 3, getS g 4, getS g 5]) = [[0x01E0400000008000, 7, 0x77, 0, 0, 0], [0x01E0400000008000, 7, 0x77, 0, 1, 1]] &&
      t.teams.map (fun x => (x.queues.map fun q => q.allowance).take 3) = [[0, 5, 0]] && t.slots.map (fun x => x.st) = [.held 1 0]) = true := by
  decide +kernel

/-- A lane with an active group that waits and a pending one. -/
def laneS : State := { withG (fun g => { g with wait := .stall .load }) with groups := [{ sib with set := .pending, order := 1 }] }

/-- Hypotheses of Scheduling. -/
theorem test_wit_scheduling : firstPending laneS 0 0 = some { sib with set := .pending, order := 1 } ∧ (inLane laneS 0 0).find? (fun g => g.set = .active) = some laneS.grp ∧
    eligible laneS laneS.grp = false ∧ firstPending base 0 0 = none := by
  decide +kernel

/-- The clauses of an active swap: a stall that counts 16 cycles, one that does not, and one that no swap follows (R318). -/
theorem test_wit_swap : reasonOf laneS laneS.grp = .load ∧ ¬ (laneS.grp.stallAt + 16 * 10 ≤ laneS.cycles) ∧
    (let s := withG fun g => { g with wait := .stall .bar }
     let u := { s with groups := laneS.groups }
     eligible u u.grp = false ∧ reasonOf u u.grp = .bar ∧ reads (.activeSwap 0 0) u (fun t => t.grp.set = .pending && t.groups.map (fun g => g.set) = [.active]) = true) ∧
    (let u := { base with groups := laneS.groups, laneBusy := [] }
     firstPending u 0 0 = some { sib with set := .pending, order := 1 } ∧ eligible u u.grp = true ∧ reads (.activeSwap 0 0) u (fun t => t = u) = true) := by
  decide +kernel

/-- A promoted group whose lane's active group is promoted and eligible waits behind it (R319). -/
theorem test_wit_promotion_holder : let s := { withG (fun g => { g with promoted := some 0 }) with groups := [{ sib with set := .pending, order := 1, eligCycles := 40960 }], nextPromo := 1 }
    (allGroups s).find? (fun g => g.set = .active && g.key != ⟨1, 0, 1⟩ && sameLane s sib g) = some s.grp ∧ eligible s s.grp = true ∧
    reads (.promotion ⟨1, 0, 1⟩) s (fun t => t.grp.set = .active && t.groups.map (fun g => (g.set, g.promoted)) = [(.pending, some 1)] && t.nextPromo = 2) = true := by
  decide +kernel

theorem test_active_swap : reads (.activeSwap 0 0) { laneS with cycles := 160 } (fun t => t.grp.set = .pending && t.grp.order = 2 && t.groups.map (fun g => g.set) = [.active]) = true ∧
    swapsOut laneS laneS.grp = false ∧ reads (.activeSwap 0 0) laneS (fun t => t.grp.set = .active && t.groups.map (fun g => g.set) = [.pending]) = true ∧
    reads (.activeSwap 0 0) { laneS with grp := { laneS.grp with set := .suspended } } (fun t => t.groups.map (fun g => g.set) = [.active] && t.grp.set = .suspended) = true := by
  decide +kernel

theorem test_promotion : reads (.promotion ⟨1, 0, 1⟩) { laneS with groups := [{ sib with set := .pending, order := 1, eligCycles := 40960 }] } (fun t =>
      t.groups.map (fun g => (g.set, g.promoted)) = [(SchedSet.active, some 0)] && t.grp.set = .pending && t.nextPromo = 1) = true ∧
    reads (.promotion ⟨1, 0, 0⟩) (withG fun g => { g with eligCycles := 40960 }) (fun t => t.grp.promoted = some 0 && t.grp.set = .active) = true ∧
    reads (.promotion ⟨1, 0, 1⟩) { laneS with groups := [{ sib with set := .pending, order := 1, eligCycles := 40959 }] } (fun t => t.grp.set = .active && t.nextPromo = 0) = true := by
  decide +kernel

/-- A team whose group waits in BWAIT; `f` changes the team. -/
def teamS (f : Team → Team) : State := { withG (fun g => { g with wait := .bwait 1 0 false, set := .suspended }) with
  team := f team0, grid := { grid0 with desc := ⟨1, 0, 0, 8, 16, none, [⟨1, 8, false, 0⟩], [], [], []⟩, queue := 3 }, now := 300000,
  queues := [⟨0, 3, 0, 0, 4, 0, 0, 0, [], [], true, 100, 0, 0, false, [], [], 0⟩, ⟨1, 3, 0, 0, 4, 0, 0, 0, [], [], true, 100, 0, 1, false, [], [], 0⟩],
  parts := [{ Partition.initial 0 with slice := 5 }] }

theorem test_wit_teams : maySwap (teamS id) ⟨1, 0⟩ = true ∧ maySwap base ⟨1, 0⟩ = false ∧ deferLimit (teamS id) ⟨1, 0⟩ = 200000 ∧ workWaits (teamS id) (fun p => p != 0) = true ∧
    allTeams (teamS id) = [team0] ∧ baseFor (teamS fun t => { t with phase := .swapped }) 0 16 8 0 [(0, 8)] = some 0 ∧
    (seats (teamS fun t => { t with phase := .swapped }) (teamS id).grid ⟨1, 0⟩).map (fun m => m.2) = [(0, 8)] := by
  decide +kernel

theorem test_teams : reads (.teamSwapOut ⟨1, 0⟩) (teamS id) (fun t => t.team.phase = .swapped) = true ∧ reads (.teamSwapOut ⟨1, 0⟩) base (fun t => t.team.phase = .running) = true ∧
    reads (.teamSwapIn ⟨1, 0⟩) (teamS fun t => { t with phase := .swapped }) (fun t => t.team.phase = .running && t.grp.wait = .bwait 1 0 false) = true ∧
    reads (.teamRestore ⟨1, 0⟩) (teamS fun t => { t with phase := .saved, preempt := some 0, forced := true }) (fun t => t.team = team0) = true ∧
    reads (.teamSave ⟨1, 0⟩) (teamS fun t => { t with preempt := some 0 }) (fun t => t.team.phase = .saved && !t.team.forced) = true ∧
    teamBusy (teamS id) ⟨1, 0⟩ = false ∧ tierBusy (teamS id) ⟨1, 0⟩ = false ∧
    reads (.teamSave ⟨1, 0⟩) { teamS (fun t => { t with preempt := some 0 }) with ops := [op0 (.tzero 1)] } (fun t => t.team.phase = .running) = true ∧
    reads (.timeSliceExpiry 0) (teamS id) (fun t => t.team.preempt = some 300000) = true ∧
    reads (.timeSliceExpiry 0) { teamS id with parts := [{ Partition.initial 0 with slice := 5, sliceFrom := 299999 }] } (fun t => t.team.preempt = none) = true := by
  decide +kernel

theorem test_forced_save : reads (.teamSave ⟨1, 0⟩) (teamS fun t => { t with preempt := some 0, barriers := [⟨0, 2, 1, 1⟩] }) (fun t => t.team.phase = .running) = true ∧
    reads (.deferralLimitExpiry ⟨1, 0⟩) (teamS fun t => { t with preempt := some 0, barriers := [⟨0, 2, 1, 1⟩] }) (fun t => t.team.phase = .running && t.team.saving && t.team.forced) = true ∧
    reads (.deferralLimitExpiry ⟨1, 0⟩) (teamS fun t => { t with preempt := some 290000, barriers := [⟨0, 2, 1, 1⟩] }) (fun t => !t.team.saving) = true := by
  decide +kernel

/-- A parked instruction, and a group that waits with its timer run out. -/
def parkS (e : Bool) : State := withG fun g => { g with park := some ⟨6, [(1, 0, 0x100)], [], e⟩, set := .suspended }

/-- The machine whose group waits at the instruction word `i`, in a launch of two pages, its timer run out. -/
def waitS (w : Wait) (i : Instr) (r : SMap 64) : State :=
  { withG (fun g => { g with wait := w, bwto := 1, sregs := r }) with
    now := 3000
    rings := [⟨4, 0, 0, 0, 2, false, 0, [], [⟨1, 0, 0⟩]⟩]
    grid := { grid0 with code := [(0, (encode i).getD 0)], pages := List.replicate 2 ⟨7, 0, .running, 0x10000, none, none, (0, 0)⟩ } }

/-- Hypotheses of GroupEvents. -/
theorem test_wit_group_events : Issuer base ∧ base.grid.det = false ∧ (parkS true).grp.park.isSome = true := by decide +kernel

theorem test_parked_replay : reads (.parkedReplay ⟨1, 0, 0⟩) (parkS true) (fun t => t.grp.replayMask = some 6 && t.grp.set ≠ .suspended) = true ∧
    reads (.parkedReplay ⟨1, 0, 0⟩) (parkS false) (fun t => t = parkS false) = true := by
  decide +kernel

/-- A peer's answer comes with the replay: its record is gone and the outcome it gave is spent (R340). -/
theorem test_parked_peer : awaitsPeer (parkS false) ((parkS false).grp.park.elim [] fun p => p.recs.map (·.2.1)) = false ∧
    reads (.parkedReplay ⟨1, 0, 0⟩) { parkS false with records := [recProto peerQueue 0 1 0x10 0x100 0 9 0 false false false false false 0], peerFaults := [(9, 0x10), (9, 0x11)] }
      (fun t => t.grp.replayMask = some 6 && t.records.isEmpty && t.peerFaults = [(9, 0x11)]) = true := by
  decide +kernel

theorem test_wit_timeouts : fetchWord (waitS (.bwait 1 0 true) (.bwait 3 4) [(4, 1)]) = encode (.bwait 3 4) ∧ bwaitTest (waitS (.bwait 1 0 true) (.bwait 3 4) [(4, 1)]) 1 = none ∧
    (ringOf (waitS (.orecv 0) (.orecv 3 4 5) [(4, 4)]) ⟨1, 0, 0⟩).any (fun r => r.entries = []) = true ∧ Group.Quiet (waitS (.orecv 0) (.orecv 3 4 5) [(4, 4)]).grp := by
  decide +kernel

theorem test_timeouts : reads (.bwaitTimeout ⟨1, 0, 0⟩) (waitS (.bwait 1 0 true) (.bwait 3 4) [(4, 1)]) (fun t => getS t.grp 3 = 2 && t.grp.cc = ⟨false, false, false, true⟩ && t.grp.pc = 0x1004) = true ∧
    reads (.orecvTimeout ⟨1, 0, 0⟩) (waitS (.orecv 0) (.orecv 3 4 5) [(4, 4)]) (fun t => getS t.grp 3 = 0 && t.grp.cc = ⟨false, false, true, false⟩ && t.grp.pc = 0x1004) = true := by
  decide +kernel

theorem test_fetch_faults : fetchWord { base with grid := { grid0 with codeLen := 0 } } = none ∧
    reads (.outOfSectionFetch 0x1000) { base with grid := { grid0 with codeLen := 0 } } (fun t => t.grp.pc = 0x2000 && t.grp.tcause = 0x11 && t.grp.tval = 0x1000 && t.grp.epc = 0x1000) = true := by
  decide +kernel

theorem test_breakpoint : bpMatches { base with dbg := [{ Dbg.initial 0 with bpaddr := [(0, 0x1000)], bpcfg := [(0, 1)] }] } = true ∧
    reads (.breakpointStop ⟨1, 0, 0⟩) { base with dbg := [{ Dbg.initial 0 with bpaddr := [(0, 0x1000)], bpcfg := [(0, 1)] }] } (fun t => t.grp.stopped && t.grp.pc = 0x1000) = true := by
  decide +kernel

/-- A held record of partition 0, and room in its queue. -/
def recS : State :=
  { base with
    records := [⟨5, 0, 0, 3, 0x10, 0x123, 0, 0, 2, false, true, false, false, false, 0, 1, false, 0⟩]
    parts := [{ Partition.initial 0 with fqAddr := BitVec.ofNat 64 (10 * 2 ^ 53 + 0x1000), fqLog2 := some 4 }] }

theorem test_wit_fault_queue : queueRoom recS 0 = true ∧ (recS.records.find? fun r => r.queuePart = 0 && !r.written).isSome = true := by decide +kernel

theorem test_fault_queue : reads (.faultQueueRoom 0) recS (fun t => mgets t.mem (10 * 2 ^ 53 + 0x1000) 16 = [0x10, 0x42, 0, 0, 1, 0, 0, 0, 5, 0, 0, 0, 3, 0, 0, 0] && (partOf t 0).fqWr = 1 &&
    (fnOf t ⟨0, 0⟩).vectors = [1]) = true := by decide +kernel

theorem test_unused_slot : inQuad base 1 2 = [] ∧ reads (.unusedSlot 1 2) base (fun t => mget (dbgOf t 1).counters 64 = 1 && mget (dbgOf t 1).counters 67 = 1 && mget (dbgOf t 1).counters 65 = 0) = true := by
  decide +kernel

/-- A host atomic of the group. -/
def hostS : State :=
  { withG (fun g => { g with wait := .hostAtomic 5, cntS := 0 }) with ops := [{ op0 (.samo .add 3 (acc0 0x100) 2 0) with host := some ⟨[], []⟩ }], mem := [(0x100, 7)] ++ base.mem }

theorem test_wit_host_atomic : readyOp hostS 5 = some { op0 (.samo .add 3 (acc0 0x100) 2 0) with host := some ⟨[], []⟩ } ∧ hostS.cxl = [] ∧ HasHandler hostS.grp ∧
    (List.range 8).any (fun n => watchHits hostS n true true 0x100 8) = false := by
  decide +kernel

theorem test_host_atomic : reads (.hostAtomicCompletion 5 .ok) hostS (fun t => getS t.grp 3 = 7 && mget t.mem 0x100 = 9 && t.grp.pc = 0x1004 && t.ops = []) = true ∧
    reads (.hostAtomicCompletion 5 .ur) hostS (fun t => t.grp.tcause = 0x50 && t.grp.tval = 0x100 && mget t.mem 0x100 = 7) = true ∧
    reads (.hostAtomicCompletion 5 .ca) hostS (fun t => t.grp.tcause = 0x51) = true ∧ reads (.hostAtomicCompletion 5 (.poison false)) hostS (fun t => t.grp.tcause = 0x52) = true ∧
    reads (.hostCompletionTimeout 5) { hostS with now := 100000000 } (fun t => t.grp.tcause = 0x51 && t.grp.unf = 0xFFFFFFFF) = true ∧
    reads (.hostCompletionTimeout 5) { hostS with now := 99999999 } (fun t => t.grp.wait = .hostAtomic 5 && t.ops.length = 1) = true := by
  decide +kernel

/-- Two groups that wait to donate and to receive two units. -/
theorem test_donate_transfer : reads (.donateTransfer ⟨1, 0, 0⟩ ⟨1, 0, 1⟩) { withG (fun g => { g with wait := .donate true 1 2 }) with groups := [{ sib with alloc := 1, wait := .donate false 0 2 }] } (fun t =>
    t.grp.alloc = 6 && t.groups.map (fun g => (g.alloc, g.pc, g.wait)) = [(3, 0x1004, .none)] && t.grp.pc = 0x1004) = true := by
  decide +kernel

/-- Hypotheses of TierEnds. -/
theorem test_wit_tiers : tierRange (tens { tensHbm with st := .moving, target := 8, source := 0 } 0) tensHbm 0 0x4000 true 32 = .ok ((List.range 32).map fun i => at0 (0x4000 + i)) ∧
    (Tensor.rangeIn { tensHbm with target := 8 } 0).isSome = true ∧ (Tensor.rangeIn tensHbm 8).isSome = true := by
  decide +kernel

theorem test_tiers : reads (.moveCompletes 0 5) { tens { tensHbm with st := .moving, target := 8, source := 0 } 0 with mem := [(0x4000, 5)] } (fun t =>
      t.tensors.map (fun x => (x.st, x.board, x.last)) = [(.resident, true, 0)] && mget t.mem (8 * 2 ^ 53 + 0x8000) = 5 && mget t.mem 0x4000 = 5) = true ∧
    reads (.moveFails 0 5) (tens { tensHbm with st := .moving, target := 8, source := 0 } 0) (fun t => t.tensors.map (fun x => (x.st, x.board, x.last)) = [(.resident, false, 5)]) = true ∧
    reads (.evictionEnd 0 5) (tens { tens0 with st := .evicting, movers := [⟨1, 0, 0⟩], watchers := [⟨1, 0, 1⟩] } 0) (fun t => t.tensors = [{ tens0 with st := .absent }]) = true ∧
    reads (.reclaimComplete 5) { ctxS with tags := [⟨5, 0, 0, 4, 4, 0, true⟩], cells := [⟨5, 3, [], true⟩, ⟨4, 3, [], true⟩] } (fun t => t.tags = [] && t.cells = [⟨4, 3, [], true⟩]) = true ∧
    reads (.reclaimComplete 5) { ctxS with tags := [⟨5, 0, 0, 4, 4, 0, true⟩], ops := [{ op0 (.tzero 1) with ctx := 5 }] } (fun t => t.tags.length = 1) = true ∧ Tensor.lenIn tensHbm 8 = 32 ∧ Tensor.lenIn tensHbm 9 = 0x4000 := by
  decide +kernel

/-- The queue 3 of partition 0, its ring at 0x1000 of home 10, at its first slot of three. -/
def cq0 : CmdQueue := ⟨0, 3, 0, BitVec.ofNat 64 (10 * 2 ^ 53 + 0x1000), 4, BitVec.ofNat 64 (10 * 2 ^ 53 + 0x800), 0, 1, [1, 2, 3, 4, 5, 6], [(0, 2 ^ 57)], true, 100, 0, 3, false, [], [], 0⟩

/-- The machine with that queue and the bytes of its slots. -/
def queueS (bs : List Byte) : State := { base with queues := [cq0], mem := base.mem ++ msets [] (10 * 2 ^ 53 + 0x1000) bs }

/-- A slot: its first 8 bytes, then words. -/
def slot (kind n tag : Nat) (ws : List Nat) : List Byte := toBytes (kind + n * 2 ^ 8 + tag * 2 ^ 16) 8 ++ ws.flatMap fun w => toBytes w 8

/-- The slot of a LAUNCH of the image at 0x4000, with a list of one memory page at 0x4200. -/
def launchSlot : List Byte := slot 1 0 7 [0x4000, 0x4200, 1, 0, 0xFFFFFF, 0, 0]

/-- An image: header, one word of code, a description of one group in one role. -/
def imageBytes : List Byte :=
  toBytes 0x3130204A424F4B53 8 ++ toBytes (1 + 6 * 2 ^ 32) 8 ++ [0x40, 4, 0, 0, 0x80, 0x100].flatMap (fun w => toBytes w 8) ++ toBytes 0x02200000 4 ++ List.replicate 60 0 ++
    [2 + 2 * 2 ^ 8 + 1 * 2 ^ 24, 1 * 2 ^ 8, 0, 1 + 1 * 2 ^ 8].flatMap (fun w => toBytes w 8) ++ List.replicate 224 0

/-- The machine with that image and that list. -/
def launchQ (bs : List Byte) : State :=
  { queueS bs with mem := msets (msets [] 0x4000 imageBytes) 0x4200 (toBytes 9 8 ++ toBytes 0x8000 8) ++ base.mem ++ msets [] (10 * 2 ^ 53 + 0x1000) bs }

/-- What validation makes of the head of the queue. -/
def headOk (s : State) : Bool := match verdict s cq0 with | .bad _ => false | _ => mayServe s cq0

/-- Hypotheses of CommandPackets: a launch, a fault of the front end's reads, a move, copies, a signal, a wait, a malformed slot. -/
theorem test_wit_launch : (match verdict (launchQ launchSlot) cq0 with | .one bs (some (.go d)) => bs = launchSlot && d.codeLen = 4 | _ => false) = true ∧
    (launchQ launchSlot).packets.all (fun p => p.id != (launchQ launchSlot).nextPacket) = true := by
  decide +kernel

theorem test_launch : reads (.launch 0 3) (launchQ launchSlot) (fun t => t.grids.map (fun d => (d.id, d.packet, d.codeBase)) = [(2, 1, 0x4040)] &&
      t.grids.map (fun d => (d.pages.map (fun p => (p.pgidx, p.src)), mget d.code 0, d.desc.groups)) = [([(9, 0x8000)], 0x02200000, 1)] &&
      t.queues.map (fun q => (q.rd, q.running)) = [(1, [1])] && mget t.mem (10 * 2 ^ 53 + 0x800) = 1 && t.packets.map (fun p => p.tag) = [7]) = true := by
  decide +kernel

theorem test_wit_launch_faults : (match verdict (queueS (slot 1 0 7 [0x40000000, 0x4200, 1, 0, 0xFFFFFF, 0, 0])) cq0 with | .one _ (some (.fault c a none none)) => c = 0x10 && a = 0x40000000 | _ => false) = true := by
  decide +kernel

theorem test_wit_packets : (([slot 2 0 0 [5, 0, 0, 0, 0, 0, 0], slot 3 0 0 [0x8000, 0x9000, 0, 0, 0, 0, 0], slot 3 0 0 [0x8000, 0x9000, 4, 0, 0, 0, 0], slot 4 0 0 [9, 0, 0, 0, 0, 0, 0],
      slot 5 0 0 [9, 0, 0, 0, 0, 0, 0]].all fun b => headOk (queueS b)) = true) ∧
    (match verdict (queueS (slot 4 1 0 [9, 0, 0, 0, 0, 0, 0])) cq0 with | .bad n => n = 2 | _ => false) = true := by
  decide +kernel

theorem test_packets : reads (.move 0 3) (queueS (slot 2 0 0 [5, 0, 0, 0, 0, 0, 0])) (fun t => t.packets.map (fun p => (p.finished, p.detail)) = [(true, 5)]) = true ∧
    reads (.move 0 3) { queueS (slot 2 0 0 [5 + 8 * 2 ^ 32, 0, 0, 0, 0, 0, 0]) with tensors := [{ tens0 with st := .evicting }] } (fun t =>
      t.packets.map (fun p => (p.finished, p.move)) = [(false, some (5, 8))] && t.tensors.map (fun x => x.waiters) = [[.packet 1]]) = true ∧
    reads (.copyPacket 0 3) (queueS (slot 3 0 0 [0x8000, 0x9000, 4, 0, 0, 0, 0])) (fun t => t.ops.map (fun o => o.kind) = [.copy (.cpy 0x8000 0x9000 4)] && t.packets.map (fun p => p.finished) = [false]) = true ∧
    reads (.copyPacket 0 3) (queueS (slot 3 0 0 [0x8000, 0x9000, 0, 0, 0, 0, 0])) (fun t => t.ops = [] && t.packets.map (fun p => p.finished) = [true]) = true ∧
    reads (.signal 0 3) (queueS (slot 4 0 0 [9, 0, 0, 0, 0, 0, 0])) (fun t => tokenVal t 0 0 9 = 1 && t.queues.map (fun q => q.rd) = [1]) = true ∧
    reads (.waitPacket 0 3) (queueS (slot 5 0 0 [9, 0, 0, 0, 0, 0, 0])) (fun t => t.queues.map (fun q => q.rd) = [1]) = true ∧
    reads (.signal 0 3) (queueS (slot 4 1 0 [9, 0, 0, 0, 0, 0, 0])) (fun t => t.queues.map (fun q => (q.rd, q.halted)) = [(0, true)] && t.hank.map (fun r => (r.kind, r.info0, r.info1)) = [(0x40, 3, 2)]) = true := by
  decide +kernel

/-- A bundle of two launches. -/
theorem test_bundle : reads (.bundle 0 3) (launchQ (slot 6 2 0 [0, 0, 0, 0, 0, 0, 0] ++ launchSlot ++ launchSlot)) (fun t => t.packets.map (fun p => (p.id, p.bundle, p.open_)) =
      [(1, none, [2, 3]), (2, some (1, 0), []), (3, some (1, 1), [])] && t.grids.map (fun d => (d.id, d.packet)) = [(2, 2), (3, 3)] && t.queues.map (fun q => (q.rd, q.running)) = [(3, [1])]) = true := by
  decide +kernel

/-- A finished packet of that queue. -/
def doneP (f : Bool) : State := { base with queues := [{ cq0 with running := [1] }], now := 77, packets := [⟨1, 0, 3, 3, 5, 0x8000, true, 0, none, [], f, 0, 0, [], 0, false, none⟩] }

theorem test_completion : reads (.completionRecord 1) (doneP true) (fun t => mgets t.mem 0x8000 8 = [0, 0, 0, 0, 5, 0, 0, 0] && mget t.mem 0x8018 = 77 && t.packets = [] && t.queues.map (fun q => q.running) = [[]] &&
      (fnOf t ⟨0, 0⟩).vectors = [0]) = true ∧ reads (.completionRecord 1) (doneP false) (fun t => t = doneP false) = true := by
  decide +kernel

/-- Where the function's next management command lies. -/
def mgA : DWord := BitVec.ofNat 64 (10 * 2 ^ 53 + 0x2000)

/-- The machine whose function `p` of hub 0 has the opcode `op` at the head of its management ring; `f` adds state. -/
def mgS (op : Byte) (p : Nat) (f : State → State) : State :=
  f { base with fns := [{ FnRegs.initial ⟨0, p⟩ with mgBase := mgA, mgSize := 4, mgDb := 1 }], mem := [(10 * 2 ^ 53 + 0x2000, op), (10 * 2 ^ 53 + 0x2040, 0x46)] }

/-- Hypotheses of ManagementCommands that every clause shares. -/
theorem test_wit_mgmt : nextCmd (mgS 0x19 0 id) ⟨0, 0⟩ = some mgA ∧ (mgS 0x19 0 id).firmware.recovery = none ∧ (mgS 0x19 0 id).pstate ≠ 4 ∧ busRead (mgS 0x19 0 id) 0 mgA 1 = some [0x19] ∧
    nextCmd (mgS 0x05 2 id) ⟨0, 2⟩ = some mgA ∧ busRead (mgS 0x05 2 id) 2 mgA 1 = some [0x05] ∧ mgA.toNat / 2 ^ 53 = 10 ∧ mgA.toNat % 64 = 0 := by
  decide +kernel

/-- Whether a command leaves MGRD one higher, raises vector 3, and leaves what `f` says. -/
def answers (i : Instr) (s : State) (f : State → Bool) : Bool := reads i s fun t => (fnOf t ⟨0, 0⟩).mgRd = 1 && (fnOf t ⟨0, 0⟩).vectors = [3] && f t

theorem test_mgmt_queues : answers (.createq ⟨0, 0⟩ ⟨3, BitVec.ofNat 64 (10 * 2 ^ 53 + 0x1000), 4, 0, 0, 1, [1, 6], [(0, 9)], true, 0⟩) (mgS 0x01 0 id) (fun t => t.queues = []) = true ∧
    answers (.createq ⟨0, 0⟩ ⟨3, BitVec.ofNat 64 (10 * 2 ^ 53 + 0x1000), 4, mgA, 0, 1, [1, 6], [(0, 9)], true, 0⟩) (mgS 0x01 0 id) (fun t => t.queues.map (fun q => (q.q, q.log2, q.kinds, q.rd, q.wr, q.deferUs)) = [(3, 4, [1, 6], 0, 0, 100)]) = true ∧
    answers (.resetq ⟨0, 0⟩ 3) (mgS 0x02 0 fun s => { s with queues := [{ cq0 with halted := true, rd := 2 }] }) (fun t => t.queues.map (fun q => (q.halted, q.rd, q.wr)) = [(false, 0, 0)]) = true ∧
    answers (.destroyq ⟨0, 0⟩ 3) (mgS 0x03 0 fun s => { s with queues := [cq0] }) (fun t => t.queues = []) = true ∧
    answers (.destroyq ⟨0, 0⟩ 3) (mgS 0x03 0 fun s => { s with queues := [{ cq0 with running := [1] }] }) (fun t => t.queues.length = 1) = true ∧
    answers (.preempt ⟨0, 0⟩ 3) (mgS 0x0E 0 fun s => { s with queues := [cq0], grid := { grid0 with queue := 3 } }) (fun t => t.team.preempt = some 0) = true := by
  decide +kernel

/-- A root past the memory of its home (R1). -/
theorem test_mgmt_root : answers (.setasid ⟨0, 0⟩ 5 1 (BitVec.ofNat 64 (homeSize 1)) none) (mgS 0x04 0 id) (fun t => t.aspaces = [⟨0, 0, 8, 0⟩]) = true ∧
    busOk (mgS 0x01 0 id) 0 mgA 8 = true ∧ busOk (mgS 0x01 0 id) 0 0 8 = false := by
  decide +kernel

theorem test_mgmt_memory : answers (.setasid ⟨0, 0⟩ 5 1 0x3000 none) (mgS 0x04 0 id) (fun t => t.aspaces = [⟨0, 0, 8, 0⟩, ⟨0, 5, 1, 0x3000⟩]) = true ∧
    answers (.sets2 ⟨0, 0⟩ 1 0 8 0x4000) (mgS 0x05 0 id) (fun t => t.s2roots = [⟨1, 0, 8, 0x4000⟩]) = true ∧
    answers (.tlbinv ⟨0, 0⟩ (.asid 5)) (mgS 0x06 0 fun s => { s with tlb := [⟨false, 0, 5, 0, 1, 1, true, true, false, false, 0⟩] }) (fun t => t.tlb = []) = true ∧
    answers (.faultq ⟨0, 0⟩ mgA 4) (mgS 0x07 0 id) (fun t => (partOf t 0).fqLog2 = some 4 && (partOf t 0).fqAddr = mgA) = true ∧
    answers (.keyset ⟨0, 0⟩ 511) (mgS 0x0F 0 id) (fun t => t.keys = [⟨511, 1⟩] && t.nextKey = 2) = true ∧
    answers (.keyclr ⟨0, 0⟩ 511) (mgS 0x10 0 fun s => { s with keys := [⟨511, 1⟩] }) (fun t => t.keys = []) = true := by
  decide +kernel

/-- A fault record that has been written, and a parked group that waits on it. -/
def answerS (s : State) : State :=
  { s with
    grid := { grid0 with pages := [] }
    records := [⟨5, 0, 0, 0, 0x10, 0x123, 0, 0, 2, false, true, false, false, false, 0, 1, true, 0⟩]
    groups := [{ sib with park := some ⟨2, [(1, 5, 0x123)], [], false⟩ }] }

theorem test_mgmt_faults : (answerable (mgS 0x08 0 answerS) ⟨0, 0⟩ 5).isSome = true ∧ answerable (mgS 0x08 0 answerS) ⟨0, 0⟩ 6 = none ∧ ((mgS 0x08 0 answerS).groups.all fun g => waitsOn 5 g) = true ∧
    answers (.faultrespReplay ⟨0, 0⟩ 5) (mgS 0x08 0 answerS) (fun t => t.records = [] && t.groups.map (fun g => g.park) = [some ⟨2, [(1, 5, 0x123)], [], true⟩]) = true ∧
    answers (.faultrespFail ⟨0, 0⟩ 5) (mgS 0x08 0 answerS) (fun t => t.records = [] && t.groups.map (fun g => g.park) = [some ⟨2, [(1, 5, 0x123)], [(1, 0x11, 0x123)], true⟩]) = true := by
  decide +kernel

theorem test_mgmt_shares : answers (.eventq ⟨0, 0⟩ mgA 4) (mgS 0x09 0 id) (fun t => (fnOf t ⟨0, 0⟩).evLog2 = some 4) = true ∧
    answers (.quota ⟨0, 0⟩ 1 1 7 9) (mgS 0x0A 0 id) (fun t => mget (partOf t 1).hbmQuota 7 = 9) = true ∧ answers (.quota ⟨0, 0⟩ 1 6 0 9) (mgS 0x0A 0 id) (fun t => (partOf t 1).slice = 9) = true ∧
    answers (.cellstore ⟨0, 0⟩ 8 9) (mgS 0x0B 0 id) (fun t => mget t.cellStore 8 = 9) = true ∧
    answers (.regtensor ⟨0, 0⟩ ⟨5, 32, 1, some (0, 0x4000), some 0x8000, none, false, true, false⟩) (mgS 0x0C 0 id) (fun t => t.tensors.map (fun x => (x.st, x.die, x.hbm, x.board)) = [(.absent, 1, false, true)]) = true ∧
    answers (.unregtensor ⟨0, 0⟩ 5) (mgS 0x0D 0 fun s => { s with tensors := [tens0] }) (fun t => t.tensors = []) = true ∧
    answers (.unregtensor ⟨0, 0⟩ 5) (mgS 0x0D 0 fun s => { s with tensors := [{ tens0 with pins := 1 }] }) (fun t => t.tensors.length = 1) = true := by
  decide +kernel

theorem test_mgmt_device : answers (.power ⟨0, 0⟩ 2 9) (mgS 0x11 0 id) (fun t => t.pstate = 2 && t.warnTemp = 9) = true ∧
    answers (.fwload ⟨0, 0⟩ mgA 8 true) (mgS 0x12 0 id) (fun t => t.firmware = State.reset.firmware) = true ∧ checkImage 0 [0x12, 0, 0, 0, 0, 0, 0, 0] = .inl 1 ∧
    answers (.fwload ⟨0, 0⟩ mgA 8 true) (mgS 0x12 0 fun s => { s with firmware := { s.firmware with writing := some (⟨0, 0⟩, (3, 2, []), true) } })
      (fun t => t.firmware.next = some (3, 2, []) && t.firmware.fuse = 2 && t.firmware.writing.isNone) = true ∧
    (busRead (mgS 0x13 0 id) 0 mgA 32).isSome = true ∧ (ringLoc (mgS 0x13 0 id) 0 mgA true).isSome = true ∧
    answers (.nvmepass ⟨0, 0⟩ ⟨1, true⟩ (mgA + 64) mgA) (mgS 0x14 0 id) (fun t => t.passing.map (fun p => (p.drive, p.cpl)) = [(1, mgA)]) = true ∧
    answers (.nvmepass ⟨0, 0⟩ ⟨1, true⟩ (mgA + 128) mgA) (mgS 0x14 0 id) (fun t => t.passing = []) = true ∧
    answers (.nvmepass ⟨0, 0⟩ ⟨1, false⟩ (mgA + 128) mgA) (mgS 0x14 0 id) (fun t => t.passing.length = 1) = true ∧
    busOk (mgS 0x14 0 id) 0 9 16 = false ∧ answers (.nvmepass ⟨0, 0⟩ ⟨1, false⟩ (mgA + 128) 9) (mgS 0x14 0 id) (fun t => t.passing = []) = true ∧
    reads (.nvmepassCompletion 1 (List.replicate 16 7)) { base with passing := [⟨1, mgA, []⟩] } (fun t => t.passing = [] && mget t.mem (10 * 2 ^ 53 + 0x200F) = 7) = true := by
  decide +kernel

theorem test_mgmt_fabric : answers (.ringbind ⟨0, 0⟩ 3 0 0 0x100 4 false) (mgS 0x15 0 id) (fun t => t.rings = [⟨3, 0, 0, 0x100, 4, false, 0, [], []⟩]) = true ∧
    answers (.ringbind ⟨0, 0⟩ 3 0 0 0x100 4 false) (mgS 0x15 0 fun s => { s with rings := [⟨3, 0, 0, 0, 5, false, 0, [], []⟩] }) (fun t => t.rings = [⟨3, 0, 0, 0, 5, false, 0, [], []⟩]) = true ∧
    answers (.ringfree ⟨0, 0⟩ 3) (mgS 0x16 0 fun s => { s with rings := [⟨3, 0, 0, 0, 5, false, 0, [], []⟩] }) (fun t => t.rings = []) = true ∧
    answers (.importBind ⟨0, 0⟩ 9 2 0 0) (mgS 0x17 0 id) (fun t => t.imports = [⟨9, 2, 0, 0⟩]) = true ∧
    answers (.importRemove ⟨0, 0⟩ 9 2) (mgS 0x17 0 fun s => { s with imports := [⟨9, 2, 0, 0⟩] }) (fun t => t.imports = []) = true ∧
    answers (.nvmeto ⟨0, 0⟩ 31 5) (mgS 0x18 0 id) (fun t => mget t.nvmeMs 31 = 5) = true ∧ answers (.resetq ⟨0, 0⟩ 3) (mgS 0x19 0 id) (fun t => t.queues = []) = true := by
  decide +kernel

/-- Port 2 of the device in a state, with watermark 50, its link trained. -/
def portS (st : PortSt) : State := { base with ports := (List.replicate 16 Port.initial).set 2 { Port.initial with st, w := 50, lw := 50, link := true }, routes := [(9, 0x10)], now := 100 }

/-- The same with port 4 live. -/
def portS4 (st : PortSt) : State := { portS st with ports := (portS st).ports.set 4 { Port.initial with st := .live, w := 80, lw := 80, link := true } }

/-- A message of a class for ring 3 of a device. -/
def msg (c : MsgClass) (dst stamp : Nat) : Msg := ⟨c, dst, stamp, 9, 1, 6, 3, [0x11]⟩

/-- The class, the watermark and the state of port 2, and the number of messages held. -/
def port2 (t : State) : PortSt × Nat × Nat × Nat := ((portOf t 2).st, (portOf t 2).w, (portOf t 2).late, t.holdBuf.length)

/-- A full hold buffer pauses the port (R338). -/
theorem test_fabric_paused : reads (.fabricMessageArrival 2 (msg .ordered 0 60)) { portS .live with holdBuf := List.replicate 4096 ⟨2, msg .ordered 0 60, none⟩ }
    (fun t => port2 t = (.live, 50, 0, 4096)) = true := by
  decide +kernel

/-- Hypotheses of FabricEvents: every row of the port table, at the watermark and one below. -/
theorem test_fabric_arrivals : reads (.fabricMessageArrival 2 (msg .ordered 0 60)) (portS .fenced) (fun t => port2 t = (.fenced, 50, 1, 0)) = true ∧
    reads (.fabricMessageArrival 2 (msg .ordered 0 50)) (portS .live) (fun t => port2 t = (.live, 50, 0, 1)) = true ∧
    reads (.fabricMessageArrival 2 (msg .ordered 0 49)) (portS .live) (fun t => port2 t = (.live, 50, 1, 0)) = true ∧
    reads (.fabricMessageArrival 2 (msg .ordered 0 49)) (portS .stalled) (fun t => port2 t = (.stalled, 50, 0, 0)) = true ∧
    reads (.fabricMessageArrival 2 (msg .ordered 0 60)) (portS .joining) (fun t => port2 t = (.live, 60, 0, 1)) = true ∧
    reads (.fabricMessageArrival 2 (msg .ordered 0 79)) (portS4 .joining) (fun t => port2 t = (.joining, 50, 1, 0)) = true ∧
    reads (.fabricMessageArrival 2 (msg .logical 0 79)) (portS4 .joining) (fun t => (portOf t 2).st = .joining) = true ∧ (portS .live).pstate ≠ 4 := by
  decide +kernel

theorem test_fabric_forward : (liveRoutes (portS4 .live) 9).find? (fun x => x != 2) = some 4 ∧
    reads (.fabricMessageArrival 2 (msg .ordered 9 60)) (portS4 .live) (fun t => t.outBuf = [⟨2, 4, msg .ordered 9 60, none⟩] || t.egress = [.message 4 (msg .ordered 9 60)]) = true ∧
    reads (.fabricMessageArrival 2 (msg .ordered 9 60)) { portS4 .live with ports := (portS4 .live).ports.modify 4 fun p => { p with outW := 61 } }
      (fun t => (portOf t 2).late = 1 && (portOf t 2).w = 60 && t.outBuf = []) = true ∧
    reads (.unorderedArrival 2 (msg .unordered 9 0)) (portS4 .live) (fun t => t.egress = [.message 4 (msg .unordered 9 0)]) = true ∧
    reads (.unorderedArrival 2 (msg .unordered 9 0)) { portS4 .live with ports := (portS4 .live).ports.modify 4 fun p => { p with pausedOut := [.unordered] } }
      (fun t => t.outBuf = [⟨2, 4, msg .unordered 9 0, none⟩] && t.egress = []) = true := by
  decide +kernel

theorem test_fabric_beacons : reads (.beaconArrival 2 70 80) (portS .live) (fun t => port2 t = (.live, 70, 0, 0) && (portOf t 2).lw = 80) = true ∧
    reads (.beaconArrival 2 70 49) (portS .live) (fun t => port2 t = (.live, 50, 1, 0)) = true ∧ reads (.beaconArrival 2 70 80) (portS .fenced) (fun t => t = portS .fenced) = true ∧
    reads (.beaconArrival 2 70 80) (portS .joining) (fun t => port2 t = (.live, 70, 0, 0)) = true ∧ reads (.beaconArrival 2 79 80) (portS4 .joining) (fun t => port2 t = (.joining, 50, 0, 0)) = true := by
  decide +kernel

/-- The same port with ring 3, and a message held. -/
def heldS (r : Ring) : State := { portS .live with rings := [r], holdBuf := [⟨2, msg .ordered 0 40, none⟩] }

/-- Ring 3 of partition 0. -/
def ring3 (lg : Bool) (n : Nat) : Ring := ⟨3, 0, 0, 0x9000, 0, lg, n, List.replicate n ⟨0, []⟩, []⟩

theorem test_fabric_deliveries : reads .orderedDelivery (heldS (ring3 false 0)) (fun t => t.rings.map (fun r => (r.wr, r.entries.map fun e => e.header)) = [(1, [0x280000000601090001])] &&
      t.holdBuf = [] && t.floor = 41) = true ∧
    reads .orderedDelivery { heldS (ring3 false 0) with holdBuf := [⟨2, msg .ordered 0 50, none⟩] } (fun t => t.holdBuf.length = 1) = true ∧
    reads .orderedDelivery { heldS (ring3 false 0) with ports := (portS .stalled).ports } (fun t => t.holdBuf.length = 1) = true := by
  decide +kernel

theorem test_fabric_unordered : reads (.unorderedArrival 2 (msg .unordered 0 0)) (portS .fenced) (fun t => t.dropUnbound = 1) = true ∧
    reads (.unorderedArrival 2 (msg .unordered 0 0)) { portS .fenced with rings := [ring3 true 0] } (fun t => t.dropKind = 1) = true ∧
    reads (.unorderedArrival 2 (msg .unordered 0 0)) { portS .fenced with rings := [ring3 false 0] } (fun t => t.rings.map (fun r => r.entries.map fun e => e.header) = [[0x621090001]]) = true ∧
    reads (.unorderedArrival 2 (msg .unordered 0 0)) { portS .fenced with rings := [ring3 false 1] } (fun t => t.rings.map (fun r => (r.wr, r.entries.length)) = [(1, 2)] && t.mem = base.mem) = true := by
  decide +kernel

theorem test_fabric_timers : (List.range 16).all (fun i => !routeReaches (portS .live) i 2) = true ∧ reads (.beaconTimer 2) (portS .live) (fun t => t = portS .live) = true ∧
    reads (.beaconTimer 2) { portS .live with now := 400 } (fun t => t.egress = [.beacon 2 400 (2 ^ 64 - 1)] && (portOf t 2).outW = 400) = true ∧
    reads (.timeBeacon 0) { portS .live with tmaster := true, now := 2000 } (fun t => t.egress = [.time 2 2000]) = true ∧
    reads (.timeBeacon 500) (portS .live) (fun t => t.now = 500 && t.synced && t.egress = [.time 2 500]) = true ∧
    reads (.timeBeacon 500) { portS .live with synced := true } (fun t => t.now = 100 && t.steer = 400 && t.egress = [.time 2 100]) = true ∧
    reads (.portStall 2) { portS .live with now := 100051 } (fun t => (portOf t 2).st = .stalled && t.hank.map (fun r => (r.kind, r.info0, r.info1)) = [(0x21, 2, 50)]) = true ∧
    reads (.portStall 2) { portS .live with now := 100050 } (fun t => (portOf t 2).st = .live) = true := by
  decide +kernel

theorem test_fabric_ports : reads (.pause 2 .ordered true) (portS .live) (fun t => (portOf t 2).pausedOut = [.ordered]) = true ∧
    reads (.portAdmit 2) (portS .fenced) (fun t => (portOf t 2).st = .joining && (portOf t 2).w = 0) = true ∧ reads (.portAdmit 2) (portS .live) (fun t => (portOf t 2).w = 50) = true ∧
    reads (.portFence 2) (portS .live) (fun t => (portOf t 2).st = .fenced) = true ∧
    reads (.fabdropClear 0x100000002) { base with dropKind := 3, dropUnbound := 3 } (fun t => t.dropKind = 2 && t.dropUnbound = 1) = true ∧
    reads (.linkdown (.port 2)) (portS .live) (fun t => !(portOf t 2).link && t.hank.map (fun r => (r.kind, r.info0)) = [(0x20, 2)]) = true ∧
    reads (.linkdown (.port 4)) { portS4 .live with outBuf := [⟨16, 4, msg .unordered 9 0, none⟩], routes := [(9, 0x14)] } (fun t => !(portOf t 4).link && (t.outBuf = [⟨16, 2, msg .unordered 9 0, none⟩] || t.egress = [.message 2 (msg .unordered 9 0)])) = true ∧
    reads (.linkTrained 3 9 1) (portS .live) (fun t => (portOf t 3).link && (portOf t 3).peerDev = 9) = true := by
  decide +kernel

/-- Function 0 with a window on home 0, and an import of device 9. -/
def outS : State :=
  { base with fns := [{ FnRegs.initial ⟨0, 0⟩ with bar2 := some (0, 0) }], imports := [⟨9, 2, 0, 0⟩], mem := (0x100, 5) :: base.mem, cxlBase := 0x100000, cxlSize := 0x1000 }

/-- The answer to an access from outside, and what `f` says of the state. -/
def replies (i : Instr) (s : State) (r : Reply) (f : State → Bool) : Bool := reads i s fun t => t.replies = [r] && f t

/-- Hypotheses of OutsideAccesses. -/
theorem test_wit_outside : (fnOf outS ⟨0, 0⟩).bar2 = some (0, 0) ∧ outS.imports.find? (fun i => i.srcDev = 9 ∧ i.srcPart = 2) = some ⟨9, 2, 0, 0⟩ ∧
    extPlaces outS (extEnv 0 0 0) true false true (pieceRuns 0x100 4) = .ok [(at0 0x100, 4)] ∧ extPlaces outS (extEnv 0 0 0) false false true (pieceRuns 0x100 2) = .ok [(at0 0x100, 2)] ∧
    extPlaces outS (extEnv 0 0 0) true true true [(0x100, 8)] = .ok [(at0 0x100, 8)] ∧ outS.pstate ≠ 4 ∧ repliesPaused outS 9 = false := by
  decide +kernel

theorem test_outside : replies (.bar2Access ⟨0, 0⟩ 0x100 (.read 4)) outS (.data [5, 0, 0, 0]) (fun t => t.mem = outS.mem) = true ∧
    replies (.peerRequest 9 2 0 0x100 (.write [7, 8])) outS .done (fun t => mgets t.mem 0x100 3 = [7, 8, 0]) = true ∧
    replies (.bar2Access ⟨0, 0⟩ 0x100 (.amo .cas 8 9 5)) outS (.data [5, 0, 0, 0, 0, 0, 0, 0]) (fun t => mget t.mem 0x100 = 9) = true ∧
    replies (.peerRequest 9 2 0 0x100 (.amo .minu 8 3 0)) outS (.data [5, 0, 0, 0, 0, 0, 0, 0]) (fun t => mget t.mem 0x100 = 3) = true ∧
    replies (.bar2Access ⟨1, 0⟩ 0 (.read 4)) outS .ur (fun _ => true) = true ∧ replies (.bar2Access ⟨0, 0⟩ (2 ^ 36 - 1) (.read 2)) outS .ur (fun _ => true) = true ∧
    replies (.bar2Access ⟨0, 0⟩ 0 (.amo .fadd 4 0 0)) outS .ur (fun _ => true) = true := by
  decide +kernel

theorem test_outside_faults : replies (.peerRequest 9 2 9 0 (.read 4)) outS (.fault 0x11) (fun _ => true) = true ∧ replies (.peerRequest 8 2 0 0 (.read 4)) outS (.fault 0x12) (fun _ => true) = true ∧
    replies (.cxlMemAccess 2 (.write [7])) outS .done (fun t => mget t.mem (8 * 2 ^ 53 + 0x100002) = 7) = true ∧ replies (.cxlMemAccess 0xFFF (.read 2)) outS .ur (fun _ => true) = true ∧
    replies (.cxlMemAccess 2 (.read 2)) outS (.data [0, 0]) (fun _ => true) = true ∧
    replies (.peerRequest 9 2 0 0x40000000 (.read 4)) outS (.fault 0x10) (fun t => t.peerWaits.map (fun w => (w.dev, w.va)) = [(9, 0x40000000)] && t.records.length = 1) = true := by
  decide +kernel

theorem test_registers : reads (.registerWrite (.bar0 ⟨0, 0⟩ 0) 0x1FF) base (fun t => (fnOf t ⟨0, 0⟩).mgBase = 0x1C0) = true ∧
    reads (.registerWrite (.bar0 ⟨0, 0⟩ 0x1018) 9) { base with queues := [cq0] } (fun t => t.queues.map (fun q => q.wr) = [9]) = true ∧
    reads (.registerWrite (.bar0 ⟨0, 0⟩ 0x4000) 0x105) base (fun t => t.stallUs = 1 && t.tmaster && t.devId = 5) = true ∧
    reads (.registerWrite (.bar0 ⟨0, 0⟩ 0x57F8) 3) base (fun t => mget t.routes 255 = 3) = true ∧
    reads (.registerWrite (.bar4 0x23F0010 8) 0xFF) base (fun t => (dbgOf t 575).gsel = 0x7F) = true ∧
    reads (.registerWrite (.bar4 0x28 8) 30) base (fun t => (dbgOf t 0).trsize = 24) = true ∧
    reads (.registerWrite (.bar4 0x28 8) 9) { base with dbg := [{ Dbg.initial 0 with ctl := 0x80 }] } (fun t => (dbgOf t 0).trsize = 8) = true ∧
    reads (.registerWrite (.bar4 0xF8 8) 0xD01) base (fun t => mget (dbgOf t 0).wpcfg 7 = 0xC00) = true ∧
    reads (.registerWrite (.bar4 0x03000900 8) 0x30001) base (fun t => (partOf t 64).dmpAsid = 3 && (partOf t 64).dmpEn) = true ∧
    replies (.registerWrite (.bar4 0x24 8) 1) base .ur (fun t => t.dbg = base.dbg) = true ∧ replies (.registerWrite (.bar4 0x28 4) 1) base .ur (fun _ => true) = true ∧
    reads (.registerWrite (.devCtl2 0) 0x40) base (fun t => t.atomicsOff = [1]) = true ∧ reads (.registerWrite (.cxlMode 1) 1) base (fun t => t.cxl = [1]) = true := by
  decide +kernel

/-- A stopped group that GSEL selects. -/
def stopS (st : Bool) (ws : List (Nat × DWord)) : State := { withG (fun g => { g with stopped := st }) with windowWrites := ws.map fun w => ⟨⟨1, 0, 0⟩, w.1, w.2⟩ }

/-- Hypotheses of DebugEvents. -/
theorem test_wit_debug : selected (stopS true []) 0 = some (stopS true []).grp ∧ selected (stopS false []) 0 = some grp0 ∧ (dbgOf base 0).teamStop = false ∧ tracedSlot base ⟨1, 0, 0⟩ = none ∧
    residentOn base 3 = [] := by
  decide +kernel

theorem test_debug_commands : reads (.gcmdStop 0) base (fun t => t.grp.stopped) = true ∧ reads (.gcmdResume 0 false) base (fun t => t = base) = true ∧
    reads (.gcmdResume 0 false) (stopS true [(0x158, 9)]) (fun t => !t.grp.stopped && getS t.grp 3 = 9 && t.grp.bpSkip = some 0x1000 && t.windowWrites = []) = true ∧
    reads (.gcmdStep 0) (stopS true [(0x100, 0x1013)]) (fun t => t.grp.stepping && t.grp.pc = 0x1010) = true ∧
    reads (.prctlClr 0 true) { base with dbg := [{ Dbg.initial 0 with counters := [(3, 9)] }] } (fun t => (dbgOf t 0).counters = [] && (dbgOf t 0).freeze) = true ∧
    reads (.groupWindowWrite 0 0x4538 7) (stopS true []) (fun t => t.windowWrites = [⟨⟨1, 0, 0⟩, 0x4538, 7⟩]) = true ∧ reads (.groupWindowWrite 0 0x4538 7) base (fun t => t = base) = true := by
  decide +kernel

/-- Spindle 3 with a trace that runs. -/
def traceS (f : Dbg → Dbg) : State := { base with dbg := [f { Dbg.initial 3 with ctl := 0x80, trbase := 0x4000 }], now := 5 }

theorem test_traces : reads (.traceEnable 3 0x80) { base with now := 5 } (fun t => (dbgOf t 3).ctl = 0x80 && (dbgOf t 3).staged = [0x50000000000000303]) = true ∧
    reads (.traceEnable 3 0) (traceS id) (fun t => (dbgOf t 3).ctl = 0) = true ∧ reads (.syncSet 3) (traceS id) (fun t => t = traceS id) = true ∧
    reads (.syncSet 3) (traceS fun d => { d with sinceSync := 4096 }) (fun t => (dbgOf t 3).sinceSync = 0 && (dbgOf t 3).staged.length = 1) = true ∧
    reads (.traceRecordWrite 3) (traceS fun d => { d with staged := [0x1122], trwp := 255 }) (fun t => mgets t.mem (8 * 2 ^ 53 + 0x4FF0) 2 = [0x22, 0x11] && (dbgOf t 3).trwp = 256 && (dbgOf t 3).staged = [] && (dbgOf t 3).trfull) = true ∧
    reads (.traceRecordWrite 3) (traceS fun d => { d with staged := [0x1122], trwp := 256 }) (fun t => (dbgOf t 3).staged.length = 1 && t.mem = base.mem) = true := by
  decide +kernel

/-- A team that has ended with a dump armed for an area that is too small. -/
def dumpS : State := { withG (fun g => { g with phase := .retired }) with team := { team0 with phase := .ended, dumping := true, endRec := some ⟨0, 0x22, 1, 0x1004, 7⟩ } }

theorem test_dump : teamBusy dumpS ⟨1, 0⟩ = false ∧ reads (.coreDump ⟨1, 0⟩) dumpS (fun t => (partOf t 0).dmpTaken = 1 && (partOf t 0).dmpTrunc && t.mem = base.mem) = true ∧
    reads .hankMirror { base with hank := [⟨4096, 1, 0, 0, 0, 0, 0, 0, 0⟩], hankFlash := [⟨0, 2, 0, 0, 0, 0, 0, 0, 0⟩, ⟨1, 3, 0, 0, 0, 0, 0, 0, 0⟩] }
      (fun t => t.hankFlash.map (fun r => r.seq) = [1, 4096]) = true := by
  decide +kernel

/-- A dump waits for what the team has outstanding (R403). -/
theorem test_dump_waits : let s := { dumpS with ops := [op0 (.tzero 2)] }
    teamBusy s ⟨1, 0⟩ = true ∧ reads (.coreDump ⟨1, 0⟩) s (fun t => t = s) = true ∧
    (let m := { dumpS with tensors := [{ tens0 with st := .moving, movers := [⟨1, 0, 0⟩] }] }
     tierBusy m ⟨1, 0⟩ = true ∧ reads (.coreDump ⟨1, 0⟩) m (fun t => t = m) = true) := by
  decide +kernel

/-- Hypotheses of HeatAndResets. -/
theorem test_heat : reads (.thermwarn 3 1600) { base with warnTemp := 1600 } (fun t => mget t.temp 3 = 1600 && t.hank.map (fun r => (r.kind, r.info0, r.info1)) = [(0x11, 1600, 1600)]) = true ∧
    reads (.thermwarn 3 1599) { base with warnTemp := 1600 } (fun t => mget t.temp 3 = 1599 && t.hank = []) = true ∧ reads (.thermtrip 3 1759) base (fun t => t = base) = true ∧
    reads (.thermtrip 3 1760) base (fun t => t.off && t.grids = [] && t.grp.phase = .absent && t.hank.map (fun r => r.kind) = [0x10] && t.hankFlash = t.hank && t.linkDown = [.host 0, .host 1]) = true := by
  decide +kernel

theorem test_resets : mwf { base with mem := [(0x100, 5), (10 * 2 ^ 53, 6)] }.mem ∧
    reads .powerLoss { base with mem := [(0x100, 5), (10 * 2 ^ 53, 6)], hank := [⟨4096, 1, 0, 0, 0, 0, 0, 0, 0⟩], hankFlash := [⟨0, 2, 0, 0, 0, 0, 0, 0, 0⟩] }
      (fun t => t.off && t.mem = [(10 * 2 ^ 53, 6)] && t.hank.map (fun r => r.seq) = [0] && t.hankFlash = t.hank) = true ∧
    reads .fundamentalReset { base with firmware := ⟨1, 1, 2, [], some (3, 1, []), none, false, none⟩ } (fun t => t.firmware.version = 3 && t.firmware.recovery = some 5 && t.hank.map (fun r => r.kind) = [0x70, 0x31]) = true ∧
    reads .fundamentalReset { base with firmware := { base.firmware with broken := true } } (fun t => t.firmware.recovery.isSome && t.hank.map (fun r => r.kind) = [0x70, 0x31]) = true ∧
    reads .fundamentalReset base (fun t => !t.off && t.boots = 1 && t.firmware.recovery = none && t.hank.map (fun r => r.kind) = [0x70, 0x30]) = true ∧
    reads (.functionLevelReset 1) { base with tags := [⟨5, 1, 0, 0, 1, 0, false⟩, ⟨6, 2, 0, 0, 1, 0, false⟩], queues := [{ cq0 with part := 1 }] } (fun t => t.tags.map (fun x => x.tag) = [6] && t.queues.map (fun q => q.halted) = [true]) = true := by
  decide +kernel

/-- A function-level reset of the PF interrupts a write of the boot region; that of another function leaves it, and its dump's registers (R377, R382, R402). -/
theorem test_function_resets : let s := { base with firmware := { base.firmware with writing := some (⟨0, 0⟩, (3, 2, []), true) }, parts := [{ Partition.initial 1 with dmpVa := 0x40, dmpEn := true, slice := 9 }] }
    reads (.functionLevelReset 0) s (fun t => t.firmware.broken && t.firmware.writing.isNone) = true ∧
    reads (.functionLevelReset 1) s (fun t => t.firmware = s.firmware && (partOf t 1).dmpVa = 0x40 && (partOf t 1).slice = 0) = true := by
  decide +kernel

/-- Reset's memory has its canonical form (the premise of StepKeepsMemory, met by the first state of every run). -/
theorem reset_memWf : State.reset.memWf := by decide +kernel

/-- The registers at reset, as their maps give them, and after changes. -/
theorem test_host_reads : readBar0 ⟨0, 0⟩ 0x4000 State.reset = .data (toBytes 0x3200000000 8) ∧ readBar0 ⟨0, 0⟩ 0x4140 (portS .live) = .data (toBytes 0x802 8) ∧ readBar0 ⟨0, 0⟩ 0x4148 (portS .live) = .data (toBytes 50 8) ∧
    readBar0 ⟨0, 1⟩ 0x4000 State.reset = .data (toBytes 0 8) ∧ readBar0 ⟨0, 0⟩ 0xC000 { base with temp := [(1, 5), (2, 9)] } = .data (toBytes 9 8) ∧
    readBar0 ⟨0, 0⟩ 0xF000 { base with firmware := { base.firmware with recovery := some 5 } } = .data (toBytes 0x501 8) ∧
    readBar4 0x28 8 State.reset = .data [8, 0, 0, 0, 0, 0, 0, 0] ∧ readBar4 0x29 8 State.reset = .ur ∧ readBar0 ⟨0, 0⟩ 0x4000 { base with off := true } = .ur ∧ readBar0 ⟨0, 0⟩ 0x20 { base with pstate := 4 } = .ur ∧
    readBar4 0x28 8 { base with pstate := 4 } = .ur ∧ readBar4 8 8 (stopS true []) = .data [1, 0, 1, 0, 0, 0, 0, 0] := by
  decide +kernel

/-- The window reads the PC of a stopped group, and 0 of a running one. -/
theorem test_window_reads : readBar4 0x8100 8 (stopS true []) = .data [0, 0x10, 0, 0, 0, 0, 0, 0] ∧ readBar4 0x8100 8 base = .data [0, 0, 0, 0, 0, 0, 0, 0] ∧
    readBar4 0x03010008 8 { base with hank := [⟨0, 0x20, 1, 0xFF, 8, 2, 7, 0, 9⟩], hankHead := 1 } = .data [7, 0, 0, 0, 0, 0, 0, 0] ∧
    readBar4 0x03010000 8 { base with hank := [⟨0, 0x20, 1, 0xFF, 8, 2, 7, 0, 9⟩], hankHead := 1 } = .data [0x20, 0xFF, 0x81, 2, 0, 0, 0, 0] := by
  decide +kernel

/-- An ORECV whose s[b] breaks the homes traps at issue, on an empty ring (R197), and a ring that is not the partition's comes before it (log 41). -/
theorem test_receive_faults : let s := { ringS with grp := { ringS.grp with sregs := [(4, BitVec.ofNat 64 (10 * 2 ^ 53)), (6, 4), (7, 8)] } }
    receiveFault s (getS s.grp 4) = some (0x11, BitVec.ofNat 64 (10 * 2 ^ 53)) ∧ receiveFault ringS (getS ringS.grp 4) = none ∧ HasHandler s.grp ∧ Ready (.orecv 3 6 4) s ∧
    traps (.orecv 3 6 4) s 0x11 (BitVec.ofNat 64 (10 * 2 ^ 53)) 0x1000 = true ∧ reads (.orecv 3 7 4) s (fun t => t.grp.cc = ⟨false, false, true, true⟩) = true := by
  decide +kernel

/-- A CXNEW waits in a deterministic launch, and its attempt counts (R328, log 12); CXRET's second test, where a child has come. -/
theorem test_ctx_waits : let s := { ctxS with grid := { grid0 with det := true, part := 1 }, tags := tags0.map fun t => { t with part := 1 }, parts := [{ Partition.initial 1 with tagQuota := 4 }] }
    let p := { s with grp := { s.grp with priv := true } }
    let c := { ctxS with grp := { ctxS.grp with wait := .cxret } }
    tagRoom s 1 = false ∧ Ready (.cxnew 3 4) { s with grp := { s.grp with sregs := [(4, 2)] } } ∧
    reads (.cxnew 3 4) { s with grp := { s.grp with sregs := [(4, 2)] } } (fun t => t.grp.wait = .cxnew && t.grp.clk = 1 && t.ctxWaiters = [⟨1, 0, 0⟩]) = true ∧
    reads (.cxnew 3 4) { p with grp := { p.grp with sregs := [(4, 2)] } } (fun t => t.grp.wait = .cxnew && t.grp.clk = 0) = true ∧
    c.grp.phase = .running ∧ c.grp.Quiet ∧ CommAtMost 0 c ∧ (∃ t ∈ c.tags, t.parent = 4 ∧ t.retiring = false) ∧ getS { c.grp with sregs := [(4, 4)] } 4 = 4 ∧
    reads (.cxret 4) { c with grp := { c.grp with sregs := [(4, 4)] } } (fun t => t.grp.wait = .none && t.grp.cc = ⟨false, false, true, false⟩ && t.tags = tags0) = true := by
  decide +kernel

/-- A window write of WPCTL leaves HIT, and one of the PC of a group inside BAR counts behind BAR (R400, log 30). -/
theorem test_window_writes : let hit := { stopS true [(0xD0, 0x2FF)] with grp := { grp0 with stopped := true, wpEn := 5, wpHit := 2 } }
    let bar := { stopS true [(0x100, 0x1013)] with grp := { grp0 with stopped := true, wait := .barrier 3 0 } }
    reads (.gcmdResume 0 false) hit (fun t => t.grp.wpEn = 0xFF && t.grp.wpHit = 2) = true ∧ bar.grp.wait.begun = true ∧
    reads (.gcmdResume 0 false) bar (fun t => t.grp.pcNext = some 0x1010 && t.grp.pc = 0x1000 && t.grp.wait = .barrier 3 0) = true ∧
    (stopS true []).grp.wait.begun = false ∧ (stopS true []).grp.park = none ∧ (stopS true []).grp.set ≠ .suspended := by
  decide +kernel

/-- The time that the host gives a completion, in a register of each hub (R354, log 6). -/
theorem test_completion_timeouts : reads (.registerWrite (.devCtl2 1) 0x4A) base (fun t => mget t.cto 1 = 10 && t.atomicsOff = [0]) = true ∧ ctoUs base 0 = some 50000 ∧
    ctoUs { base with cto := [(1, 10)] } 1 = some 1000000 ∧ ctoUs { base with cto := [(0, 0x12)] } 0 = none := by
  decide +kernel

/-- A second page's Read: a quota that has fallen since its issue takes nothing away (R369). -/
theorem test_read_out : let s := { pageG .nvme (.issued 1 2 0) with nvmeReads := [⟨1, 0, 0, 288, 0x4000, 1, 2⟩] }
    readOut s 1 0 = true ∧ readOut (pageG .nvme (.issued 1 2 0)) 1 0 = false := by
  decide +kernel

/-- A host atomic that is being replayed holds S at its count: it falls with the answer, and stays held where the answer is a fault (R149, R357). -/
theorem test_host_atomic_held : let s := { hostS with grp := { hostS.grp with held := some .store, cntS := 1 } }
    reads (.hostAtomicCompletion 5 .ok) s (fun t => t.grp.cntS = 0 && t.grp.held = none) = true ∧
    reads (.hostAtomicCompletion 5 .ur) s (fun t => t.grp.cntS = 1 && t.grp.heldTrap = some .store && t.grp.held = none) = true := by
  decide +kernel

/-- EXIT in the handler of a trapped load waits until the handler has skipped it (R44, R149), and that of an atomic to home 10 does not (R383). -/
theorem test_exit_held : let s := fun (f : Bool) => withG fun g => { g with phase := .exiting, intrap := true, priv := true, heldTrap := some .load, cntL := 1, heldFree := f }
    reads (.groupRetire ⟨1, 0, 0⟩) (s false) (fun t => t.grp.phase = .exiting) = true ∧ reads (.groupRetire ⟨1, 0, 0⟩) (s true) (fun t => t.grp.phase = .retired) = true := by
  decide +kernel

/-- The register that an atomic of the donor writes passes with its block (R45). -/
theorem test_donate_outstanding : let s := { withG (fun g => { g with alloc := 2, wait := .donate true 1 1 }) with
      groups := [{ sib with alloc := 3, wait := .donate false 0 1 }], ops := [op0 (.amo .add 20 [(acc0 0x100, 1, 0)])], mem := (0x100, 7) :: base.mem }
    reads (.donateTransfer ⟨1, 0, 0⟩ ⟨1, 0, 1⟩) s (fun t => t.grp.alloc = 1 &&
      (match exec (.atomicCompletion 5) t with
       | .next u => u.grp.vregs = [] && u.groups.map (fun g => mget g.vregs ((20 + 32) * 32)) = [7] && mget u.mem 0x100 = 8
       | _ => false)) = true := by
  decide +kernel

/-- A group of a deterministic launch that has retired at a later point is not seen as retired, nor its team's page as done (R205, R327, log 12). -/
theorem test_seen_ends : let s := { base with grid := { grid0 with det := true, pages := [⟨7, 0, .done, 0x12345, none, none, (9, 0)⟩] }, grp := { grp0 with clk := 8 } }
    let u := { s with grp := { grp0 with clk := 10 } }
    (pageAt s 0).map (fun p => p.st) = some .running ∧ (pageAt u 0).map (fun p => p.st) = some .done ∧
    seenRetired s { sib with phase := .retired, clk := 9 } = false ∧ seenRetired u { sib with phase := .retired, clk := 9 } = true ∧
    seenRetired base { sib with phase := .retired, clk := 9 } = true := by
  decide +kernel

/-- A malformed packet: the error record follows once what the process's teams had outstanding is done (R305). -/
theorem test_halt_record : let s := { queueS (slot 4 1 0 [9, 0, 0, 0, 0, 0, 0]) with
      grid := { grid0 with queue := 3, packet := 0 }, ops := [op0 (.store 4 [(acc0 0x100, 1)] 0)], grp := { grp0 with cntS := 1 } }
    reads (.signal 0 3) s (fun t => t.halts.map (fun h => (h.q, h.check, h.launches)) = [(3, 2, [1])] && (postHalts t).halts.length = 1 && (postHalts { t with ops := [] }).halts = []) = true := by
  decide +kernel

/-- The issuer with threads 0 and 1 acting under k1: thread 0 at 0x100, thread 1 at `hi`:`lo`; data 7 and 9 in register 6. -/
def pairS (hi lo : Word) : State := withG fun g => { g with masks := [(1, 3)], vregs := [(128, 0x100), (129, lo), (161, hi), (192, 7), (193, 9)], sregs := [(4, 0x40000000), (5, 9 * 2 ^ 53)] }

/-- What the checks of a two-thread access of 4 bytes give. -/
def pairGot (s : State) (rd wr : Bool) : State × List Got :=
  gather (fun s => threadAcc s (envOf s) .ls 4 rd wr) wr 4 ((threads (actOf s.grp 1)).map fun t => (t, opnd64 s.grp 4 t + BitVec.signExtend 64 (0 : BitVec 4) * BitVec.ofNat 64 4)) s

/-- Whether the checks `q` leave thread 0's access to be made and thread 1's faulting, `hard` whether its fault can not be replayed. -/
def pairFaults (s : State) (q : State × List Got) (hard : Bool) : Bool :=
  !q.2.all Got.fine && q.2.all (fun x => x.res != .uncorr) && !watched s true true 4 q.2 && !toHost q.2 && (fineAccs q.2).map (fun x => x.thread) = [0] &&
    (q.2.any fun x => x.res.hard) = hard && nowBlocked s (.load 8 4 true (fineAccs q.2)) false = none &&
    nowBlocked s (.store 4 ((fineAccs q.2).map fun x => (x, 7)) 0) false = none && nowBlocked s (.amo .add 8 ((fineAccs q.2).map fun x => (x, 7, 0))) false = none &&
    decide (AmoAccs s 0 ((fineAccs q.2).map fun x => (x, 7, 0)))

/-- Hypotheses of the faulting forms of LoadStoreIssue and AtomicIssue: thread 1 meets a page that is not there, or an address of no home. -/
theorem test_wit_faults_at_issue : ∀ p ∈ [((0 : Nat), (0x40000000 : Nat)), (0x01200000, 0)],
    let s := pairS (BitVec.ofNat 32 p.1) (BitVec.ofNat 32 p.2)
    Ready (.vld 1 8 4 2 0 0 0) s ∧ Ready (.vst 1 6 4 2 0 0 0) s ∧ Ready (.vamoadd 1 8 4 6) s ∧ actOf s.grp 1 ≠ 0 ∧ HasHandler s.grp ∧ s.NoFaultQueue ∧
    pairFaults s (pairGot s true false) (p.1 != 0) = true ∧ pairFaults s (pairGot s false true) (p.1 != 0) = true ∧
    pairFaults s (gather (fun s => threadAmo s (envOf s) .add 4) true 4 ((threads (actOf s.grp 1)).map fun t => (t, opnd64 s.grp 4 t)) s) (p.1 != 0) = true := by
  decide +kernel

/-- R149: the finished thread's access is performed at issue; the group parks for thread 1 alone, its counter one higher, or traps for it. -/
theorem test_faults_at_issue : let park := pairS 0 0x40000000
    let bad := pairS 0x01200000 0
    let m := fun (s : State) => { s with mem := msets s.mem 0x100 [5] }
    reads (.vld 1 8 4 2 0 0 0) (m park) (fun t => t.grp.park.any (fun q => q.mask = 2 && !q.eligible && q.recs.map (fun x => (x.1, x.2.2)) = [(1, 0x40000000)]) && t.grp.held = some .load &&
      t.grp.cntL = 1 && t.grp.pc = 0x1000 && t.grp.set = .suspended && mget t.grp.vregs 256 = 5 && mget t.grp.vregs 257 = 0 && t.ops = []) = true ∧
    reads (.vst 1 6 4 2 0 0 0) (m bad) (fun t => t.grp.unf = 2 && t.grp.replay && t.grp.tcause = 0x11 && t.grp.tval = 0x0120000000000000 && t.grp.epc = 0x1000 && t.grp.heldTrap = some .store &&
      t.grp.cntS = 1 && mget t.mem 0x100 = 7) = true ∧
    reads (.vamoadd 1 8 4 6) (m park) (fun t => t.grp.park.any (fun q => q.mask = 2) && mget t.grp.vregs 256 = 5 && mget t.mem 0x100 = 12 && t.grp.cntS = 1) = true ∧
    reads (.sld 3 4 2 0 0 0) park (fun t => t.grp.park.any (fun q => q.mask = 0xFFFFFFFF) && t.grp.held = some .load && getS t.grp 3 = 0) = true ∧
    reads (.samoadd 3 5 4) park (fun t => t.grp.tcause = 0x11 && t.grp.unf = 0xFFFFFFFF && t.grp.heldTrap = some .store) = true := by
  decide +kernel

/-- Hypotheses of the scalar forms. -/
theorem test_wit_scalar_faults : let s := pairS 0 0x40000000
    Ready (.sld 3 4 2 0 0 0) s ∧ Ready (.sst 3 4 2 0 0 0) s ∧ Ready (.samoadd 3 4 5) s ∧ Ready (.samoadd 3 5 4) s ∧ (getS s.grp 4).toNat % 4 = 0 ∧
    (gather (fun s => threadAcc s (envOf s) .ls 4 true false) false 4 [(0, getS s.grp 4)] s).2.all Got.fine = false ∧
    (gather (fun s => threadAcc s (envOf s) .ls 4 true false) false 4 [(0, getS s.grp 4)] s).2.all (fun x => x.res != .uncorr) = true ∧
    nowBlocked s (.load 0 4 false []) false = none ∧ nowBlocked s (.store 4 [] 0) false = none ∧ nowBlocked s (.amo .add 0 []) false = none ∧
    ((gather (fun s => threadAmo s (envOf s) .add 8) true 8 [(0, getS s.grp 4)] s).2.all fun x => !x.res.hard) = true ∧
    ((gather (fun s => threadAmo s (envOf s) .add 8) true 8 [(0, getS s.grp 5)] s).2.find? fun x => x.res.hard) = some ⟨0, getS s.grp 5, .fault 0x11 (getS s.grp 5) none none⟩ := by
  decide +kernel

/-- The machine with the first 2^30 bytes of home 10 mapped. -/
def hostMap : State := { base with mem := msets base.mem (8 * 2 ^ 53 + 0xA00) [0x01, 0x10, 0, 0, 0, 0, 0x80] }

/-- The same with an address in host memory in register 4, and the hubs whose enable bit is 0. -/
def hostA (off : List Nat) : State := { hostMap with grp := { grp0 with sregs := [(4, BitVec.ofNat 64 (10 * 2 ^ 53 + 0x100)), (6, 2)] }, atomicsOff := off }

/-- Hypotheses of the host forms of AtomicIssue, and what they do (R156, R357). -/
theorem test_host_atomic_issue : let s := hostA []
    let q := gather (fun s => threadAmo s (envOf s) .add 8) true 8 [(0, getS s.grp 4)] s
    let v := { hostA [] with grp := { grp0 with masks := [(1, 1)], vregs := [(128, 0x100), (160, 0x01400000), (192, 7)] } }
    let qv := gather (fun s => threadAmo s (envOf s) .add 4) true 4 ((threads (actOf v.grp 1)).map fun t => (t, opnd64 v.grp 4 t)) v
    Ready (.samoadd 3 4 6) s ∧ Ready (.samomin 3 4 6) s ∧ q.2.all Got.fine = true ∧ toHost q.2 = true ∧ qv.2.all Got.fine = true ∧ toHost qv.2 = true ∧ Ready (.vamoadd 1 8 4 6) v ∧
    (OpKind.samo .add 3 ⟨0, getS s.grp 4, physLoc 10 0x100⟩ 2 0).paused s = false ∧ AtCommPoint s ∧ nowBlocked s (.amo .min 0 []) false = none ∧
    (threadAcc s (envOf s) .amo 8 true true 0 (getS s.grp 4)).fine = true ∧ (hostA [0]).grid.hub ∈ (hostA [0]).atomicsOff ∧ (hostA [0]).grid.hub ∉ (hostA [0]).cxl ∧
    reads (.samoadd 3 4 6) s (fun t => t.grp.wait = .hostAtomic s.nextOp && t.grp.held = some .store && t.grp.cntS = 1 && t.ops.map (fun o => o.host) = [some ⟨[], []⟩] && t.grp.pc = 0x1000) = true ∧
    (∀ p ∈ [(Instr.samomin 3 4 6, ([] : List Nat)), (.samoadd 3 4 6, [0])],
      reads p.1 (hostA p.2) (fun t => t.grp.tcause = 0x50 && t.grp.tval = getS s.grp 4 && t.grp.unf = 0xFFFFFFFF && t.grp.replay && t.grp.heldFree && t.grp.heldTrap = some .store &&
        t.mem = hostMap.mem && t.ops = []) = true) := by
  decide +kernel

/-- Two threads of one atomic at one location: ascending order, each sees the update before (R152). -/
theorem test_atomic_same_place : let accs := [((⟨0, 0x100, at0 0x100⟩ : Access), (3 : Word), (0 : Word)), (⟨5, 0x100, at0 0x100⟩, 4, 0)]
    let s := { withOp (op0 (.amo .add 8 accs)) with mem := (0x100, 10) :: base.mem }
    AmoAccs s 0 accs ∧ amoElem s (fun x y _ => x + y) 8 accs 8 5 = 13 ∧ amoByte s (fun x y _ => x + y) accs 0x100 = 17 ∧
    reads (.atomicCompletion 5) s (fun t => mget t.grp.vregs 256 = 10 && mget t.grp.vregs 261 = 13 && mget t.mem 0x100 = 17) = true := by
  decide +kernel

/-- The issuer in its handler, its TGROUP naming the halted group `q`, with `v` in register 3. -/
def aimS (v : DWord) (q : Group) : State :=
  { withG (fun g => { g with priv := true, intrap := true, tgroup := 1, sregs := [(3, v)] }) with groups := [{ q with haltedBy := [0] }] }

/-- A halted group that is parked in a load. -/
def parkedSib : Group := { sib with park := some ⟨0xF0, [(4, 7, 0x5000)], [], false⟩, held := some .load, cntL := 2, wait := .stall .pagefault, set := .suspended }

/-- Hypotheses of the redirected clauses of SpecialMoves. -/
theorem test_wit_redirect : (∀ q ∈ [sib, parkedSib, { sib with intrap := true }], let s := aimS 0x5007 q
    findGroup s ⟨1, 0, 1⟩ = s.groups.head? ∧ s.groups.map (fun g => g.key) = [{ s.grp.key with idx := s.grp.tgroup.toNat }] ∧ targetKey s ≠ s.grp.key ∧
    (∀ n ∈ [8, 9, 10, 11, 12, 13, 14, 15, 16, 20, 21, 22, 23, 24, 25, 26], Ready (.smfs 3 (BitVec.ofNat 7 n)) s) ∧
    (∀ n ∈ [11, 12, 13, 14, 20, 21, 22, 23, 24, 25, 26], Ready (.smts (BitVec.ofNat 7 n) 3) s) ∧ Ready (.smfk 3 0) s ∧ Ready (.smtk 7 3) s) := by
  decide +kernel

/-- R294-R296: reads and writes that act on the target. -/
theorem test_redirect : let q := fun (t : State) (f : Group → Bool) => t.groups.map f = [true]
    reads (.smts 23 3) (aimS 0x5007 sib) (fun t => q t fun g => g.pc = 0x5004 && g.epc = 0) = true ∧
    reads (.smts 21 3) (aimS 0x25 sib) (fun t => q t fun g => g.posted = some (0x25, 0) && g.tcause = 0) = true ∧
    writes (.smfs 3 24) (aimS 0 parkedSib) 3 0x000000F000000104 = true ∧ writes (.smfs 3 23) (aimS 0 parkedSib) 3 0x1000 = true ∧
    reads (.smts 24 3) (aimS 0x3000000104 parkedSib) (fun t => t.grp.tgroup = 1 && q t fun g => g.park.any (fun p => p.mask = 0x30) && g.held = some .load && g.cntL = 2) = true ∧
    reads (.smts 24 3) (aimS 0x3000000000 parkedSib) (fun t => t.grp.tgroup = 0 && q t fun g => g.park = none && g.held = none && g.cntL = 1 && g.wait = .none && g.set = .pending) = true ∧
    reads (.smts 14 3) (aimS 0 parkedSib) (fun t => t.grp.live = 0xFFFFFFFF && q t fun g => g.live = 0 && g.park = none && g.cntL = 1 && g.phase = .running) = true ∧
    reads (.smtk 7 3) (aimS 0x35 sib) (fun t => getK t.grp 7 = 0 && q t fun g => getK g 7 = 0x35) = true ∧
    reads (.smts 33 3) (aimS 0x4010 sib) (fun t => t.team.tshape.getD 1 0 = 0x4010) = true := by
  decide +kernel

/-- Two DONATEs that name each other and do not match: both fail (R108); a partner's retirement fails one that waits (R117), with the hypotheses of these clauses. -/
theorem test_donate_fails : let s := fun (d : Bool) (n : Nat) => { withG (fun g => { g with alloc := 3 }) with groups := [{ sib with alloc := 2, wait := .donate d 0 n }] }
    let x := { withG (fun g => { g with phase := .exiting }) with groups := [{ sib with wait := .donate true 0 1 }] }
    let both := fun (t : State) => t.grp.cc = ⟨false, false, true, false⟩ && t.grp.alloc = 3 && t.grp.pc = 0x1004 &&
      t.groups.map (fun g => (g.cc, g.alloc, g.pc, g.wait)) = [(⟨false, false, true, false⟩, 2, 0x1004, .none)]
    Ready (.donate 0 1 1) (s true 1) ∧ Ready (.donate 0 1 1) (s false 2) ∧ sib.Quiet ∧ sib.key ≠ grp0.key ∧ tkeyOf sib.key = tkeyOf grp0.key ∧ team0.latches = [] ∧
    reads (.donate 0 1 1) (s true 1) both = true ∧ reads (.donate 0 1 1) (s false 2) both = true ∧
    reads (.groupRetire ⟨1, 0, 0⟩) x (fun t => t.grp.phase = .retired && t.groups.map (fun g => (g.cc, g.pc, g.wait, g.alloc)) = [(⟨false, false, true, false⟩, 0x1004, .none, 8)]) = true := by
  decide +kernel

/-- A push without an allowance, or behind 63 entries, stalls; in a deterministic launch its attempt ends (R167, R328). -/
theorem test_push_stalls : let none_ : State := { base with team := { team0 with queues := List.replicate 16 ⟨true, 0, [1], [], []⟩ } }
    let full : State := { base with team := { team0 with queues := List.replicate 16 ⟨true, 1, List.replicate 63 5, [], []⟩ } }
    let det := { none_ with grid := { grid0 with det := true } }
    (∀ s ∈ [none_, full], AtCommPoint s ∧ s.team.queues.length = 16 ∧ vecPending true true s = none ∧ pathPending 2 s = none ∧ (∀ i ∈ [Instr.qpush 2 4, .qpusht 2 3], Ready i s ∧
      reads i s (fun t => t.grp.wait = .stall .queue && t.grp.pc = 0x1000 && (queueOf t 2).pushers = [0] && (queueOf t 2).entries = (queueOf s 2).entries && (queueOf t 2).allowance = (queueOf s 2).allowance) = true)) ∧
    AtCommPoint det ∧ Ready (.qpush 2 4) det ∧ reads (.qpush 2 4) det (fun t => t.grp.wait = .none && t.grp.pc = 0x1000 && t.grp.clk = 1 && t.team = det.team) = true := by
  decide +kernel

/-- CXGET of tag 0 (R211): LIVE, at depth 0, held by the partition's groups that are in it. -/
theorem test_cxget_zero : let s := { base with groups := [sib, { sib with key := ⟨1, 0, 2⟩, ctx := 3 }, { sib with key := ⟨1, 0, 3⟩, phase := .retired }] }
    Ready (.cxget 3 4) s ∧ reads (.cxget 3 4) s (fun t => getS t.grp 3 = 0x0002000000100000 && t.grp.cc = ⟨true, false, false, false⟩) = true := by
  decide +kernel

/-- The stream of R89's worked encoding. -/
def stream0 : List Byte := [0x0C, 0, 0, 0, 4, 0, 2, 0, 4, 0, 0, 0, 0, 0, 0, 0, 0x11, 9, 0, 0, 0, 0, 0, 0, 0x7F, 0x82, 0x79, 0x80, 0, 0, 0, 0, 0x34, 0x1E, 0xC6, 3, 0xB2, 0x64, 0, 0]

/-- Its inputs, as FP32 words. -/
def inputs0 : List Nat := [0x3F800000, 0x3F400000, 0xBF000000, 0x3EA00000, 0x41400000, 0xC1100000, 0x40B00000, 0, 0x3C000000, 0xBCA00000, 0x3C700000, 0x40400000]

/-- The team's scratchpad with the stream at 0, a list of two indices at 0x40, and the inputs at 0x80. -/
def scratchS : State := { base with team := { team0 with scratch := msets (msets (msets [] 0 stream0) 0x40 [3, 0, 0, 0, 1, 0, 0, 0]) 0x80 (inputs0.flatMap fun x => toBytes x 4) } }

/-- A byte of it. -/
def scr (n : Nat) : Loc := ⟨.scratch ⟨1, 0⟩, n, 0⟩

/-- Who copies there. -/
def scrE : Env := envOf scratchS

/-- What an engine writes, and what ends it. -/
def ran (j : CopyJob) : List Byte × Option EngStop := let r := copyRun scrE none j scratchS; (r.out.map (·.2), r.stop)

/-- The bytes of BF16 values. -/
def bf16s (xs : List Nat) : List Byte := xs.flatMap fun x => toBytes x 2

/-- Hypotheses of the engine's clauses of Copies: every byte of the scratchpad that the copies below touch passes its checks. -/
theorem test_wit_copy_engine : (∀ i, i < 0xB0 → EngReads scratchS scrE (w0 + BitVec.ofNat 64 i) (scr i)) ∧
    (∀ i, i < 0x30 → EngWrites scratchS scrE (w0 + 0x1000 + BitVec.ofNat 64 i) (scr (0x1000 + i))) ∧ (neighbour scratchS scrE.grid.id (scrE.team.spindle / 24 * 24)).isSome = true ∧
    (neighbour scratchS scrE.grid.id (scrE.team.spindle / 24 * 24 + 2)).isSome = false ∧
    (∀ i, i < 4 → EngWrites scratchS scrE (0x01E0010000001000 + BitVec.ofNat 64 i) (scr (0x1000 + i))) := by
  decide +kernel

/-- R89's worked encoding, both ways (R88, R89). -/
theorem test_streams : ran (.cpyd (w0 + 0x1000) w0 0) = (bf16s [0x3F80, 0x3F40, 0xBF00, 0x3E80, 0x4140, 0xC100, 0x40C0, 0, 0x3C00, 0xBCA0, 0x3C80, 0x4040], none) ∧
    ran (.cpyd (w0 + 0x1000) w0 0x40000000) = (bf16s [0x4000, 0x3FC0, 0xBF80, 0x3F00, 0x41C0, 0xC180, 0x4140, 0, 0x3C80, 0xBD20, 0x3D00, 0x40C0], none) ∧
    ran (.cpyc (w0 + 0x1000) (w0 + 0x80) 0x60 (BitVec.ofNat 128 (12 + 4 * 2 ^ 32 + 2 * 2 ^ 40 + 2 ^ 48 + 40 * 2 ^ 96))) =
      ((List.range 40).map fun i => mget scratchS.team.scratch i, none) ∧
    ran (.cpyc (w0 + 0x1000) (w0 + 0x80) 0x60 (BitVec.ofNat 128 (12 + 4 * 2 ^ 32 + 2 * 2 ^ 40 + 2 ^ 48 + 39 * 2 ^ 96))) = ([], some (.plain 2 (w0 + 0x1000))) ∧
    ran (.cpyc (w0 + 0x1000) (w0 + 0x80) 0x60 (BitVec.ofNat 128 (12 + 9 * 2 ^ 32 + 2 ^ 48))) = ([], some (.plain 4 0x60)) ∧
    ran (.cpyd (w0 + 0x1000) (w0 + 8) 0) = ([], some (.plain 1 (w0 + 8))) := by
  decide +kernel

/-- The two passes of R89 on the worked inputs, with the thresholds 2 and 10. -/
theorem test_passes : let xs := inputs0
    (r89Pass 2 xs).2 = [127, 130, 121, 128] ∧ ((List.range 12).filter fun i => (r89Pass 2 xs).1.getD i false) = [0, 4, 8, 11] ∧ (r89Pass 10 xs).2 = [130] ∧
    (xs.zip [127, 127, 127, 127, 130, 130, 130, 130, 121, 121, 121, 128]).map (fun p => r89Mantissa 4 p.2 7 p.1) = [4, 3, -2, 1, 6, -4, 3, 0, 2, -5, 4, 6] ∧
    (xs.map fun x => r89Mantissa 4 130 7 x) = [0, 0, 0, 0, 6, -4, 3, 0, 0, 0, 0, 2] := by
  decide +kernel

/-- CPYS, CPYG and CPYM in the scratchpad: rows with a negative destination stride, elements of 4 bytes, one target without a team (R162-R164). -/
theorem test_copy_forms : (let r := copyRun scrE none (.cpys (w0 + 0x1010) (w0 + 0x80) 0 ⟨2 + 2 * 2 ^ 32 + 4 * 2 ^ 64 + (2 ^ 32 - 8) * 2 ^ 96, by decide⟩) scratchS
      r.out.map (fun p => (p.1.off, p.2)) = [(0x1008, 0), (0x1009, 0), (0x1010, 0), (0x1011, 0)] ∧ r.stop = none) ∧
    ran (.cpyg (w0 + 0x1000) (w0 + 0x80) 0x60 (BitVec.ofNat 128 (2 + 2 * 2 ^ 32 + (w0.toNat + 0x40) * 2 ^ 64))) = ([0, 0, 0xA0, 0x3E, 0, 0, 0x40, 0x3F], none) ∧
    ran (.cpyg (w0 + 0x1000) (w0 + 0x82) 0x60 (BitVec.ofNat 128 (2 + 2 * 2 ^ 32 + (w0.toNat + 0x40) * 2 ^ 64))) = ([], some (.plain 3 (w0 + 0x8E))) ∧
    ran (.cpyg (w0 + 0x1000) (w0 + 0x80) 0x60 (BitVec.ofNat 128 (2 + 2 * 2 ^ 32 + (w0.toNat + 0x42) * 2 ^ 64))) = ([], some (.plain 4 0x60)) ∧
    ran (.cpym (w0 + 0x1000) w0 0x60 (BitVec.ofNat 128 (4 + 5 * 2 ^ 32))) = ([0x0C, 0, 0, 0], some (.plain 5 0x01E0030000001000)) := by
  decide +kernel

/-- An instruction that has waited for two failed ACCLDs traps for each in turn: after the first handler it comes back to the second (R177, R179). -/
theorem test_two_failed_loads : let e := fun (va : DWord) (r : Nat) => (⟨va, .tile, [2], none, some r, none⟩ : EccDue)
    let s := withG fun g => { g with eccPend := [e 0x40 1, e 0x80 2] }
    reads (.vadd 0 8 1 2) s (fun t => t.grp.tcause = 0x70 && t.grp.tval = 0x40 && t.grp.intrap && t.grp.eccPend = [⟨0x80, .tile, [2], none, none, some (0x1000, 2)⟩] &&
      (match exec .eret { t with grid := grid0 } with
       | .next u => u.grp.pc = 0x1000 && u.grp.eccPend = [e 0x80 2] && reads (.vadd 0 8 1 2) u fun v => v.grp.tcause = 0x70 && v.grp.tval = 0x80 && v.grp.epc = 0x1000
       | _ => false)) = true := by
  decide +kernel

/-- The window writes LIVE, and TSTATUS, of a stopped parked group (R24, R400), and the address that PC shows there changes nothing (log 30). -/
theorem test_window_parked : let p := fun (ws : List (Nat × DWord)) => { stopS true ws with grp := { grp0 with stopped := true, park := some ⟨0xF0, [(4, 7, 0x5000)], [], false⟩, held := some .load, cntL := 2, wait := .stall .pagefault, set := .suspended } }
    selected (p []) 0 = some (p []).grp ∧ (p []).pstate ≠ 4 ∧
    reads (.gcmdResume 0 false) (p [(0x70, 0)]) (fun t => t.grp.phase = .exiting && t.grp.live = 0 && t.grp.park = none && t.grp.held = none && t.grp.cntL = 1) = true ∧
    reads (.gcmdResume 0 false) (p [(0xC0, 0x3000000004)]) (fun t => t.grp.park.any (fun q => q.mask = 0x30) && t.grp.cntL = 2) = true ∧
    reads (.gcmdResume 0 false) (p [(0xC0, 0x3000000000)]) (fun t => t.grp.park = none && t.grp.held = none && t.grp.cntL = 1) = true ∧
    reads (.gcmdResume 0 false) (p [(0x100, 0x1000)]) (fun t => t.grp.pcNext = none && t.grp.park.isSome) = true := by
  decide +kernel

/-- A member that waits at a latch stays there when its GANG becomes 0, in a deterministic launch too (R32, R187). -/
theorem test_latch_keeps : let s := { gangS with
      grid := { gangS.grid with det := true }
      grp := { gangS.grp with gang := 0, wait := .latch, cntT := 1 }
      groups := [{ sib with gang := 2 + 1 * 2 ^ 8 }]
      team := { tileS.team with latches := [⟨[0, 1], mmaW, 2 + 1 * 2 ^ 8, [0], some sh0, (0, 0)⟩] } }
    reads (.mma 1 0 2) s (fun t => t.grp.wait = .latch && t.grp.pc = 0x1000 && t.ops = s.ops && t.team.latches = s.team.latches) = true := by
  decide +kernel

/-- A launch that has ended. -/
def endedGrid (s : State) : State := { s with grid := { grid0 with ended := true } }

/-- A VF names an ASID that it has not set, and one that it has: only the second drops a leaf (R360). -/
theorem test_tlbinv_asid : let l := fun (f : State → State) => mgS 0x06 2 fun s => f { s with tlb := [⟨false, 2, 9, 0, 1, 1, true, true, false, false, 0⟩] }
    hasAsid (l id) 2 9 = false ∧ nextCmd (l id) ⟨0, 2⟩ = some mgA ∧ reads (.tlbinv ⟨0, 2⟩ (.asid 9)) (l id) (fun t => (fnOf t ⟨0, 2⟩).mgRd = 1 && t.tlb.length = 1) = true ∧
    reads (.tlbinv ⟨0, 2⟩ (.asid 9)) (l fun s => { s with aspaces := [⟨2, 9, 10, 0⟩] }) (fun t => (fnOf t ⟨0, 2⟩).mgRd = 1 && t.tlb.length = 0) = true := by
  decide +kernel

/-- The remaining answers of ManagementCommands, with the hypotheses of their clauses: FWLOAD while a launch runs, and with a bad image when none does; a drive past 31; POWER 3 and 4. -/
theorem test_mgmt_answers : let fw := fun (a : DWord) (f : State → State) => answers (.fwload ⟨0, 0⟩ a 8 true) (mgS 0x12 0 f) fun t => t.firmware = base.firmware
    fw mgA id = true ∧ fw 9 id = true ∧ fw mgA endedGrid = true ∧ busRead (mgS 0x12 0 id) 0 mgA 8 = some [0x12, 0, 0, 0, 0, 0, 0, 0] ∧ busRead (mgS 0x12 0 id) 0 9 8 = none ∧
    (∀ d ∈ allGrids (mgS 0x12 0 endedGrid), d.ended = true) ∧
    answers (.nvmepass ⟨0, 0⟩ ⟨40, true⟩ (mgA + 64) 9) (mgS 0x14 0 id) (fun t => t.passing = []) = true ∧ answers (.nvmepass ⟨0, 0⟩ ⟨40, true⟩ (mgA + 128) 9) (mgS 0x14 0 id) (fun t => t.passing = []) = true ∧
    answers (.power ⟨0, 0⟩ 3 7) (mgS 0x11 0 id) (fun t => t.pstate = 0 && t.warnTemp = base.warnTemp) = true ∧ (mgS 0x11 0 endedGrid).packets = [] := by
  decide +kernel

theorem test_mgmt_power : answers (.power ⟨0, 0⟩ 4 7) (mgS 0x11 0 endedGrid) (fun t => t.pstate = 4 && t.warnTemp = 7) = true := by
  decide +kernel

/-- The shares of R369, and RINGFREE of a ring that holds entries, or in which a group waits (R230, R350). -/
theorem test_mgmt_more : let q := fun (r i v : Nat) (f : Partition → Bool) => answers (.quota ⟨0, 0⟩ 1 r i v) (mgS 0x0A 0 id) fun t => f (partOf t 1)
    let rs := fun (ws : List GKey) (s : State) => { s with rings := [⟨3, 0, 0, 0, 5, false, 2, [⟨0, [1]⟩, ⟨0, [2]⟩], ws⟩], grp := { grp0 with wait := .orecv 0 }, dropUnbound := 0xFFFFFFFE }
    q 0 0 5 (fun p => p.clusters = 5) = true ∧ q 2 8 5 (fun p => mget p.cellQuota 8 = 5) = true ∧ q 3 0 5 (fun p => p.tagQuota = 5) = true ∧ q 4 0 5 (fun p => p.queueQuota = 5) = true ∧
    q 5 0 5 (fun p => p.creelQuota = 5) = true ∧ q 7 0 5 (fun p => p.treeQuota = 5) = true ∧ q 8 0 5 (fun p => p.drives = 5) = true ∧
    q 9 0 5 (fun p => p = Partition.initial 1) = true ∧ (mgS 0x16 0 (rs [])).rings.any (fun r => r.waiters.any (inOrecv (mgS 0x16 0 (rs [])))) = false ∧
    answers (.ringfree ⟨0, 0⟩ 3) (mgS 0x16 0 (rs [])) (fun t => t.rings = [] && t.dropUnbound = 0xFFFFFFFF) = true ∧
    (mgS 0x16 0 (rs [⟨1, 0, 0⟩])).rings.any (fun r => r.waiters.any (inOrecv (mgS 0x16 0 (rs [⟨1, 0, 0⟩])))) = true ∧
    answers (.ringfree ⟨0, 0⟩ 3) (mgS 0x16 0 (rs [⟨1, 0, 0⟩])) (fun t => t.rings.length = 1 && t.dropUnbound = 0xFFFFFFFE) = true := by
  decide +kernel

/-- P4: the hub is off, and nothing that goes through it happens (R379). -/
theorem test_dark : let d := fun (s : State) => { s with pstate := 4 }
    (∀ p ∈ [(Instr.reclaimComplete 5, { base with tags := [⟨5, 0, 0, 0, 1, 0, true⟩] }), (.moveFails 0 5, { base with tensors := [{ tens0 with st := .moving }] }),
        (.evictionEnd 0 5, { base with tensors := [{ tens0 with st := .evicting }] }), (.faultQueueRoom 0, answerS base), (.linkdown (.port 3), base)],
      reads p.1 (d p.2) (fun t => t = d p.2) = true) ∧
    reads (.thermwarn 3 1600) { d base with warnTemp := 1600 } (fun t => mget t.temp 3 = 1600 && t.hank = []) = true ∧ (base.tags = [] ∧ base.pstate ≠ 4) ∧
    reads (.reclaimComplete 5) { base with tags := [⟨5, 0, 0, 0, 1, 0, true⟩] } (fun t => t.tags = []) = true := by
  decide +kernel

/-- In a deterministic launch an ORECV on a physical ring times out at its point (R327), and a page that has failed at point (0, 0) reads so to every group (R332). -/
theorem test_det_points : let w := { waitS (.orecv 0) (.orecv 3 4 5) [(4, 4)] with groups := [{ sib with clk := 1 }] }
    let det := fun (s : State) => { s with grid := { s.grid with det := true } }
    let late := { det w with grp := { w.grp with clk := 9 } }
    reads (.orecvTimeout ⟨1, 0, 0⟩) (det w) (fun t => t.grp.pc = 0x1004) = true ∧ reads (.orecvTimeout ⟨1, 0, 0⟩) late (fun t => t.grp.wait = .orecv 0 && t.grp.pc = 0x1000) = true ∧
    (pageAt { det base with grid := { grid0 with det := true, pages := [⟨7, 0, .failed, 3, none, none, (0, 0)⟩] } } 0).map (fun p => p.st) = some .failed := by
  decide +kernel

/-- Groups whose counts reach 4096 in one stretch of time are promoted in that order (R319), and not before. -/
theorem test_promotion_order : let s := { withG (fun g => { g with eligCycles := 40000 }) with groups := [{ sib with eligCycles := 40950 }, { sib with key := ⟨1, 0, 2⟩, eligCycles := 0 }] }
    ((tick 100 s).grp.promoted, (tick 100 s).groups.map fun g => g.promoted) = (some (s.nextPromo + 1), [some s.nextPromo, none]) ∧ (tick 1 s).grp.promoted = none := by
  decide +kernel

/-- KEYSET on a slot in use: the leaves that the caches hold of the destroyed key are dropped (R374). -/
theorem test_key_leaves : answers (.keyset ⟨0, 0⟩ 7) (mgS 0x0F 0 fun s => { s with
      keys := [⟨7, 1⟩], nextKey := 2, tlb := [⟨true, 1, 0, 0, 1, 1, true, true, false, false, 1⟩, ⟨true, 1, 0, 0, 2, 2, true, true, false, false, 0⟩] })
      (fun t => t.keys = [⟨7, 2⟩] && t.tlb.map (fun e => e.page) = [2]) = true := by
  decide +kernel

/-- A read of the group window meets an error in a register file, and the hank learns of it (R257, R400). -/
theorem test_window_error : let s := { stopS true [] with ecc := [⟨.sfile ⟨1, 0, 0⟩, 16, 0⟩] }
    (debugRead (0x8000 + 0x150) 8 s).hank.map (fun r => r.kind) = [0x01] ∧ (debugRead (0x8000 + 0x158) 8 s).hank = [] ∧ (debugRead (0x8000 + 0x150) 8 { s with grp := grp0 }).hank = [] := by
  decide +kernel

end Sys2Proof.Tests
end

/-! What stands where in the state: the issuing group, team and grid are found first, and the first member of a list that a change picks is changed there. -/

namespace Sys2Proof.Machine

theorem findGroup_issuing {s : State} {k : GKey} (hk : s.grp.key = k) (hp : s.grp.phase ≠ .absent) : findGroup s k = some s.grp := by
  simp [findGroup, allGroups, hp, hk]

theorem findTeam_issuing {s : State} {k : TKey} (hk : s.team.key = k) (hp : s.team.phase ≠ .absent) : findTeam s k = some s.team := by
  simp [findTeam, allTeams, hp, hk]

theorem findGrid_issuing {s : State} {n : Nat} (hk : s.grid.id = n) (h0 : s.grid.id ≠ 0) : findGrid s n = some s.grid := by
  simp [findGrid, allGrids, h0, ← hk]

theorem updGroup_issuing {s : State} {k : GKey} (f : Group → Group) (hk : s.grp.key = k) (hp : s.grp.phase ≠ .absent) :
    updGroup k f s = { s with grp := f s.grp } := if_pos ⟨hk, hp⟩

theorem updTeam_issuing {s : State} {k : TKey} (f : Team → Team) (hk : s.team.key = k) (hp : s.team.phase ≠ .absent) :
    updTeam k f s = { s with team := f s.team } := if_pos ⟨hk, hp⟩

theorem updGrid_issuing {s : State} {n : Nat} (f : Grid → Grid) (hk : s.grid.id = n) : updGrid n f s = { s with grid := f s.grid } := if_pos hk

theorem find?_updFirst {α : Type} (p : α → Bool) (f : α → α) (hf : ∀ x, p x = true → p (f x) = true) (l : List α) :
    (updFirst p f l).find? p = (l.find? p).map f := by
  induction l with
  | nil => rfl
  | cons x l ih =>
    by_cases hx : p x = true
    · simp [updFirst, hx, hf x hx]
    · simp [updFirst, hx, ih]

/-- A partition after a change of it (R369). -/
theorem partOf_updPart (p : Nat) (f : Partition → Partition) (s : State) (hf : ∀ x, (f x).id = x.id) : partOf (updPart p f s) p = f (partOf s p) := by
  unfold updPart
  split
  case isTrue h =>
    obtain ⟨x, hx⟩ := Option.isSome_iff_exists.1 ((List.any_eq_true.1 h).elim fun x hx => List.find?_isSome.2 ⟨x, hx⟩)
    have hu := find?_updFirst (fun x : Partition => decide (x.id = p)) f (by simp [hf]) s.parts
    simp only [partOf, hu, hx, Option.map_some, Option.getD_some]
  case isFalse h =>
    have hn : s.parts.find? (fun x => decide (x.id = p)) = none := List.find?_eq_none.2 fun x hx hp => h (List.any_eq_true.2 ⟨x, hx, hp⟩)
    have hi : (f (.initial p)).id = p := (hf _).trans rfl
    simp [partOf, List.find?_append, hn, hi]

end Sys2Proof.Machine

/-! Operations on the issuing group: what retirement, a stall and a trap leave of it, and what issue can do. -/

namespace Sys2Proof.Machine

/-- The settings of a group (R18) that neither a register instruction, nor a stall, nor the entry to a handler changes. The counter of loads falls only where
an earlier issue of the instruction has raised one (R149). -/
structure KeepsSettings (g g' : Group) : Prop where
  key : g'.key = g.key
  live : g'.live = g.live
  winbase : g'.winbase = g.winbase
  alloc : g'.alloc = g.alloc
  gang : g'.gang = g.gang
  fpctl : g'.fpctl = g.fpctl
  ctx : g'.ctx = g.ctx
  bwto : g'.bwto = g.bwto
  tvec : g'.tvec = g.tvec
  batchOpen : g'.batchOpen = g.batchOpen
  loads : g.held = none → g'.cntL = g.cntL

/-- The settings and the registers, masks, vector elements and flags. -/
structure KeepsState (g g' : Group) : Prop extends KeepsSettings g g' where
  sregs : g'.sregs = g.sregs
  masks : g'.masks = g.masks
  vregs : g'.vregs = g.vregs
  cc : g'.cc = g.cc

theorem KeepsState.refl (g : Group) : KeepsState g g :=
  ⟨⟨rfl, rfl, rfl, rfl, rfl, rfl, rfl, rfl, rfl, rfl, fun _ => rfl⟩, rfl, rfl, rfl, rfl⟩

/-- The address without a breakpoint and the errors to be taken are marks beside a group's state (R179, R398). -/
theorem KeepsState.marks (g : Group) (bpSkip : Option DWord) (eccPend : List EccDue) : KeepsState g { g with bpSkip, eccPend } :=
  ⟨⟨rfl, rfl, rfl, rfl, rfl, rfl, rfl, rfl, rfl, rfl, fun _ => rfl⟩, rfl, rfl, rfl, rfl⟩

theorem KeepsState.trans {g h k : Group} (a : KeepsState g h) (b : KeepsState h k) (hh : g.held = none → h.held = none) : KeepsState g k where
  key := b.key.trans a.key
  live := b.live.trans a.live
  winbase := b.winbase.trans a.winbase
  alloc := b.alloc.trans a.alloc
  gang := b.gang.trans a.gang
  fpctl := b.fpctl.trans a.fpctl
  ctx := b.ctx.trans a.ctx
  bwto := b.bwto.trans a.bwto
  tvec := b.tvec.trans a.tvec
  batchOpen := b.batchOpen.trans a.batchOpen
  loads hn := (b.loads (hh hn)).trans (a.loads hn)
  sregs := b.sregs.trans a.sregs
  masks := b.masks.trans a.masks
  vregs := b.vregs.trans a.vregs
  cc := b.cc.trans a.cc

/-- The counter of a held instruction falls, and nothing else of the group changes (R149). -/
theorem finishHeld_eq (g : Group) :
    ∃ l st c t, finishHeld g = { g with cntL := l, cntS := st, cntC := c, cntT := t, held := none } ∧ (g.held = none → l = g.cntL) := by
  unfold finishHeld
  split
  case h_1 c hc => cases c <;> exact ⟨_, _, _, _, rfl, fun h => by simp [h] at hc⟩
  case h_2 hc => exact ⟨_, _, _, _, by rw [← hc], fun _ => rfl⟩

/-- Retirement changes the place of a group alone, and the counter of a held instruction. -/
theorem advance_keeps (npc : DWord) (g : Group) :
    KeepsState g (advance npc g) ∧ (advance npc g).hits = g.hits ∧ (advance npc g).stepping = g.stepping := by
  obtain ⟨l, st, c, t, h, hl⟩ := finishHeld_eq g
  simp only [advance, h, and_self, and_true]
  exact ⟨⟨rfl, rfl, rfl, rfl, rfl, rfl, rfl, rfl, rfl, rfl, hl⟩, rfl, rfl, rfl, rfl⟩

theorem stallGrp_keeps (r : Reason) (s : State) : ∃ g, stall r s = { s with grp := g } ∧ KeepsState s.grp g :=
  ⟨_, rfl, ⟨⟨rfl, rfl, rfl, rfl, rfl, rfl, rfl, rfl, rfl, rfl, fun _ => rfl⟩, rfl, rfl, rfl, rfl⟩⟩

theorem enterHandler_keeps (cause : BitVec 8) (tval epc : DWord) (unf : Word) (replay : Bool) (g : Group) :
    KeepsState g (enterHandler cause tval epc unf replay g) :=
  ⟨⟨rfl, rfl, rfl, rfl, rfl, rfl, rfl, rfl, rfl, rfl, fun _ => rfl⟩, rfl, rfl, rfl, rfl⟩

/-- Retirement with no hit to report and no single step changes the group alone. -/
theorem retireTo_plain {s : State} (npc : DWord) (hh : s.grp.hits = none) (hs : s.grp.stepping = false) :
    retireTo npc s = { s with grp := advance npc s.grp } := by
  obtain ⟨-, h1, h2⟩ := advance_keeps npc s.grp
  simp [retireTo, afterRetire, onGrp, h1, h2, hh, hs]

/-- The deferred error of an operation is taken as a trap at the instruction that waits for it, and is due no more (R179). -/
theorem takeEcc_enters {s : State} (e : EccDue) (h : HasHandler s.grp) (hs : s.grp.stepping = false) :
    takeEcc e s = { s with grp := enterHandler 0x70 e.va s.grp.pc 0 false { s.grp with eccPend := s.grp.eccPend.erase e } } :=
  takeTrap_enters (s := { s with grp := { s.grp with eccPend := s.grp.eccPend.erase e } }) 0x70 e.va s.grp.pc 0 false h hs

/-- What the issue of an instruction can do: nothing, where the group does not run or an event ends its wait; its body, where it waits inside the instruction; a
trap at decode, a stall of the interlock, the trap of an error that it has waited for; no work, where a replay has none left; or its body. -/
theorem issue_cases (i : Instr) (s : State) (body : State → State) :
    issue i s body = s ∨ (s.grp.wait.begun = true ∧ issue i s body = body s) ∨
    (∃ f : DecodeFault, issue i s body = decodeTrap f.cause f.tval s.grp.pc (unfOf (checksOf i) s.grp) f.replay s) ∨ (∃ r, issue i s body = stall r s) ∨
    (∃ e, issue i s body = takeEcc e s) ∨ issue i s body = retire s ∨ issue i s body = body (meetRegs (checksOf i) s) := by
  unfold issue issueChecked
  by_cases hp : s.grp.phase ≠ .running
  · exact .inl (if_pos hp)
  rw [if_neg hp]
  by_cases he : (s.grp.wait.onEvent && !(s.grid.det && s.grp.wait = .latch)) = true
  · exact .inl (if_pos he)
  rw [if_neg he]
  by_cases hb : s.grp.wait.begun = true
  · exact .inr (.inl ⟨hb, if_pos hb⟩)
  rw [if_neg hb]
  refine .inr (.inr ?_)
  split
  · exact .inl ⟨_, rfl⟩
  refine .inr ?_
  split
  · exact .inl ⟨_, rfl⟩
  refine .inr ?_
  split
  · exact .inl ⟨_, rfl⟩
  refine .inr ?_
  split
  · exact .inl rfl
  · exact .inr rfl

end Sys2Proof.Machine

/-! The frame of the instructions that reach registers alone (R18, R26, R36, R102, R128-R141). -/

namespace Sys2Proof.Machine

/-- No compare of scalars (R94). -/
def NoCompare (i : Instr) : Prop := (∀ a b, i ≠ .scmp a b ∧ i ≠ .scmpu a b) ∧ ∀ a k, i ≠ .scmpi a k ∧ i ≠ .scmpiu a k

/-- Every scalar register, mask and vector element that is no destination of `i` is the same, and so are the flags unless `i` is a scalar compare. -/
structure KeepsOthers (i : Instr) (g g' : Group) : Prop where
  sregs : ∀ n, Opnd.sd n ∉ i.operands → getS g' n = getS g n
  masks : ∀ n, Opnd.kd n ∉ i.operands → getK g' n = getK g n
  vregs : ∀ r t, t < 32 → (∀ n, Opnd.vd n ∈ i.operands → r ≠ vreg g n) →
    (∀ n, Opnd.vd64 n ∈ i.operands → r ≠ vreg g n ∧ r ≠ vreg g n + 1) → mget g'.vregs (r * 32 + t) = mget g.vregs (r * 32 + t)
  flags : NoCompare i → g'.cc = g.cc

/-- `i` writes its destinations, and nothing else of the group. -/
structure WritesOwn (i : Instr) (g g' : Group) : Prop extends KeepsOthers i g g' where
  rest : ∃ sregs masks vregs cc, g' = { g with sregs, masks, vregs, cc }

theorem KeepsOthers.of_keeps {i : Instr} {g g' : Group} (h : KeepsState g g') : KeepsOthers i g g' where
  sregs n _ := by simp [getS, h.sregs]
  masks n _ := by simp [getK, h.masks, h.live]
  vregs r t _ _ _ := by rw [h.vregs]
  flags _ := h.cc

theorem WritesOwn.refl (i : Instr) (g : Group) : WritesOwn i g g :=
  ⟨.of_keeps (.refl g), g.sregs, g.masks, g.vregs, g.cc, rfl⟩

theorem WritesOwn.vreg_eq {i : Instr} {g h : Group} (w : WritesOwn i g h) (n : Nat) : vreg h n = vreg g n := by
  obtain ⟨_, _, _, _, rfl⟩ := w.rest
  rfl

/-- What other instructions than `i` may rely on lasts over two changes of the registers. -/
theorem KeepsOthers.trans {i : Instr} {g h k : Group} (w : WritesOwn i g h) (o : KeepsOthers i h k) : KeepsOthers i g k where
  sregs n hn := (o.sregs n hn).trans (w.sregs n hn)
  masks n hn := (o.masks n hn).trans (w.masks n hn)
  vregs r t ht h1 h2 := (o.vregs r t ht (by simpa only [w.vreg_eq] using h1) (by simpa only [w.vreg_eq] using h2)).trans (w.vregs r t ht h1 h2)
  flags hc := (o.flags hc).trans (w.flags hc)

theorem WritesOwn.trans {i : Instr} {g h k : Group} (w : WritesOwn i g h) (v : WritesOwn i h k) : WritesOwn i g k := by
  refine ⟨.trans w v.toKeepsOthers, ?_⟩
  obtain ⟨_, _, _, _, rfl⟩ := w.rest
  obtain ⟨_, _, _, _, rfl⟩ := v.rest
  exact ⟨_, _, _, _, rfl⟩

theorem WritesOwn.settings {i : Instr} {g h k : Group} (w : WritesOwn i g h) (v : KeepsSettings h k) : KeepsSettings g k := by
  obtain ⟨_, _, _, _, rfl⟩ := w.rest
  exact ⟨v.key, v.live, v.winbase, v.alloc, v.gang, v.fpctl, v.ctx, v.bwto, v.tvec, v.batchOpen, v.loads⟩

/-! ### The writes of one destination -/

theorem setS_writes {i : Instr} {n : Nat} (hd : Opnd.sd n ∈ i.operands) (v : DWord) (g : Group) : WritesOwn i g (setS n v g) := by
  refine ⟨⟨fun j hj => ?_, fun j _ => ?_, fun r t _ _ _ => ?_, fun _ => ?_⟩, ?_⟩
  · have hne : j ≠ n := fun h => hj (h ▸ hd)
    rw [getS_setS, if_neg hne]
    split <;> simp_all [getS]
  all_goals rw [setS_eq]
  · rfl
  · exact ⟨_, _, _, _, rfl⟩

theorem setK_writes {i : Instr} {n : Nat} (hd : Opnd.kd n ∈ i.operands) (v : Word) (g : Group) : WritesOwn i g (setK n v g) := by
  refine ⟨⟨fun j _ => rfl, fun j hj => ?_, fun _ _ _ _ _ => rfl, fun _ => rfl⟩, ⟨_, _, _, _, rfl⟩⟩
  have hne : j ≠ n := fun h => hj (h ▸ hd)
  simp [getK, setK, hne]

theorem setCC_writes {i : Instr} (hc : ¬ NoCompare i) (c : CC) (g : Group) : WritesOwn i g (setCC c g) :=
  ⟨⟨fun _ _ => rfl, fun _ _ => rfl, fun _ _ _ _ _ => rfl, fun h => absurd h hc⟩, ⟨_, _, _, _, rfl⟩⟩

/-- A vector register that an instruction writes: a destination, or the second of a pair (R21). -/
def VDest (i : Instr) (n : Nat) : Prop := Opnd.vd n ∈ i.operands ∨ Opnd.vd64 n ∈ i.operands ∨ ∃ m, n = m + 1 ∧ Opnd.vd64 m ∈ i.operands

theorem setV_writes {i : Instr} {n t : Nat} (hd : VDest i n) (ht : t < 32) (v : Word) (g : Group) : WritesOwn i g (setV n t v g) := by
  refine ⟨⟨fun _ _ => rfl, fun _ _ => rfl, fun r u hu h1 h2 => ?_, fun _ => rfl⟩, ⟨_, _, _, _, rfl⟩⟩
  have hr : r ≠ vreg g n := by
    obtain hd | hd | ⟨m, rfl, hd⟩ := hd
    · exact h1 n hd
    · exact (h2 n hd).1
    · exact (h2 m hd).2
  have hne : r * 32 + u ≠ vreg g n * 32 + t := by omega
  simp [setV, hne]

theorem setV64_writes {i : Instr} {n t : Nat} (hd : Opnd.vd64 n ∈ i.operands) (ht : t < 32) (v : DWord) (g : Group) : WritesOwn i g (setV64 n t v g) :=
  (setV_writes (.inr (.inl hd)) ht _ g).trans (setV_writes (.inr (.inr ⟨n, rfl, hd⟩)) ht _ _)

theorem foldl_writes {α : Type} {i : Instr} {f : Group → α → Group} (ps : List α) (h : ∀ p ∈ ps, ∀ g, WritesOwn i g (f g p)) (g : Group) :
    WritesOwn i g (ps.foldl f g) := by
  induction ps generalizing g with
  | nil => exact .refl i g
  | cons p ps ih => exact (h p List.mem_cons_self g).trans (ih (fun q hq => h q (List.mem_cons_of_mem _ hq)) _)

/-- The threads of a mask are the 32 of a group. -/
theorem lt_of_mem_threads {m : Word} {t : Nat} (h : t ∈ threads m) : t < 32 := (mem_threads.1 h).1

theorem writeV_writes {i : Instr} {n : Nat} (hd : Opnd.vd n ∈ i.operands) (m : Word) (f : Nat → Word) (g : Group) :
    WritesOwn i g (writeV n (threads m) f g) := by
  refine foldl_writes _ (fun p hp g => ?_) g
  obtain ⟨t, ht, rfl⟩ := List.mem_map.1 hp
  exact setV_writes (.inl hd) (lt_of_mem_threads ht) _ g

theorem writeV64_writes {i : Instr} {n : Nat} (hd : Opnd.vd64 n ∈ i.operands) (m : Word) (f : Nat → DWord) (g : Group) :
    WritesOwn i g (writeV64 n (threads m) f g) := by
  refine foldl_writes _ (fun p hp g => ?_) g
  obtain ⟨t, ht, rfl⟩ := List.mem_map.1 hp
  exact setV64_writes hd (lt_of_mem_threads ht) _ g

/-- A scan writes elements of the threads it is given (R140). -/
theorem prefixSums_threads (f : Option Word → Word → Word) (acc : Option Word) (l : List (Nat × Word)) :
    (prefixSums f acc l).map (·.1) = l.map (·.1) := by
  induction l generalizing acc with
  | nil => rfl
  | cons p l ih => simp [prefixSums, ih]

/-! ### The operand forms -/

/-- The issuing group is inside no other instruction, has a handler and nothing to report when it retires, and no register that `i` names holds an
uncorrectable error. -/
structure IssuesAnew (i : Instr) (s : State) : Prop where
  handler : HasHandler s.grp
  hits : s.grp.hits = none
  stepping : s.grp.stepping = false
  begun : s.grp.wait.begun = false
  errs : regErrs (checksOf i) s = []

/-- The outcome changes the issuing group alone, and there only destinations of `i` and where the group goes on. -/
def Framed (i : Instr) (s : State) (r : Res) : Prop :=
  ∃ g, r = .next { s with grp := g } ∧ KeepsOthers i s.grp g ∧ KeepsSettings s.grp g

theorem Framed.of_keeps {i : Instr} {s t : State} {g : Group} (ht : t = { s with grp := g }) (h : KeepsState s.grp g) : Framed i s (.next t) :=
  ⟨g, by rw [ht], .of_keeps h, h.toKeepsSettings⟩

/-- A group that has written destinations of `i` and then goes on elsewhere. -/
theorem Framed.of_writes {i : Instr} {s t : State} {g h : Group} (ht : t = { s with grp := g }) (w : WritesOwn i s.grp h) (k : KeepsState h g) :
    Framed i s (.next t) :=
  ⟨g, by rw [ht], .trans w (.of_keeps k), w.settings k.toKeepsSettings⟩

theorem takeTrap_framed {s : State} (i : Instr) (cause : BitVec 8) (tval epc : DWord) (unf : Word) (replay : Bool) (h : HasHandler s.grp)
    (hs : s.grp.stepping = false) : Framed i s (.next (takeTrap cause tval epc unf replay s)) :=
  .of_keeps (takeTrap_enters cause tval epc unf replay h hs) (enterHandler_keeps ..)

theorem decodeTrap_framed {s : State} (i : Instr) (f : DecodeFault) (epc : DWord) (unf : Word) (h : HasHandler s.grp) (hs : s.grp.stepping = false) :
    Framed i s (.next (decodeTrap f.cause f.tval epc unf f.replay s)) := by
  rw [decodeTrap, takeTrap_enters _ _ _ _ _ h hs]
  exact .of_keeps rfl ((enterHandler_keeps ..).trans (.marks _ s.grp.bpSkip _) fun _ => rfl)

theorem takeEcc_framed {s : State} (i : Instr) (e : EccDue) (h : HasHandler s.grp) (hs : s.grp.stepping = false) : Framed i s (.next (takeEcc e s)) := by
  rw [takeEcc_enters e h hs]
  exact .of_keeps rfl ((KeepsState.marks s.grp s.grp.bpSkip _).trans (enterHandler_keeps ..) id)

theorem retireTo_framed {i : Instr} {s : State} (h : IssuesAnew i s) {g : Group} (w : WritesOwn i s.grp g) (npc : DWord) :
    Framed i s (.next (retireTo npc { s with grp := g })) := by
  have hg : g.hits = none ∧ g.stepping = false := by
    obtain ⟨_, _, _, _, rfl⟩ := w.rest
    exact ⟨h.hits, h.stepping⟩
  exact .of_writes (retireTo_plain (s := { s with grp := g }) npc hg.1 hg.2) w (advance_keeps npc g).1

/-- What issue does besides the instruction's own work is framed, so an instruction is where its work is. -/
theorem issue_framed {i : Instr} {s : State} {body : State → State} (h : IssuesAnew i s) (hb : Framed i s (.next (body s))) :
    Framed i s (.next (issue i s body)) := by
  obtain hc | ⟨hw, -⟩ | ⟨f, hc⟩ | ⟨r, hc⟩ | ⟨e, hc⟩ | hc | hc := issue_cases i s body
  · rw [hc]
    exact .of_keeps (g := s.grp) rfl (.refl s.grp)
  · simp [h.begun] at hw
  · rw [hc]
    exact decodeTrap_framed i f _ _ h.handler h.stepping
  · obtain ⟨g, hg, k⟩ := stallGrp_keeps r s
    rw [hc]
    exact .of_keeps hg k
  · rw [hc]
    exact takeEcc_framed i e h.handler h.stepping
  · rw [hc]
    exact retireTo_framed h (.refl i s.grp) _
  · rw [hc, meetRegs_none h.errs]
    exact hb

theorem regInstr_framed {i : Instr} {s : State} {f : Group → Group} (h : IssuesAnew i s) (w : WritesOwn i s.grp (f s.grp)) : Framed i s (regInstr i f s) :=
  issue_framed h (retireTo_framed h w _)

theorem vMap_framed {i : Instr} {s : State} {gd : BitVec 2} {d : Nat} {f : Group → Nat → Word} (h : IssuesAnew i s) (hd : Opnd.vd d ∈ i.operands) :
    Framed i s (vMap i gd d f s) := regInstr_framed h (writeV_writes hd _ _ _)

theorem vMap64_framed {i : Instr} {s : State} {gd : BitVec 2} {d : Nat} {f : Group → Nat → DWord} (h : IssuesAnew i s) (hd : Opnd.vd64 d ∈ i.operands) :
    Framed i s (vMap64 i gd d f s) := regInstr_framed h (writeV64_writes hd _ _ _)

theorem vScanOp_framed {i : Instr} {s : State} {gd : BitVec 2} {d a : BitVec 7} {f : Group → Option Word → Word → Word} (h : IssuesAnew i s)
    (hd : Opnd.vd d.toNat ∈ i.operands) : Framed i s (vScanOp i gd d a f s) := by
  refine regInstr_framed h (foldl_writes _ (fun p hp g => setV_writes (.inl hd) ?_ _ g) _)
  have ht := List.mem_map_of_mem (f := (·.1)) hp
  rw [prefixSums_threads, List.map_map] at ht
  obtain ⟨t, ht, he⟩ := List.mem_map.1 ht
  exact he ▸ lt_of_mem_threads ht

/-- A jump to a register's value, which may link LR, or raises ALIGN (R62, R102). -/
theorem jumpTo_framed {i : Instr} {s : State} {link : Bool} (h : IssuesAnew i s) (hl : link = true → Opnd.sd 126 ∈ i.operands) (tgt : DWord) :
    Framed i s (.next (jumpTo tgt link s)) := by
  unfold jumpTo
  split
  · exact takeTrap_framed i _ _ _ _ _ h.handler h.stepping
  · split
    case isTrue hk => exact retireTo_framed h (setS_writes (hl hk) _ _) _
    case isFalse => exact retireTo_framed h (.refl i s.grp) _

end Sys2Proof.Machine

/-! O49: the instructions of the majors SALU to SLI and B to VMOV, each by the destinations that it writes. -/

namespace Sys2Proof.Machine

/-- An instruction word outside the majors that reach registers alone is none of theirs. -/
theorem not_regMajor {i : Instr} {w : Word} (he : encode i = some w)
    (hm : (1 ≤ w.toNat / 2 ^ 26 ∧ w.toNat / 2 ^ 26 ≤ 8) ∨ (0x0C ≤ w.toNat / 2 ^ 26 ∧ w.toNat / 2 ^ 26 ≤ 0x20))
    (h : ∀ n, encodeNat i = some n → n < 2 ^ 32 ∧ (n < 1 * 2 ^ 26 ∨ (9 * 2 ^ 26 ≤ n ∧ n < 0x0C * 2 ^ 26) ∨ 0x21 * 2 ^ 26 ≤ n)) : False := by
  unfold encode at he
  obtain ⟨n, hn, rfl⟩ := Option.map_eq_some_iff.1 he
  obtain ⟨hlt, ho⟩ := h n hn
  rw [BitVec.toNat_ofNat, Nat.mod_eq_of_lt hlt] at hm
  omega

/-- Every instruction of the majors SALU to SLI and B to VMOV is framed: what it computes goes to its destinations. -/
theorem exec_framed {s : State} {i : Instr} {w : Word} (hi : i.isWord = true) (he : encode i = some w)
    (hm : (1 ≤ w.toNat / 2 ^ 26 ∧ w.toNat / 2 ^ 26 ≤ 8) ∨ (0x0C ≤ w.toNat / 2 ^ 26 ∧ w.toNat / 2 ^ 26 ≤ 0x20)) (h : IssuesAnew i s) : Framed i s (exec i s) := by
  cases i with
  | sadd d a b | ssub d a b | smul d a b | smulh d a b | smulhu d a b | sdiv d a b | sdivu d a b | srem d a b | sremu d a b | sand d a b | sor d a b | sxor d a b
  | sandn d a b | sshl d a b | sshr d a b | ssra d a b | smin d a b | smax d a b | sminu d a b | smaxu d a b | ssel d a b | spopc d a | sclz d a | sctz d a | sbrev d a
  | sbfe d a b | sbfi d a b | saddi d a k | sandi d a k | sori d a k | sxori d a k | sshli d a n | sshri d a n | ssrai d a n | sli d z n k | kpopc d a | kffs d a
  | ktos d a b | vballot g d a | vredadd g d a | vredmin g d a | vredmax g d a | vredminu g d a | vredmaxu g d a | vredfadd g d a =>
    exact regInstr_framed h (setS_writes (.head _) _ _)
  | scmp a b | scmpu a b =>
    exact regInstr_framed h (setCC_writes (fun hc => by simpa using hc.1 a b) _ _)
  | scmpi a k | scmpiu a k =>
    exact regInstr_framed h (setCC_writes (fun hc => by simpa using hc.2 a k) _ _)
  | kand d a b | kor d a b | kxor d a b | kandn d a b | knot d a | kmov d a | kfroms d a b | kall d n | vceq g d a b | vcne g d a b | vclt g d a b | vcle g d a b
  | vcltu g d a b | vcleu g d a b | vfceq g d a b | vfcne g d a b | vfclt g d a b | vfcle g d a b | vfcun g d a b | vdceq g d a b | vdclt g d a b | vdcle g d a b =>
    exact regInstr_framed h (setK_writes (.head _) _ _)
  | b c f => exact issue_framed h (retireTo_framed h (.refl _ _) _)
  | call f => exact issue_framed h (retireTo_framed h (setS_writes (.head _) _ _) _)
  | jr a | ret => exact issue_framed h (jumpTo_framed (link := false) h (fun hl => nomatch hl) _)
  | callr a => exact issue_framed h (jumpTo_framed h (fun _ => .head _) _)
  | vadd g d a b | vsub g d a b | vmul g d a b | vmulh g d a b | vmulhu g d a b | vmin g d a b | vmax g d a b | vminu g d a b | vmaxu g d a b | vand g d a b
  | vor g d a b | vxor g d a b | vandn g d a b | vshl g d a b | vshr g d a b | vsra g d a b | vbfe g d a b | vbfeu g d a b | vbfi g d a b | vbrev g d a | vpopc g d a
  | vclz g d a | vctz g d a | vabs g d a | vaddi g d a k | vandi g d a k | vori g d a k | vxori g d a k | vshli g d a n | vshri g d a n | vsrai g d a n | vfadd g d a b
  | vfsub g d a b | vfmul g d a b | vfma g d a b | vfms g d a b | vfmin g d a b | vfmax g d a b | vfabs g d a | vfdiv g d a b | vfsqrt g d a | vfrcp g d a | vfrsq g d a
  | vfexp2 g d a | vflog2 g d a | vffloor g d a | vfrint g d a | vshfl g d a b | vshflx g d a b | vshflu g d a b | vshfld g d a b | vbcast g d a b | vtid g d | vmov g d a
  | vmerge g d a b => exact vMap_framed h (.head _)
  | vsel g d a b => exact regInstr_framed h (writeV_writes (.head _) _ _ _)
  | vscan g d a | vscanf g d a => exact vScanOp_framed h (.head _)
  | vdadd g d a b | vdsub g d a b | vdmul g d a b | vdfma g d a b | vddiv g d a b | vdsqrt g d a | vdmin g d a b | vdmax g d a b => exact vMap64_framed h (.head _)
  | vcvt g d a c =>
    change Framed _ s (execVcvt g d a c s)
    unfold execVcvt
    split
    case isTrue hc => exact vMap64_framed h (List.mem_cons.2 (.inl (if_pos hc).symm))
    case isFalse hc => exact vMap_framed h (List.mem_cons.2 (.inl (if_neg hc).symm))
  | vmfs g d a b =>
    change Framed _ s (execVmfs g d a b s)
    have hb : b = 1 ↔ b.toNat = 1 := BitVec.toNat_inj.symm
    unfold execVmfs
    split
    case isTrue hc => exact vMap64_framed h (List.mem_cons.2 (.inl (if_pos (hb.1 hc)).symm))
    case isFalse hc => exact vMap_framed h (List.mem_cons.2 (.inl (if_neg (mt hb.2 hc)).symm))
  | illegalWord w => exact nomatch hi
  | _ => exact (not_regMajor he hm fun n hn => by cases hn <;> omega).elim

/-- Settles O49: what issue does besides an instruction's work keeps every register, and the work writes the instruction's destinations. -/
theorem registerFrame : Obligations.RegisterFrame := by
  intro s i w hi he major hm hh h1 h2 h3 h4
  obtain ⟨g, hg, o, k⟩ := exec_framed (s := s) hi he hm ⟨hh, h1, h2, h3, h4⟩
  exact ⟨g, hg, o.sregs, o.masks, o.vregs, fun a b => o.flags ⟨a, b⟩, k.key, k.live, k.winbase, k.alloc, k.gang, k.fpctl, k.ctx, k.bwto, k.tvec,
    k.batchOpen, k.loads⟩

end Sys2Proof.Machine

/-! The end of a team by a trap (R47, R298, R403). -/

namespace Sys2Proof.Machine

/-- A trap with no handler, or inside one, ends the team (R47). -/
theorem takeTrap_ends {s : State} (cause : BitVec 8) (tval epc : DWord) (unf : Word) (replay : Bool) (h : s.grp.tvec = 0 ∨ s.grp.intrap = true) :
    takeTrap cause tval epc unf replay s = endTeam cause tval epc unf replay s := by
  simp only [takeTrap, Bool.or_eq_true, decide_eq_true_eq, if_pos h]

/-- The counters that an instruction holds fall, and nothing else of the group changes (R149, R411). -/
theorem dropHeld_eq (g : Group) : dropHeld g = { g with
    cntL := (dropHeld g).cntL, cntS := (dropHeld g).cntS, cntC := (dropHeld g).cntC, cntT := (dropHeld g).cntT
    held := none, heldTrap := none, heldFree := false } := by
  cases hh : g.held with
  | none =>
    cases ht : g.heldTrap with
    | none => simp [dropHeld, hh, ht]
    | some d => cases d <;> simp [dropHeld, hh, ht, cntDown, setCnt]
  | some c =>
    cases ht : g.heldTrap with
    | none => cases c <;> simp [dropHeld, hh, ht, cntDown, setCnt]
    | some d => cases c <;> cases d <;> simp [dropHeld, hh, ht, cntDown, setCnt]

/-- No group of a team that does not run issues (R298). -/
theorem mayIssue_of_ended {s : State} {g : Group} (hk : s.team.key = tkeyOf g.key) (hp : s.team.phase = .ended) : mayIssue s g = false := by
  have hf := findTeam_issuing hk (by simp [hp])
  simp [mayIssue, teamIssues, hf, hp]

/-- The team that a trap has ended is not released while an operation of it is outstanding (R298). -/
theorem endedRelease_busy {s : State} {k : TKey} (h : teamBusy s k = true) : endedRelease k s = s := by
  unfold endedRelease
  split <;> simp [h]

section updPart
variable (p : Nat) (f : Partition → Partition) (s : State)
@[simp] theorem updPart_grp : (updPart p f s).grp = s.grp := by unfold updPart; split <;> rfl
@[simp] theorem updPart_team : (updPart p f s).team = s.team := by unfold updPart; split <;> rfl
@[simp] theorem updPart_ops : (updPart p f s).ops = s.ops := by unfold updPart; split <;> rfl
end updPart

section updGroups
variable (p : Group → Bool) (f : Group → Group) (s : State)
@[simp] theorem updGroups_team : (updGroups p f s).team = s.team := rfl
@[simp] theorem updGroups_grid : (updGroups p f s).grid = s.grid := rfl
@[simp] theorem updGroups_ops : (updGroups p f s).ops = s.ops := rfl
@[simp] theorem partOf_updGroups (n : Nat) : partOf (updGroups p f s) n = partOf s n := rfl
end updGroups

/-- Whether the dump of a partition is armed after a change of it (R403). -/
theorem dmpEn_updPart {p : Nat} {f : Partition → Partition} {s : State} {b : Bool} (hf : ∀ x, (f x).id = x.id) (hb : (f (partOf s p)).dmpEn = b) :
    (partOf (updPart p f s) p).dmpEn = b := by rw [partOf_updPart p f s hf, hb]

/-- A group but for what the end of its team changes of it: its parking, its stop, the halts that others hold on it, and what the halt of the team has found. -/
def SameButHalt (g g' : Group) : Prop := ∃ park stopped haltedBy atHalt, g' = { g with park, stopped, haltedBy, atHalt }

theorem updGroups_sameButHalt {s : State} {g : Group} (p : Group → Bool) {f : Group → Group} (hf : ∀ g, SameButHalt g (f g)) (hg : s.grp = g) :
    SameButHalt g (updGroups p f s).grp := by
  subst hg
  simp only [updGroups]
  split
  · exact ⟨_, _, _, _, rfl⟩
  · split
    · exact hf s.grp
    · exact ⟨_, _, _, _, rfl⟩

/-- What the end of a team leaves where nothing is released yet: the team has ended with its cause, its dump is taken where the partition's is armed, which disarms it, and the
trapped group is as its trap has captured it. -/
theorem endTeam_kept {s : State} (cause : BitVec 8) (tval epc : DWord) (unf : Word) (replay : Bool)
    (hb : (partOf s s.grid.part).dmpEn = true ∨ teamBusy s s.team.key = true) :
    let t := endTeam cause tval epc unf replay s
    (∃ latches, t.team = { s.team with
      phase := .ended, endRec := some ⟨s.grp.key.idx, cause, tval, epc, s.now⟩, dumping := (partOf s s.grid.part).dmpEn || s.team.dumping, latches }) ∧
    SameButHalt (capture cause tval epc unf replay s.grp) t.grp ∧ t.ops = s.ops ∧ (partOf t s.grid.part).dmpEn = false := by
  intro t
  cases hd : (partOf s s.grid.part).dmpEn with
  | true =>
    refine ⟨⟨s.team.latches, ?_⟩, ?_, ?_, ?_⟩ <;> simp only [t, endTeam, hd, if_true]
    · simp [hankAdd]
    · exact updGroups_sameButHalt _ (fun g => ⟨_, _, _, _, rfl⟩) (by simp [hankAdd])
    · simp [hankAdd]
    · exact dmpEn_updPart (fun _ => rfl) rfl
  | false =>
    have hb : teamBusy s s.team.key = true := by simpa [hd] using hb
    refine ⟨⟨[], ?_⟩, ?_, ?_, ?_⟩ <;> simp only [t, endTeam, hd, Bool.false_eq_true, if_false]
    all_goals rw [endedRelease_busy (by simpa [teamBusy, hankAdd] using hb)]
    · simp [hankAdd]
    · exact updGroups_sameButHalt _ (fun g => ⟨_, _, _, _, rfl⟩) (by simp [hankAdd])
    · simp [hankAdd]
    · exact dmpEn_updPart (fun _ => rfl) hd

/-- Settles O29: the trap finds no handler that it may enter, and what the end of the team leaves is said by `endTeam_kept`. -/
theorem teamEnds : Obligations.TeamEnds := by
  intro s n h hv hk hr hb
  have hg := advance_quiet (s.grp.pc + 4) h.2.1 h.2.2.1
  let u : State := { s with grp := s.grp.goTo (s.grp.pc + 4) }
  have he : exec (.trap n) s = .next (endTeam 0x22 (n.setWidth 64) (s.grp.pc + 4) 0 false u) := by
    change Host.Outcome.next (issue _ s (trapAfter 0x22 n)) = _
    rw [issue_ready h, trapAfter, onGrp, hg]
    exact congrArg _ (takeTrap_ends (s := u) _ _ _ _ _ hv)
  obtain ⟨⟨latches, ht⟩, ⟨park, stopped, haltedBy, atHalt, hc⟩, ho, hp⟩ := endTeam_kept (s := u) 0x22 (n.setWidth 64) (s.grp.pc + 4) 0 false hb
  refine ⟨_, he, ?_⟩
  rw [hc, capture, dropHeld_eq, ht]
  refine ⟨rfl, rfl, rfl, rfl, rfl, rfl, rfl, rfl, rfl, rfl, endTeam_mem .., ho, hp, fun g _ hgk => mayIssue_of_ended ?_ ?_⟩ <;> rw [ht]
  exact hgk.symm

end Sys2Proof.Machine

/-! EXIT and the retirement of a group, up to the completion of its team (R44, R117, R179, R204, R246, R248). -/

namespace Sys2Proof.Machine

/-- A group at EXIT whose counters are 0 may leave (R44, R117). -/
theorem mayLeave_of_drained {g : Group} (hp : g.phase = .exiting) (hh : g.held = none) (ht : g.heldTrap = none) (hL : g.cntL = 0) (hS : g.cntS = 0)
    (hC : g.cntC = 0) (hT : g.cntT = 0) (hb : g.batchPend.all (fun p => p.2 = 0) = true) : mayLeave g = true := by
  unfold mayLeave leaves
  cases g.heldFree <;> simpa [dropHeld, hh, ht, hp, hL, hS, hC, hT] using hb

theorem teamRuns_issuing {s : State} {k : GKey} (hk : s.team.key = tkeyOf k) (hr : s.team.phase = .running) : teamRuns s k = true := by
  simp [teamRuns, findTeam_issuing hk (by simp [hr]), hr]

/-- No latch waits for a group that is a member of none, or has arrived (R187). -/
theorem latchesNaming_none {s : State} {k : GKey} (hk : s.team.key = tkeyOf k) (hr : s.team.phase = .running)
    (hl : ∀ l ∈ s.team.latches, k.idx ∉ l.members ∨ k.idx ∈ l.arrived) : latchesNaming s k = [] := by
  rw [latchesNaming, findTeam_issuing hk (by simp [hr])]
  refine List.filter_eq_nil_iff.2 fun l hm hw => ?_
  obtain ⟨hmem, harr⟩ := (Bool.and_eq_true _ _).mp hw
  obtain h | h := hl l hm
  · exact h (List.contains_iff_mem.1 hmem)
  · simp only [List.contains_iff_mem.2 h, Bool.not_true, Bool.false_eq_true] at harr

/-- The issuing group as it retires: it holds no register, leaves its tag, and its halts on others end (R44, R117). -/
def State.retired (s : State) : State :=
  endHalts s.grp.key (leaveTag s.grp.ctx { s with grp := { s.grp with phase := .retired, alloc := 0, wait := .none } })

/-- GROUP_RETIRE of a group that may leave, that no DONATE waits for and no latch (R44, R117). -/
theorem groupRetire_retires {s : State} (hm : mayLeave s.grp = true) (he : s.grp.eccPend = []) (hp : s.grp.phase ≠ .absent) (hr : teamRuns s s.grp.key = true)
    (hd : donateWaiters s s.grp.key = []) (hl : latchesNaming s s.grp.key = []) :
    exec (.groupRetire s.grp.key) s = .next (finishTeam (tkeyOf s.grp.key) s.retired) := by
  change execGroupRetire s.grp.key s = _
  have hf := findGroup_issuing rfl hp
  simp [execGroupRetire, hf, hm, hr, he, hd, hl, retireGroup, updGroup_issuing _ rfl hp, State.retired]

@[simp] theorem retired_team (s : State) : s.retired.team = s.team := rfl

@[simp] theorem retired_mem (s : State) : s.retired.mem = s.mem := by simp [State.retired]

theorem retired_grp (s : State) : s.retired.grp =
    { s.grp with phase := .retired, alloc := 0, wait := .none, haltedBy := s.grp.haltedBy.filter fun i => i ≠ s.grp.key.idx } := by
  simp [State.retired, endHalts, updGroups, leaveTag]

theorem mem_groupsOf {s : State} {k : TKey} {g : Group} : g ∈ groupsOf s k ↔ g ∈ allGroups s ∧ tkeyOf g.key = k := by simp [groupsOf]

theorem mem_allGroups_of_mem {s : State} {g : Group} (h : g ∈ s.groups) : g ∈ allGroups s := List.mem_append_right _ h

/-- Every group is the issuing one or stands beside it. -/
theorem mem_allGroups {s : State} {g : Group} (h : g ∈ allGroups s) : g = s.grp ∨ g ∈ s.groups := by
  obtain h | h := List.mem_append.1 h
  · split at h
    · exact absurd h List.not_mem_nil
    · exact .inl (List.mem_singleton.1 h)
  · exact .inr h

/-- The other groups of the team, which the group holds halted no more (R117). -/
theorem mem_retired_groups {s : State} {g : Group} (h : g ∈ s.retired.groups) : ∃ x ∈ s.groups, tkeyOf g.key = tkeyOf x.key ∧ g.phase = x.phase ∧
    (tkeyOf g.key = tkeyOf s.grp.key → s.grp.key.idx ∉ g.haltedBy) := by
  obtain ⟨x, hx, rfl⟩ := List.mem_map.1 h
  refine ⟨x, hx, ?_⟩
  split
  case isTrue => simp
  case isFalse hn => exact ⟨rfl, rfl, fun hk => absurd (decide_eq_true hk) hn⟩

theorem retired_groups_of_mem {s : State} {x : Group} (h : x ∈ s.groups) : ∃ g ∈ s.retired.groups, g.key = x.key ∧ g.phase = x.phase := by
  refine ⟨_, List.mem_map_of_mem h, ?_⟩
  split <;> exact ⟨rfl, rfl⟩

/-! ### The completion of the team -/

/-- A running team is not released as an ended one (R298). -/
theorem endedRelease_running {s : State} {k : TKey} (hk : s.team.key = k) (hr : s.team.phase = .running) : endedRelease k s = s := by
  unfold endedRelease
  rw [findTeam_issuing hk (by simp [hr])]
  simp [hr]

/-- A team stays while a group of it has not retired, or a tier move or a send of it is on its way (R44, R204, R246, log 42). -/
theorem finishTeam_stays {s : State} {k : TKey} (hk : s.team.key = k) (hr : s.team.phase = .running)
    (h : (∃ g ∈ groupsOf s k, g.phase ≠ .retired) ∨ tierBusy s k = true ∨ fabBusy s k = true) : finishTeam k s = s := by
  have hn : (s.team.phase = .running && ((groupsOf s k).all fun g => g.phase = .retired) && !tierBusy s k && !fabBusy s k) = false := by
    obtain ⟨g, hg, hp⟩ | h | h := h
    · have : ((groupsOf s k).all fun g => g.phase = .retired) = false := List.all_eq_false.2 ⟨g, hg, by simpa using hp⟩
      simp [this]
    · simp [h]
    · simp [h]
  rw [finishTeam, findTeam_issuing hk (by simp [hr])]
  simp only [hn, Bool.false_eq_true, if_false]
  exact endedRelease_running hk hr

/-- A team whose groups have all retired is released with nothing on its way (R44). -/
theorem finishTeam_releases {s : State} {k : TKey} (hk : s.team.key = k) (hr : s.team.phase = .running) (h : ∀ g ∈ groupsOf s k, g.phase = .retired)
    (ht : tierBusy s k = false) (hf : fabBusy s k = false) : finishTeam k s = releaseTeam k false s := by
  have ha : ((groupsOf s k).all fun g => g.phase = .retired) = true := List.all_eq_true.2 fun g hg => by simpa using h g hg
  rw [finishTeam, findTeam_issuing hk (by simp [hr])]
  simp [hr, ha, ht, hf]

/-- What the steps of a release leave of the issuing group, its team and its grid. -/
structure KeepsIssuer (s t : State) : Prop where
  phase : t.grp.phase = s.grp.phase
  alloc : t.grp.alloc = s.grp.alloc
  team : t.team = s.team
  grid : t.grid.id = s.grid.id
  pages : t.grid.pages = s.grid.pages

theorem KeepsIssuer.refl (s : State) : KeepsIssuer s s := ⟨rfl, rfl, rfl, rfl, rfl⟩

theorem KeepsIssuer.trans {s t u : State} (a : KeepsIssuer s t) (b : KeepsIssuer t u) : KeepsIssuer s u :=
  ⟨b.phase.trans a.phase, b.alloc.trans a.alloc, b.team.trans a.team, b.grid.trans a.grid, b.pages.trans a.pages⟩

theorem foldl_keepsIssuer {α : Type} {f : State → α → State} (h : ∀ s x, KeepsIssuer s (f s x)) (l : List α) (s : State) : KeepsIssuer s (l.foldl f s) := by
  induction l generalizing s with
  | nil => exact .refl s
  | cons x l ih => exact (h s x).trans (ih _)

theorem freeSlot_keepsIssuer (c n : Nat) (s : State) : KeepsIssuer s (freeSlot c n s) := by
  unfold freeSlot
  dsimp only
  split
  · split <;> exact ⟨rfl, rfl, rfl, rfl, rfl⟩
  · exact ⟨rfl, rfl, rfl, rfl, rfl⟩

theorem toBack_keepsIssuer (k : GKey) (s : State) : KeepsIssuer s (toBack k s) := by
  unfold toBack updGroup
  dsimp only
  split <;> exact ⟨rfl, rfl, rfl, rfl, rfl⟩

theorem unsuspend_keepsIssuer (k : GKey) (s : State) : KeepsIssuer s (unsuspend k s) := by
  unfold unsuspend
  split
  · split
    · exact toBack_keepsIssuer k s
    · exact .refl s
  · exact .refl s

theorem endWaits_keepsIssuer (launch page : Nat) (s : State) : KeepsIssuer s (endWaits launch page s) :=
  foldl_keepsIssuer (fun _ _ => unsuspend_keepsIssuer _ _) _ _

theorem finishPacket_keepsIssuer (id : Nat) (detail : BitVec 16) (s : State) : KeepsIssuer s (finishPacket id detail s) := by
  unfold finishPacket
  split
  · exact .refl s
  · split <;> exact ⟨rfl, rfl, rfl, rfl, rfl⟩

theorem gridDone_keepsIssuer (launch : Nat) (s : State) : KeepsIssuer s (gridDone launch s) := by
  unfold gridDone
  split
  · split
    · refine .trans ?_ (finishPacket_keepsIssuer _ _ _)
      unfold updGrid
      split <;> exact ⟨rfl, rfl, rfl, rfl, rfl⟩
    · exact .refl s
  · exact .refl s

theorem traceLeft_keepsIssuer (n launch : Nat) (s : State) : KeepsIssuer s (traceLeft n launch s) := by
  unfold traceLeft
  split
  · exact .refl s
  · unfold updDbg
    split <;> exact ⟨rfl, rfl, rfl, rfl, rfl⟩

theorem leaveTag_keepsIssuer (n : BitVec 16) (s : State) : KeepsIssuer s (leaveTag n s) := ⟨rfl, rfl, rfl, rfl, rfl⟩

/-- The groups of a team leave their lanes; one that has retired stays as it is (R298). -/
theorem dropGroups_keepsIssuer (k : TKey) {s : State} (hp : s.grp.phase = .retired) (ha : s.grp.alloc = 0) : KeepsIssuer s (dropGroups k s) := by
  unfold dropGroups
  have hl := foldl_keepsIssuer (fun s g => leaveTag_keepsIssuer (Group.ctx g) s) ((groupsOf s k).filter fun g => g.phase != .retired) s
  refine ⟨?_, ?_, hl.team, hl.grid, hl.pages⟩ <;> simp only [updGroups] <;> split
  · exact hl.phase
  · split
    · exact hp.symm
    · exact hl.phase
  · exact hl.alloc
  · split
    · exact ha.symm
    · exact hl.alloc

/-- A page of the issuing group's grid after a change of it. -/
theorem updPage_issuing {s : State} {launch : Nat} (page : Nat) (f : Page → Page) (h : s.grid.id = launch) :
    updPage launch page f s = { s with grid := { s.grid with pages := s.grid.pages.modify page f } } := updGrid_issuing _ h

/-- The end of a page ends waits for it, and the grid with its last page (R199). -/
theorem pageEnds_keepsIssuer (launch page : Nat) (failed : Bool) (s : State) :
    KeepsIssuer (updPage launch page (fun p => { p with st := if failed then .failed else .done }) s) (pageEnds launch page failed s) :=
  (endWaits_keepsIssuer launch page _).trans (gridDone_keepsIssuer launch _)

/-- The last steps of a release: the team and its page change, its packet counts it, the page ends, and a trace slot that nobody uses is given back. -/
theorem release_ends {u : State} {k : TKey} (F : Team → Team) (G : Page → Page) (id : Nat) (H : Packet → Packet) (n : Nat) (failed : Bool) (hk : u.team.key = k)
    (ht : u.team.phase ≠ .absent) (hg : u.grid.id = k.launch) :
    let t := traceLeft n k.launch (pageEnds k.launch k.team failed (updPacket id H (updPage k.launch k.team G (updTeam k F u))))
    t.grp.phase = u.grp.phase ∧ t.grp.alloc = u.grp.alloc ∧ t.team = F u.team ∧
      t.grid.pages = (u.grid.pages.modify k.team G).modify k.team fun p => { p with st := if failed then .failed else .done } := by
  intro t
  let v : State := { u with team := F u.team, grid := { u.grid with pages := u.grid.pages.modify k.team G } }
  have hv : updPage k.launch k.team G (updTeam k F u) = v := by
    rw [updTeam_issuing F hk ht]
    exact updPage_issuing k.team G hg
  have hp := (pageEnds_keepsIssuer k.launch k.team failed (updPacket id H v)).trans (traceLeft_keepsIssuer n k.launch _)
  rw [updPage_issuing k.team _ (show (updPacket id H v).grid.id = k.launch from hg)] at hp
  simp only [t, hv]
  exact ⟨hp.phase, hp.alloc, hp.team, hp.pages⟩

/-- The release of the issuing group's team, all of whose groups have retired: the team is gone and its page has ended (R44, R203). -/
theorem releaseTeam_issuing {s : State} {k : TKey} (failed : Bool) (hk : s.team.key = k) (ht : s.team.phase ≠ .absent) (hg : s.grid.id = k.launch) (h0 : s.grid.id ≠ 0)
    (hp : s.grp.phase = .retired) (ha : s.grp.alloc = 0) :
    let t := releaseTeam k failed s
    t.grp.phase = .retired ∧ t.grp.alloc = 0 ∧ t.team.phase = .gone ∧
      (t.grid.pages[k.team]?).map (fun p => p.st) = (s.grid.pages[k.team]?).map fun _ => if failed then PageSt.failed else .done := by
  intro t
  have hf : KeepsIssuer s (if s.team.slotFreed || s.grid.hold then s else freeSlot (clusterOf s.team.spindle) s.team.slot s) := by
    split
    · exact .refl s
    · exact freeSlot_keepsIssuer _ _ s
  have hd := hf.trans (dropGroups_keepsIssuer k (hf.phase.trans hp) (hf.alloc.trans ha))
  simp only [t, releaseTeam, findTeam_issuing hk ht, findGrid_issuing hg h0]
  generalize dropGroups k _ = u at hd ⊢
  obtain ⟨h1, h2, h3, h4⟩ := release_ends (u := u) (k := k) _ _ s.grid.packet _ s.team.spindle failed (hd.team ▸ hk) (hd.team ▸ ht) (hd.grid.trans hg)
  refine ⟨h1.trans (hd.phase.trans hp), h2.trans (hd.alloc.trans ha), congrArg Team.phase h3, ?_⟩
  rw [h4, hd.pages]
  simp [Function.comp_def]

/-- With its last group to retire, every group of the team has retired. -/
theorem retired_all {s : State} (h : ∀ g ∈ s.groups, tkeyOf g.key = tkeyOf s.grp.key → g.phase = .retired) :
    ∀ g ∈ groupsOf s.retired (tkeyOf s.grp.key), g.phase = .retired := by
  intro g hg
  obtain ⟨hg, hk⟩ := mem_groupsOf.1 hg
  obtain rfl | hg := mem_allGroups hg
  · rw [retired_grp]
  · obtain ⟨x, hx, hkx, hpx, -⟩ := mem_retired_groups hg
    exact hpx.trans (h x hx (hkx.symm.trans hk))

/-- No tier move is on its way that no group of the team has asked for (R204). -/
theorem tierBusy_none {s : State} {k : TKey} (h : ∀ x ∈ s.tensors, ∀ m ∈ x.movers, tkeyOf m ≠ k) : tierBusy s k = false := by
  refine List.any_eq_false.2 fun x hx => ?_
  have : (x.movers.any fun g => tkeyOf g = k) = false := List.any_eq_false.2 fun m hm => by simpa using h x hx m hm
  simp [this]

theorem exit_stops {s : State} (h : Ready .exit s) (he : s.grp.eccPend = []) :
    exec .exit s = .next { s with grp := { s.grp with phase := .exiting, decoded := none, stallAt := s.cycles } } := by
  change Host.Outcome.next (issue .exit s _) = _
  simp [issue_ready h, eccFirst, he, leaveIssue, onGrp, h.2.1]

theorem exit_takesEcc {s : State} {e : EccDue} {rest : List EccDue} (h : Ready .exit s) (hh : HasHandler s.grp) (he : s.grp.eccPend = e :: rest) :
    exec .exit s = .next { s with grp := enterHandler 0x70 e.va s.grp.pc 0 false { s.grp with eccPend := rest } } := by
  change Host.Outcome.next (issue .exit s _) = _
  have := takeEcc_enters e hh h.2.2.1.2.1
  simp [issue_ready h, eccFirst, he, this]

/-- Settles O30: the group retires, and its team stays, or is released with its last group and nothing on its way. -/
theorem exitAndRetire : Obligations.ExitAndRetire := by
  refine fun s => ⟨exit_stops, fun h hh e rest he => ⟨_, exit_takesEcc h hh he, rfl, rfl, rfl, rfl, rfl, rfl⟩, ?_⟩
  intro hp hh hht hL hS hC hT hb he hk hr hl hd hg h0 i
  have hx := groupRetire_retires (mayLeave_of_drained hp hh hht hL hS hC hT hb) he (by simp [hp]) (teamRuns_issuing hk hr) hd (latchesNaming_none hk hr hl)
  refine ⟨fun ⟨x, hx1, hx2, hx3⟩ => ?_, fun ha hb => ?_, fun ha hm hf => ?_⟩
  · obtain ⟨g, hg1, hg2, hg3⟩ := retired_groups_of_mem hx1
    have hs := finishTeam_stays (s := s.retired) hk hr (.inl ⟨g, mem_groupsOf.2 ⟨mem_allGroups_of_mem hg1, hg2 ▸ hx2⟩, hg3 ▸ hx3⟩)
    rw [hs] at hx
    refine ⟨_, hx, retired_grp s, rfl, rfl, rfl, fun g hg hkg => ?_⟩
    obtain ⟨_, _, _, _, hn⟩ := mem_retired_groups hg
    exact hn hkg
  · have hs := finishTeam_stays (s := s.retired) hk hr (.inr (hk ▸ hb))
    rw [hs] at hx
    exact ⟨_, hx, by rw [retired_grp], by rw [retired_grp], rfl, rfl, rfl⟩
  · have hs := finishTeam_releases (s := s.retired) hk hr (retired_all ha) (hk ▸ tierBusy_none (s := s.retired) hm) (hk ▸ hf)
    rw [hs] at hx
    obtain ⟨h1, h2, h3, h4⟩ := releaseTeam_issuing (s := s.retired) false hk (by rw [retired_team, hr]; exact nofun) hg h0 (by rw [retired_grp]) (by rw [retired_grp])
    exact ⟨_, hx, h1, h2, by simp, h3, hk ▸ h4⟩

end Sys2Proof.Machine

/-! DONATE: a group at EXIT that waits for a DONATE of its own (R108, R117). -/

namespace Sys2Proof.Machine

/-- A group at EXIT whose wait names itself as the partner of a DONATE, with a watchpoint hit to report and no handler. -/
def selfPartner : Group :=
  { Group.initial with key := ⟨1, 0, 0⟩, phase := .exiting, wait := .donate true 0 1, hits := some ⟨1, 0, 0, false⟩ }

/-- A group of its team that waits in a DONATE for it. -/
def donatePartner : Group := { Group.initial with key := ⟨1, 0, 1⟩, phase := .running, wait := .donate true 0 1 }

/-- Both in a running team of a partition whose dump is armed. -/
def selfPartnerState : State :=
  { State.reset with
    grp := selfPartner
    groups := [donatePartner]
    team := { Team.initial with key := ⟨1, 0⟩, phase := .running }
    grid := { Grid.initial with id := 1 }
    parts := [{ Partition.initial 0 with dmpEn := true }] }

/-- The phase of the issuing group after an outcome. -/
def phaseAfter : Res → Option GPhase
  | .next t => some t.grp.phase
  | _ => none

/-- The retirement ends the group's wait on itself first: its hit is reported, the trap finds no handler and ends the team, and a group of an ended team does not retire. -/
theorem selfPartner_stays : phaseAfter (exec (.groupRetire selfPartner.key) selfPartnerState) = some .exiting := by decide +kernel

/-- Refutes O32: a group at EXIT whose wait is a DONATE that names itself, with a watchpoint hit to report and no handler. The end of that wait traps, the trap ends
the team, and the group does not retire. -/
theorem not_donate : ¬ Obligations.Donate := by
  intro h
  obtain ⟨-, -, -, hwait⟩ := h selfPartnerState 0 0 0 (by decide)
  obtain ⟨-, hretire⟩ := hwait donatePartner true 1 rfl rfl (by decide) rfl (by decide) rfl rfl rfl rfl (by decide)
  obtain ⟨t, -, ht, -, -, -, hp, -⟩ := hretire rfl rfl rfl rfl rfl rfl rfl rfl rfl (fun _ hl => nomatch hl)
  have hs := selfPartner_stays
  rw [show exec (.groupRetire selfPartner.key) selfPartnerState = .next t from ht, phaseAfter, hp] at hs
  exact nomatch hs

end Sys2Proof.Machine

/-! The operations on bits (R78-R80, R93, R95, R97, R129), each by its value: what a count counts, what a mask of bits holds, and what an insertion leaves. -/

namespace Sys2Proof.Machine

theorem maskOf_lt (p : Nat → Bool) (n : Nat) : maskOf p n < 2 ^ n := by
  induction n with
  | zero => simp [maskOf]
  | succ n ih =>
    simp only [maskOf, Nat.pow_succ]
    split <;> omega

theorem testBit_maskOf (p : Nat → Bool) (n i : Nat) : (maskOf p n).testBit i = (decide (i < n) && p i) := by
  induction n with
  | zero => simp [maskOf]
  | succ n ih =>
    have hm : maskOf p (n + 1) = 2 ^ n * (if p n then 1 else 0) + maskOf p n := by
      rw [maskOf, Nat.add_comm]
      split <;> simp
    rw [hm, Nat.testBit_two_pow_mul_add _ (maskOf_lt p n), ih]
    obtain hi | rfl | hi := Nat.lt_trichotomy i n
    · simp [hi, Nat.lt_succ_of_lt hi]
    · cases p i <;> simp
    · have h1 : (if p n then 1 else 0) < 2 ^ (i - n) :=
        calc (if p n then 1 else 0) < 2 ^ 1 := by split <;> decide
          _ ≤ 2 ^ (i - n) := Nat.pow_le_pow_right (by decide) (by omega)
      simp [Nat.testBit_lt_two_pow h1, show ¬ i < n by omega, show ¬ i < n + 1 by omega]

theorem getLsbD_threadMask (p : Nat → Bool) {t : Nat} (ht : t < 32) : (threadMask p).getLsbD t = p t := by
  rw [threadMask, BitVec.getLsbD_ofNat, testBit_maskOf]
  simp [ht]

theorem getLsbD_brev {w : Nat} (x : BitVec w) {i : Nat} (hi : i < w) : (brev x).getLsbD i = x.getLsbD (w - 1 - i) := by
  rw [brev, BitVec.getLsbD_ofNat, testBit_maskOf]
  simp [hi, BitVec.getLsbD]

theorem popN_eq_countP (x n : Nat) : popN x n = (List.range n).countP fun i => x.testBit i := by
  induction n with
  | zero => rfl
  | succ n ih => simp [popN, ih, List.range_succ, List.countP_append, List.countP_singleton, bitOf]

theorem popcount_eq_countP {w : Nat} (x : BitVec w) : popcount x = (List.range w).countP fun i => x.getLsbD i := popN_eq_countP x.toNat w

/-- The least number for which `p` fails is how many come before it. -/
theorem length_takeWhile_range {p : Nat → Bool} {k n : Nat} (hk : k ≤ n) (hb : ∀ i < k, p i = true) (hs : k < n → p k = false) :
    ((List.range n).takeWhile p).length = k := by
  obtain ⟨m, rfl⟩ := Nat.exists_eq_add_of_le hk
  rw [List.range_add, List.takeWhile_append_of_pos fun i hi => hb i (List.mem_range.1 hi)]
  cases m with
  | zero => simp
  | succ m => simp [List.range_succ_eq_map, hs (by omega)]

theorem findFrom_eq_takeWhile (p : Nat → Bool) (n fuel : Nat) :
    (findFrom p n fuel).getD (n + fuel) = n + ((List.range fuel).takeWhile fun i => !p (n + i)).length := by
  induction fuel generalizing n with
  | zero => rfl
  | succ fuel ih =>
    rw [findFrom, List.range_succ_eq_map]
    cases hp : p n with
    | true => simp [hp]
    | false =>
      have hi : (fun i => !p (n + (i + 1))) = fun i => !p (n + 1 + i) := funext fun i => by rw [Nat.add_comm i, Nat.add_assoc]
      rw [show n + (fuel + 1) = n + 1 + fuel by omega, if_neg (by simp), ih]
      simp [hp, List.takeWhile_map, Function.comp_def, hi]
      omega

theorem ctz_eq_takeWhile {w : Nat} (x : BitVec w) : ctz x = ((List.range w).takeWhile fun i => !x.getLsbD i).length := by
  simpa [ctz, BitVec.getLsbD] using findFrom_eq_takeWhile (fun i => x.toNat.testBit i) 0 w

theorem clz_eq_takeWhile {w : Nat} (x : BitVec w) : clz x = ((List.range w).takeWhile fun i => !x.getLsbD (w - 1 - i)).length := by
  unfold clz
  split
  case isTrue hx => exact hx ▸ (length_takeWhile_range (Nat.le_refl w) (by simp) (by simp)).symm
  case isFalse hx =>
    have h0 : x.toNat ≠ 0 := by simpa [BitVec.toNat_eq] using hx
    have hw : Nat.log2 x.toNat < w := (Nat.log2_lt h0).2 x.isLt
    refine (length_takeWhile_range (by omega) (fun i hi => ?_) fun hl => ?_).symm
    · have : x.toNat < 2 ^ (w - 1 - i) := (Nat.log2_lt h0).1 (by omega)
      simp [BitVec.getLsbD, Nat.testBit_lt_two_pow this]
    · have : w - 1 - (w - 1 - Nat.log2 x.toNat) = Nat.log2 x.toNat := by omega
      simp [BitVec.getLsbD, this, Nat.testBit_log2 h0]

theorem sra_eq_ite {w : Nat} (x : BitVec w) (n : Nat) : sra x n = if w ≤ n then (if x.msb then BitVec.allOnes w else 0) else x.sshiftRight n := by
  unfold sra
  split
  case isTrue h =>
    rw [Nat.min_eq_right h]
    ext i hi
    rw [BitVec.getElem_sshiftRight, dif_neg (by omega)]
    cases x.msb <;> simp
  case isFalse h => rw [Nat.min_eq_left (by omega)]

theorem smin_eq_ite {w : Nat} (x y : BitVec w) : smin x y = if x.toInt < y.toInt then x else y := by simp [smin, BitVec.slt]

theorem smax_eq_ite {w : Nat} (x y : BitVec w) : smax x y = if x.toInt < y.toInt then y else x := by simp [smax, BitVec.slt]

theorem umin_eq_ite {w : Nat} (x y : BitVec w) : umin x y = if x.toNat < y.toNat then x else y := by simp [umin, BitVec.ult]

theorem umax_eq_ite {w : Nat} (x y : BitVec w) : umax x y = if x.toNat < y.toNat then y else x := by simp [umax, BitVec.ult]

theorem divu_eq_ite {w : Nat} (x y : BitVec w) : divu x y = if y = 0 then BitVec.allOnes w else BitVec.ofNat w (x.toNat / y.toNat) := by
  rw [divu, BitVec.udiv_def]

theorem remu_eq_ite {w : Nat} (x y : BitVec w) : remu x y = if y = 0 then x else BitVec.ofNat w (x.toNat % y.toNat) := by
  rw [remu, BitVec.umod_def]

theorem bfMask_eq_ite (y : DWord) :
    bfMask y = if min (fieldN y 8 7) 64 = 64 then 0xFFFFFFFFFFFFFFFF else ((1 : DWord) <<< min (fieldN y 8 7) 64) - 1 := by
  unfold bfMask
  generalize hn : min (fieldN y 8 7) 64 = n
  split
  case isTrue h => subst h; rfl
  case isFalse h =>
    have hlt : n < 64 := by omega
    refine BitVec.eq_of_toNat_eq ?_
    have h2 : 2 ^ n < 2 ^ 64 := Nat.pow_lt_pow_right (by decide) hlt
    have := Nat.two_pow_pos n
    simp [BitVec.toNat_sub, Nat.shiftLeft_eq]
    omega

/-- SLI's bits: the 16 of the immediate at their place, every other as the register held it, or 0 where it was cleared (R97). -/
theorem getLsbD_sliVal (z : BitVec 1) (h : BitVec 2) (i : BitVec 16) (x : DWord) {j : Nat} (hj : j < 64) :
    (sliVal z h i x).getLsbD j = if j / 16 = h.toNat then i.getLsbD (j % 16) else (if z = 1 then 0 else x : DWord).getLsbD j := by
  have hones : ∀ k, (0xFFFF : DWord).getLsbD k = decide (k < 16) := fun k => by
    rw [show (0xFFFF : DWord) = BitVec.ofNat 64 (2 ^ 16 - 1) from rfl, BitVec.getLsbD_ofNat, Nat.testBit_two_pow_sub_one]
    by_cases hk : k < 16 <;> simp [hk]; omega
  simp only [sliVal, BitVec.getLsbD_or, BitVec.getLsbD_and, BitVec.getLsbD_not, BitVec.getLsbD_shiftLeft, BitVec.getLsbD_setWidth, hones, hj, decide_true,
    Bool.true_and]
  by_cases hh : j / 16 = h.toNat
  case pos =>
    have h1 : ¬ j < h.toNat * 16 := by omega
    have h2 : j - h.toNat * 16 = j % 16 := by omega
    have h3 : j % 16 < 16 ∧ j % 16 < 64 := by omega
    simp [hh, h1, h2, h3]
  case neg =>
    have h1 : j < h.toNat * 16 ∨ 16 ≤ j - h.toNat * 16 := by omega
    obtain h1 | h1 := h1
    · simp [hh, h1]
    · simp [hh, show ¬ j - h.toNat * 16 < 16 by omega, BitVec.getLsbD_of_ge i _ h1]

end Sys2Proof.Machine

/-! O7: the results of the SALU, scalar-immediate and SLI functions (R78-R80, R93, R95-R97). -/

namespace Sys2Proof.Machine

/-- An instruction that writes one scalar register, its value given in another form. -/
theorem writesScalar_of_eq {i : Instr} {s : State} {d : BitVec 7} {f : Group → DWord} {v : DWord}
    (hx : exec i s = regInstr i (fun g => setS d.toNat (f g) g) s) (hv : f s.grp = v) (h : Ready i s) : WritesScalar i s d v :=
  hv ▸ writesScalar h hx

/-- Settles O7: each function writes one scalar register, and its value is the one that the lemmas on the operations on bits give. -/
theorem scalarArithmetic : Obligations.ScalarArithmetic := by
  refine ⟨fun s d a b => ?_, fun s d a => ?_, fun s d a im n z h i16 => ?_⟩
  case refine_1 =>
    intro x y z len m pos
    have hm : bfMask y = m := bfMask_eq_ite y
    have sbfe : sbfeVal x y = (x >>> pos) &&& m := by rw [sbfeVal, hm, bfPos]
    have sbfi : sbfiVal z x y = (z &&& ~~~(m <<< pos)) ||| ((x &&& m) <<< pos) := by rw [sbfiVal, hm, bfPos]
    simp only [List.forall_mem_cons, List.not_mem_nil, false_implies, implies_true, and_true]
    exact ⟨
      -- R78: addition, subtraction, multiplication
      writesScalar_of_eq rfl rfl, writesScalar_of_eq rfl rfl, writesScalar_of_eq rfl rfl, writesScalar_of_eq rfl rfl, writesScalar_of_eq rfl rfl,
      -- R80: SDIV, SDIVU, SREM, SREMU
      writesScalar_of_eq rfl rfl, writesScalar_of_eq rfl (divu_eq_ite x y), writesScalar_of_eq rfl rfl, writesScalar_of_eq rfl (remu_eq_ite x y),
      -- the logic functions
      writesScalar_of_eq rfl rfl, writesScalar_of_eq rfl rfl, writesScalar_of_eq rfl rfl, writesScalar_of_eq rfl rfl,
      -- R79: SSHL, SSHR, SSRA
      writesScalar_of_eq rfl rfl, writesScalar_of_eq rfl rfl, writesScalar_of_eq rfl (sra_eq_ite x y.toNat),
      -- SMIN, SMAX, SMINU, SMAXU
      writesScalar_of_eq rfl (smin_eq_ite x y), writesScalar_of_eq rfl (smax_eq_ite x y),
      writesScalar_of_eq rfl (umin_eq_ite x y), writesScalar_of_eq rfl (umax_eq_ite x y),
      -- SSEL; R95: SBFE, SBFI
      writesScalar_of_eq rfl (ite_not (z = 0) x y).symm, writesScalar_of_eq rfl sbfe, writesScalar_of_eq rfl sbfi⟩
  case refine_2 =>
    exact ⟨writesScalar_of_eq rfl (congrArg cnt64 (popcount_eq_countP _)), writesScalar_of_eq rfl (congrArg cnt64 (clz_eq_takeWhile _)),
      writesScalar_of_eq rfl (congrArg cnt64 (ctz_eq_takeWhile _)), fun r => ⟨_, fun _ hi => getLsbD_brev _ hi, writesScalar r rfl⟩⟩
  case refine_3 =>
    refine ⟨?_, fun r => ⟨_, writesScalar r rfl, fun _ hj => getLsbD_sliVal z h i16 _ hj⟩⟩
    simp only [List.forall_mem_cons, List.not_mem_nil, false_implies, implies_true, and_true]
    exact ⟨writesScalar_of_eq rfl rfl, writesScalar_of_eq rfl rfl, writesScalar_of_eq rfl rfl, writesScalar_of_eq rfl rfl, writesScalar_of_eq rfl rfl,
      writesScalar_of_eq rfl rfl, writesScalar_of_eq rfl rfl⟩

end Sys2Proof.Machine

/-! The writes of vector elements and of the mask of a compare (R20, R21, R124, R133), each read element by element. -/

namespace Sys2Proof.Machine

/-- An instruction that the group executes normally is well formed (R63). -/
theorem wf_of_ready {i : Instr} {s : State} (h : Ready i s) : i.wf = true := by
  obtain ⟨-, -, -, hd, -⟩ := h
  cases hw : i.wf with
  | true => rfl
  | false => simp [decodeFault, checksOf, hw] at hd

/-- A mask destination is one of k1-k7 (R24, R53). -/
theorem maskDest_ne_zero {i : Instr} {s : State} {n : Nat} (h : Ready i s) (hk : Opnd.kd n ∈ i.operands) : n ≠ 0 := by
  have hok := List.all_eq_true.1 (Bool.and_eq_true_iff.1 (wf_of_ready h)).2 _ hk
  simp only [Opnd.ok, Bool.and_eq_true, decide_eq_true_eq] at hok
  omega

theorem mget_setV (n : Nat) {t u : Nat} (v : Word) (g : Group) (r : Nat) (ht : t < 32) (hu : u < 32) :
    mget (setV n t v g).vregs (r * 32 + u) = if r = vreg g n ∧ u = t then v else mget g.vregs (r * 32 + u) := by
  have hk : r * 32 + u = vreg g n * 32 + t ↔ r = vreg g n ∧ u = t := by omega
  simp only [setV, mget_mset, hk]

theorem mget_setV64 (n : Nat) {t u : Nat} (v : DWord) (g : Group) (r : Nat) (ht : t < 32) (hu : u < 32) :
    mget (setV64 n t v g).vregs (r * 32 + u) =
      if r = vreg g n ∧ u = t then v.extractLsb' 0 32 else if r = vreg g n + 1 ∧ u = t then v.extractLsb' 32 32 else mget g.vregs (r * 32 + u) := by
  have hv : vreg (setV n t (v.extractLsb' 0 32) g) (n + 1) = vreg g n + 1 := rfl
  rw [setV64, mget_setV _ _ _ _ ht hu, mget_setV _ _ _ _ ht hu, hv]
  by_cases hr : r = vreg g n + 1 <;> simp [hr]

theorem writeV_rest (d : Nat) (ts : List Nat) (f : Nat → Word) (g : Group) : writeV d ts f g = { g with vregs := (writeV d ts f g).vregs } := by
  induction ts generalizing g with
  | nil => rfl
  | cons t ts ih => exact ih (setV d t (f t) g)

theorem writeV64_rest (d : Nat) (ts : List Nat) (f : Nat → DWord) (g : Group) : writeV64 d ts f g = { g with vregs := (writeV64 d ts f g).vregs } := by
  induction ts generalizing g with
  | nil => rfl
  | cons t ts ih => exact ih (setV64 d t (f t) g)

theorem mget_writeV (d : Nat) {ts : List Nat} (hts : ∀ t ∈ ts, t < 32) (f : Nat → Word) (g : Group) (r : Nat) {u : Nat} (hu : u < 32) :
    mget (writeV d ts f g).vregs (r * 32 + u) = if r = vreg g d ∧ u ∈ ts then f u else mget g.vregs (r * 32 + u) := by
  induction ts generalizing g with
  | nil => simp [writeV]
  | cons t ts ih =>
    obtain ⟨ht, hts⟩ := List.forall_mem_cons.1 hts
    refine (ih hts (setV d t (f t) g)).trans ?_
    rw [mget_setV _ _ _ _ ht hu, show vreg (setV d t (f t) g) d = vreg g d from rfl]
    obtain rfl | hne := Decidable.em (u = t)
    · by_cases hr : r = vreg g d <;> simp [hr]
    · simp [hne]

theorem mget_writeV64 (d : Nat) {ts : List Nat} (hts : ∀ t ∈ ts, t < 32) (f : Nat → DWord) (g : Group) (r : Nat) {u : Nat} (hu : u < 32) :
    mget (writeV64 d ts f g).vregs (r * 32 + u) =
      if r = vreg g d ∧ u ∈ ts then (f u).extractLsb' 0 32 else if r = vreg g d + 1 ∧ u ∈ ts then (f u).extractLsb' 32 32
      else mget g.vregs (r * 32 + u) := by
  induction ts generalizing g with
  | nil => simp [writeV64]
  | cons t ts ih =>
    obtain ⟨ht, hts⟩ := List.forall_mem_cons.1 hts
    refine (ih hts (setV64 d t (f t) g)).trans ?_
    rw [mget_setV64 _ _ _ _ ht hu, show vreg (setV64 d t (f t) g) d = vreg g d from rfl]
    obtain rfl | hne := Decidable.em (u = t)
    · by_cases hr : r = vreg g d <;> by_cases hr' : r = vreg g d + 1 <;> simp [hr, hr']
    · simp [hne]

/-- An instruction that writes one vector register for its acting threads, its values given in another form. -/
theorem writesVector {i : Instr} {s : State} {gd : BitVec 2} {d : Nat} {f : Group → Nat → Word} {v : Nat → Word} (h : Ready i s)
    (hx : exec i s = vMap i gd d f s) (hv : ∀ t, f s.grp t = v t) : WritesVector i s (actOf s.grp gd) d v := by
  have ⟨_, hwait, hquiet, _⟩ := h
  refine ⟨_, regInstr_completes h hx (writeV_rest _ _ _ _) hwait hquiet rfl, fun r t ht => ?_⟩
  rw [mget_writeV _ (fun _ => lt_of_mem_threads) _ _ _ ht]
  simp only [mem_threads, ht, true_and, hv]

/-- The same for a pair of registers (R21). -/
theorem writesVector64 {i : Instr} {s : State} {gd : BitVec 2} {d : Nat} {f : Group → Nat → DWord} {v : Nat → DWord} (h : Ready i s)
    (hx : exec i s = vMap64 i gd d f s) (hv : ∀ t, f s.grp t = v t) : WritesVector64 i s (actOf s.grp gd) d v := by
  have ⟨_, hwait, hquiet, _⟩ := h
  refine ⟨_, regInstr_completes h hx (writeV64_rest _ _ _ _) hwait hquiet rfl, fun r t ht => ?_⟩
  rw [mget_writeV64 _ (fun _ => lt_of_mem_threads) _ _ _ ht]
  simp only [mem_threads, ht, true_and, hv]

/-- A compare writes its result for the threads that act, 0 for every other (R133). -/
theorem writesCompare {i : Instr} {s : State} {gd : BitVec 2} {d : BitVec 3} {f : Group → Nat → Bool} {p : Nat → Bool}
    (hx : exec i s = vCmp i gd d f s) (hk : Opnd.kd d.toNat ∈ i.operands) (hf : ∀ t, f s.grp t = p t) (h : Ready i s) :
    ∃ m : Word, (∀ t, t < 32 → m.getLsbD t = ((actOf s.grp gd).getLsbD t && p t)) ∧ WritesMask i s d m :=
  ⟨_, fun t ht => by rw [getLsbD_threadMask _ ht, hf]; rfl, writesMask h (maskDest_ne_zero h hk) hx⟩

end Sys2Proof.Machine

/-! O14: the conversions (R81-R83) and the vector compares (R77, R133). -/

namespace Sys2Proof.Machine

/-- A conversion with a code `k` of a 32-bit destination (R81, R82). -/
theorem vcvt_writes {s : State} {g : BitVec 2} {d a c k : BitVec 7} {v : Nat → Word} (h : Ready (.vcvt g d a c) s) (hk : cvtDst64 k.toNat = false)
    (hv : ∀ t, w32 (cvtVal (rmOf s.grp) (ftzOf s.grp) k.toNat (cvtSrc s.grp a.toNat k.toNat t)) = v t) (hc : c = k) :
    WritesVector (.vcvt g d a c) s (actOf s.grp g) d.toNat v := by
  subst hc
  exact writesVector h (if_neg (by simp [hk])) hv

/-- A conversion with a code `k` of a 64-bit destination (R81, R82). -/
theorem vcvt_writes64 {s : State} {g : BitVec 2} {d a c k : BitVec 7} {v : Nat → DWord} (h : Ready (.vcvt g d a c) s) (hk : cvtDst64 k.toNat = true)
    (hv : ∀ t, w64 (cvtVal (rmOf s.grp) (ftzOf s.grp) k.toNat (cvtSrc s.grp a.toNat k.toNat t)) = v t) (hc : c = k) :
    WritesVector64 (.vcvt g d a c) s (actOf s.grp g) d.toNat v := by
  subst hc
  exact writesVector64 h (if_pos hk) hv

theorem w32_toNat (x : Word) : w32 x.toNat = x := by simp [w32]

theorem w64_toNat (x : DWord) : w64 x.toNat = x := by simp [w64]

theorem bne_eq_decide {α : Type} [BEq α] [LawfulBEq α] [DecidableEq α] (x y : α) : (x != y) = decide (x ≠ y) := by rw [bne, Bool.beq_eq_decide_eq, decide_not]

theorem beq_lt_or_beq_eq (o : Option Ordering) : (o == some .lt || o == some .eq) = decide (o = some .lt ∨ o = some .eq) := by
  rw [Bool.beq_eq_decide_eq, Bool.beq_eq_decide_eq, Bool.decide_or]

/-- Settles O14: each conversion code selects its source, its rounding and its destination, and each compare its predicate on the acting threads. -/
theorem vectorConvertAndCompare : Obligations.VectorConvertAndCompare := by
  refine ⟨fun s g d a c => ?_, fun s g d a b => ?_⟩
  case refine_1 =>
    intro rm ftz x y toF toI h
    refine ⟨?_, ?_, ?_, ?_⟩ <;> simp only [List.forall_mem_cons, List.not_mem_nil, false_implies, implies_true, and_true]
    -- R81: between formats, then from i32 and ui32, and from i8 and ui8, to a 32-bit destination
    · exact ⟨vcvt_writes h rfl fun _ => rfl, vcvt_writes h rfl fun _ => rfl, vcvt_writes h rfl fun _ => rfl, vcvt_writes h rfl fun _ => rfl,
        vcvt_writes h rfl fun _ => rfl,
        vcvt_writes h rfl fun _ => congrArg (fun v : Word => w32 (toBits fp32 rm ftz (ofInt v.toInt))) (w32_toNat _),
        vcvt_writes h rfl fun _ => congrArg (fun n : Nat => w32 (toBits fp32 rm ftz (ofInt n))) (Nat.mod_eq_of_lt (opnd32 ..).isLt),
        vcvt_writes h rfl fun _ => rfl, vcvt_writes h rfl fun _ => rfl⟩
    -- R83: to an integer of 32 bits or fewer
    · exact ⟨vcvt_writes h rfl fun _ => w32_toNat _, vcvt_writes h rfl fun _ => w32_toNat _, vcvt_writes h rfl fun _ => w32_toNat _,
        vcvt_writes h rfl fun _ => w32_toNat _, vcvt_writes h rfl fun _ => w32_toNat _, vcvt_writes h rfl fun _ => w32_toNat _,
        vcvt_writes h rfl fun _ => w32_toNat _⟩
    -- R81: to FP64, from FP32, i64, ui64 and i32
    · exact ⟨vcvt_writes64 h rfl fun _ => rfl,
        vcvt_writes64 h rfl fun _ => congrArg (fun v : DWord => w64 (toBits fp64 rm ftz (ofInt v.toInt))) (w64_toNat _),
        vcvt_writes64 h rfl fun _ => congrArg (fun n : Nat => w64 (toBits fp64 rm ftz (ofInt n))) (Nat.mod_eq_of_lt (opnd64 ..).isLt),
        vcvt_writes64 h rfl fun _ => congrArg (fun v : Word => w64 (toBits fp64 rm ftz (ofInt v.toInt))) (w32_toNat _)⟩
    -- R83: to an integer of 64 bits
    · exact ⟨vcvt_writes64 h rfl fun _ => w64_toNat _, vcvt_writes64 h rfl fun _ => w64_toNat _, vcvt_writes64 h rfl fun _ => w64_toNat _,
        vcvt_writes64 h rfl fun _ => w64_toNat _⟩
  case refine_2 =>
    intro ftz x y c e
    simp only [List.forall_mem_cons, List.not_mem_nil, false_implies, implies_true, and_true]
    exact ⟨
      -- VCEQ, VCNE
      writesCompare rfl (.head _) fun _ => Bool.beq_eq_decide_eq _ _, writesCompare rfl (.head _) fun _ => bne_eq_decide _ _,
      -- VCLT, VCLE, VCLTU, VCLEU
      writesCompare rfl (.head _) fun _ => rfl, writesCompare rfl (.head _) fun _ => rfl, writesCompare rfl (.head _) fun _ => rfl,
      writesCompare rfl (.head _) fun _ => rfl,
      -- VFCEQ, VFCNE, VFCLT, VFCLE, VFCUN
      writesCompare rfl (.head _) fun _ => Bool.beq_eq_decide_eq _ _, writesCompare rfl (.head _) fun _ => bne_eq_decide _ _,
      writesCompare rfl (.head _) fun _ => Bool.beq_eq_decide_eq _ _, writesCompare rfl (.head _) fun _ => beq_lt_or_beq_eq _,
      writesCompare rfl (.head _) fun _ => Bool.beq_eq_decide_eq _ _,
      -- VDCEQ, VDCLT, VDCLE
      writesCompare rfl (.head _) fun _ => Bool.beq_eq_decide_eq _ _, writesCompare rfl (.head _) fun _ => Bool.beq_eq_decide_eq _ _,
      writesCompare rfl (.head _) fun _ => beq_lt_or_beq_eq _⟩

end Sys2Proof.Machine

/-! O17: rounding to FP32 (R39, R68-R70). A finite positive value is a significand of 24 bits at an exponent of units; in the order of the bits the values rise. -/

namespace Sys2Proof.Machine

/-- The value of positive FP32 bits in units of 2^−149 (R66). -/
def f32Units (r : Nat) : Nat := if r < 2 ^ 23 then r else (r % 2 ^ 23 + 2 ^ 23) * 2 ^ (r / 2 ^ 23 - 1)

/-- A significand at exponent `e`, up to the first one of the next exponent; below 2^23 only at exponent 0. -/
theorem f32Units_pack {e mant : Nat} (hm : mant ≤ 2 ^ 24) (he : e = 0 ∨ 2 ^ 23 ≤ mant) : f32Units (e * 2 ^ 23 + mant) = mant * 2 ^ e := by
  by_cases hs : mant < 2 ^ 23
  · have : e = 0 := by omega
    rw [this, Nat.zero_mul, Nat.zero_add, f32Units, if_pos hs, Nat.pow_zero, Nat.mul_one]
  · rw [f32Units, if_neg (by omega)]
    by_cases ht : mant = 2 ^ 24
    · have h1 : (e * 2 ^ 23 + mant) % 2 ^ 23 = 0 := by omega
      have h2 : (e * 2 ^ 23 + mant) / 2 ^ 23 - 1 = e + 1 := by omega
      rw [h1, h2, ht, Nat.pow_succ 2 e]
      omega
    · have h1 : (e * 2 ^ 23 + mant) % 2 ^ 23 + 2 ^ 23 = mant := by omega
      have h2 : (e * 2 ^ 23 + mant) / 2 ^ 23 - 1 = e := by omega
      rw [h1, h2]

theorem f32Units_lt_succ (r : Nat) : f32Units r < f32Units (r + 1) := by
  obtain ⟨e, mant, rfl, hm, he⟩ : ∃ e mant, r = e * 2 ^ 23 + mant ∧ mant < 2 ^ 24 ∧ (e = 0 ∨ 2 ^ 23 ≤ mant) :=
    ⟨r / 2 ^ 23 - 1, r - (r / 2 ^ 23 - 1) * 2 ^ 23, by omega, by omega, by omega⟩
  rw [Nat.add_assoc, f32Units_pack (Nat.le_of_lt hm) he, f32Units_pack hm (by omega)]
  exact Nat.mul_lt_mul_of_pos_right (Nat.lt_succ_self mant) (Nat.two_pow_pos e)

theorem f32Units_lt {a b : Nat} (h : a < b) : f32Units a < f32Units b := by
  induction h with
  | refl => exact f32Units_lt_succ a
  | step _ ih => exact Nat.lt_trans ih (f32Units_lt_succ _)

theorem f32Units_le {a b : Nat} (h : a ≤ b) : f32Units a ≤ f32Units b := by
  obtain h | rfl := Nat.lt_or_eq_of_le h
  · exact Nat.le_of_lt (f32Units_lt h)
  · exact Nat.le_refl _

/-- The exponent of the last place that a significand of 24 bits keeps of m × 2^(−149 − k), in units of 2^−149 (R66, R68). -/
def lastPlace (m k : Nat) : Nat := Nat.log2 m - 23 - k

theorem kept_lt (m k : Nat) : m / 2 ^ (lastPlace m k + k) < 2 ^ 24 := by
  rw [Nat.div_lt_iff_lt_mul (Nat.two_pow_pos _), ← Nat.pow_add]
  exact Nat.lt_of_lt_of_le Nat.lt_log2_self (Nat.pow_le_pow_right (by decide) (by unfold lastPlace; omega))

theorem le_kept {m : Nat} (hm : 0 < m) (k : Nat) : lastPlace m k = 0 ∨ 2 ^ 23 ≤ m / 2 ^ (lastPlace m k + k) := by
  refine (Nat.eq_zero_or_pos _).imp_right fun he => ?_
  rw [Nat.le_div_iff_mul_le (Nat.two_pow_pos _), ← Nat.pow_add]
  exact Nat.le_trans (Nat.pow_le_pow_right (by decide) (by unfold lastPlace at *; omega)) (Nat.log2_self_le (Nat.ne_of_gt hm))

/-- The bits of the largest value that is not above m × 2^(−149 − k). -/
def bitsBelow (m k : Nat) : Nat := lastPlace m k * 2 ^ 23 + m / 2 ^ (lastPlace m k + k)

theorem f32Units_bitsBelow {m : Nat} (hm : 0 < m) (k : Nat) :
    f32Units (bitsBelow m k) * 2 ^ k = m / 2 ^ (lastPlace m k + k) * 2 ^ (lastPlace m k + k) := by
  rw [bitsBelow, f32Units_pack (Nat.le_of_lt (kept_lt m k)) (le_kept hm k), Nat.mul_assoc, ← Nat.pow_add]

theorem f32Units_bitsBelow_succ {m : Nat} (hm : 0 < m) (k : Nat) :
    f32Units (bitsBelow m k + 1) * 2 ^ k = (m / 2 ^ (lastPlace m k + k) + 1) * 2 ^ (lastPlace m k + k) := by
  rw [bitsBelow, Nat.add_assoc, f32Units_pack (kept_lt m k) ((le_kept hm k).imp_right Nat.le_succ_of_le), Nat.mul_assoc, ← Nat.pow_add]

/-- Rounding keeps the significand down to its last place, drops a remainder, and takes the bits below or the next ones, where they are below ∞. The remainder is
doubled, so that half of the place is a number. -/
theorem roundFin_fp32 (rm : BitVec 2) {m : Nat} (hm : 0 < m) (k : Nat) :
    roundFin fp32 rm false false m (-149 - k) false =
      let unit := 2 ^ (lastPlace m k + k)
      let r := bitsBelow m k + bitOf (roundsUp rm false (m / unit) (2 * (m % unit)) unit)
      if 0x7F800000 ≤ r then overflowBits fp32 rm false else r := by
  rw [bitsBelow]
  generalize he : lastPlace m k = e
  have hq : max ((-149 - k - 1 : Int) + Nat.log2 (2 * m) - fp32.fb) fp32.qmin = e - 149 := by
    rw [Nat.log2_two_mul (Nat.ne_of_gt hm), show fp32.qmin = -149 from rfl, show fp32.fb = 23 from rfl]
    unfold lastPlace at he
    omega
  have hd : ((e : Int) - 149 - (-149 - k - 1)).toNat = e + k + 1 := by omega
  have hs : ((e : Int) - 149 - fp32.qmin).toNat = e := by rw [show fp32.qmin = -149 from rfl]; omega
  have hkeep : 2 * m / 2 ^ (e + k + 1) = m / 2 ^ (e + k) := by rw [Nat.pow_succ', Nat.mul_div_mul_left _ _ (by decide)]
  have hrem : 2 * m % 2 ^ (e + k + 1) = 2 * (m % 2 ^ (e + k)) := by rw [Nat.pow_succ', Nat.mul_mod_mul_left]
  have hle : ¬ (e : Int) - 149 ≤ -149 - k - 1 := by omega
  have h0 : 2 * m ≠ 0 := by omega
  simp only [roundFin, bitOf, Bool.false_eq_true, if_false, Nat.add_zero, h0, hq, hle, hd, hkeep, hrem, hs, Nat.add_sub_cancel, Bool.false_and, Fmt.sign,
    Nat.zero_add, Nat.add_assoc (e * 2 ^ 23)]
  rfl

/-- Where the values of `v` rise with their numbers and `x` lies between those of `r` and `r + 1`, no value is nearer than the one of these that is chosen, the
even one where both are equally near. -/
theorem nearest_of_between {v : Nat → Nat} (hv : ∀ {a b}, a < b → v a < v b) {x r c : Nat} (hlo : v r ≤ x) (hhi : x < v (r + 1))
    (hc : (c = r ∧ (2 * x < v r + v (r + 1) ∨ (2 * x = v r + v (r + 1) ∧ r % 2 = 0))) ∨
      (c = r + 1 ∧ (v r + v (r + 1) < 2 * x ∨ (2 * x = v r + v (r + 1) ∧ r % 2 = 1)))) {q : Nat} (hq : q ≠ c) :
    ((v c : Int) - x).natAbs < ((v q : Int) - x).natAbs ∨ (((v c : Int) - x).natAbs = ((v q : Int) - x).natAbs ∧ c % 2 = 0) := by
  obtain hqr | hqr | hqr : q ≤ r ∨ q = r + 1 ∨ r + 1 < q := by omega
  · have h1 : q < r → v q < v r := fun h => hv h
    have h2 : q = r → v q = v r := fun h => h ▸ rfl
    obtain ⟨rfl, hc⟩ | ⟨rfl, hc⟩ := hc <;> omega
  · subst hqr
    obtain ⟨rfl, hc⟩ | ⟨rfl, hc⟩ := hc <;> omega
  · have h1 : v (r + 1) < v q := hv hqr
    obtain ⟨rfl, hc⟩ | ⟨rfl, hc⟩ := hc <;> omega

/-- Toward zero takes the bits below, or the largest finite ones where ∞ is at or below these (R70). -/
theorem roundFin_fp32_towardZero {m : Nat} (hm : 0 < m) (k : Nat) : roundFin fp32 1 false false m (-149 - k) false = min (bitsBelow m k) 0x7F7FFFFF := by
  have hup : ∀ keep rem half, roundsUp 1 false keep rem half = false := fun _ _ _ => rfl
  have hover : overflowBits fp32 1 false = 0x7F7FFFFF := by decide
  rw [roundFin_fp32 1 hm]
  simp only [hup, hover, bitOf, Bool.false_eq_true, if_false, Nat.add_zero]
  split <;> omega

theorem roundsUp_nearest (neg : Bool) (keep rem half : Nat) : roundsUp 0 neg keep rem half = true ↔ half < rem ∨ (rem = half ∧ keep % 2 = 1) := by
  simp [roundsUp]

/-- To nearest, below ∞, takes the bits below or the next ones by which half of the place the remainder lies in, the even ones at the half. -/
theorem roundFin_fp32_nearest {m k r : Nat} (hm : 0 < m) (hr : roundFin fp32 0 false false m (-149 - k) false = r) (hlt : r < 0x7F800000) :
    let v := fun r => f32Units r * 2 ^ k
    let b := bitsBelow m k
    (r = b ∧ (2 * m < v b + v (b + 1) ∨ (2 * m = v b + v (b + 1) ∧ b % 2 = 0))) ∨
      (r = b + 1 ∧ (v b + v (b + 1) < 2 * m ∨ (2 * m = v b + v (b + 1) ∧ b % 2 = 1))) := by
  intro v b
  have hlo : v b = _ := f32Units_bitsBelow hm k
  have hhi : v (b + 1) = _ := f32Units_bitsBelow_succ hm k
  have hb : b = lastPlace m k * 2 ^ 23 + m / 2 ^ (lastPlace m k + k) := rfl
  have hover : overflowBits fp32 0 false = 0x7F800000 := by decide
  have hm' := Nat.div_add_mod' m (2 ^ (lastPlace m k + k))
  have hup := roundsUp_nearest false (m / 2 ^ (lastPlace m k + k)) (2 * (m % 2 ^ (lastPlace m k + k))) (2 ^ (lastPlace m k + k))
  rw [roundFin_fp32 0 hm, hover] at hr
  dsimp only at hr
  rw [hlo, hhi, Nat.add_mul, Nat.one_mul]
  generalize m % 2 ^ (lastPlace m k + k) = rem at *
  generalize m / 2 ^ (lastPlace m k + k) = keep at *
  generalize 2 ^ (lastPlace m k + k) = unit at *
  split at hr
  case isTrue => omega
  case isFalse =>
    cases hu : roundsUp 0 false keep (2 * rem) unit <;> rw [hu] at hr hup
    case true =>
      have hr : b + 1 = r := hr
      have := hup.1 rfl
      exact .inr ⟨hr.symm, by omega⟩
    case false =>
      have hr : b = r := (Nat.add_zero b).symm.trans hr
      have : ¬ (unit < 2 * rem ∨ 2 * rem = unit ∧ keep % 2 = 1) := fun h => nomatch hup.2 h
      exact .inl ⟨hr.symm, by omega⟩

/-- Settles O17: the number lies between the value of its bits below and the next one, and each mode takes the one of the two that it names. -/
theorem roundsCorrectly : Obligations.RoundsCorrectly := by
  intro m k hm
  have hmono {a b : Nat} (h : a < b) : f32Units a * 2 ^ k < f32Units b * 2 ^ k := Nat.mul_lt_mul_of_pos_right (f32Units_lt h) (Nat.two_pow_pos k)
  have hlo : f32Units (bitsBelow m k) * 2 ^ k ≤ m := f32Units_bitsBelow hm k ▸ Nat.div_mul_le_self _ _
  have hhi : m < f32Units (bitsBelow m k + 1) * 2 ^ k := by
    rw [f32Units_bitsBelow_succ hm k, Nat.mul_comm]
    exact Nat.lt_mul_div_succ m (Nat.two_pow_pos _)
  refine ⟨fun hr q _ hq => nearest_of_between (v := fun r => f32Units r * 2 ^ k) hmono hlo hhi (roundFin_fp32_nearest hm rfl hr) hq, ?_⟩
  rw [roundFin_fp32_towardZero hm]
  refine ⟨Nat.le_trans (Nat.mul_le_mul_right _ (f32Units_le (Nat.min_le_left _ _))) hlo, fun h => ?_⟩
  rwa [Nat.min_eq_left (by omega)]

end Sys2Proof.Machine

/-! The values of the vector functions on bits, fields and floating-point classes (R76, R128, R129), and the writes of vector and scalar
registers for a mask of threads. -/

namespace Sys2Proof.Machine

theorem brev_eq_reverse {w : Nat} (x : BitVec w) : brev x = x.reverse := by
  refine BitVec.eq_of_getLsbD_eq fun i hi => ?_
  rw [getLsbD_brev x hi, BitVec.getLsbD_reverse, BitVec.getMsbD_eq_getLsbD, decide_eq_true hi, Bool.true_and]

/-- The mask of the low `n` bits of a word, also where `n` reaches its width. -/
theorem ofNat_two_pow_sub_one (w n : Nat) : BitVec.ofNat w (2 ^ n - 1) = ((1 : BitVec w) <<< n) - 1 := by
  have hone : (1 : BitVec w) <<< n = BitVec.ofNat w (2 ^ n) := BitVec.eq_of_toNat_eq (BitVec.toNat_twoPow w n)
  obtain ⟨k, hk⟩ := Nat.exists_eq_add_of_le' (Nat.two_pow_pos n)
  rw [hone, hk, Nat.add_sub_cancel, BitVec.ofNat_add]
  exact (BitVec.add_sub_cancel _ _).symm

theorem vbfMask_eq_ite (y : Word) : vbfMask y = if vbfLen y = 32 then 0xFFFFFFFF else ((1 : Word) <<< vbfLen y) - 1 := by
  rw [vbfMask]
  split
  case isTrue h => rw [h]; rfl
  case isFalse => exact ofNat_two_pow_sub_one 32 _

theorem vbfeVal_eq_ite (x y : Word) :
    vbfeVal x y = if vbfLen y = 0 then 0
      else if (vbfeuVal x y).getLsbD (vbfLen y - 1) then vbfeuVal x y ||| ~~~(vbfMask y) else vbfeuVal x y := by
  by_cases hn : vbfLen y = 0
  · simp [vbfeVal, vbfeuVal, vbfMask, hn]
  · simp [vbfeVal, hn, tbit, BitVec.getLsbD]

theorem isNan_iff (v : FVal) : v.isNan = true ↔ v = .nan := by cases v <;> simp [FVal.isNan]

/-- An instruction that writes one vector register for the threads of a mask. -/
theorem writesVector_threads {i : Instr} {s : State} {act : Word} {d : Nat} {F : Group → Group} {f v : Nat → Word} (hx : exec i s = regInstr i F s)
    (hF : F s.grp = writeV d (threads act) f s.grp) (hv : ∀ t ∈ threads act, f t = v t) (h : Ready i s) : WritesVector i s act d v := by
  have ⟨_, hwait, hquiet, _⟩ := h
  refine ⟨_, regInstr_completes h hx (hF.trans (writeV_rest _ _ _ _)) hwait hquiet rfl, fun r t ht => ?_⟩
  rw [mget_writeV _ (fun _ => lt_of_mem_threads) _ _ _ ht]
  simp only [mem_threads, ht, true_and]
  exact ite_congr rfl (fun hc => hv t (mem_threads.2 ⟨ht, hc.2⟩)) fun _ => rfl

/-- A scalar destination of the vector functions is one of s0-s31, named by 5 bits (R137, R139). -/
theorem writesScalar_low {i : Instr} {s : State} {d : BitVec 5} {f : Group → DWord} {v : DWord}
    (hx : exec i s = regInstr i (fun g => setS d.toNat (f g) g) s) (hv : f s.grp = v) (h : Ready i s) : WritesScalar i s (d.setWidth 7) v := by
  rw [← BitVec.toNat_setWidth_of_le (show 5 ≤ 7 by decide)] at hx
  exact writesScalar_of_eq hx hv h

end Sys2Proof.Machine

/-! O12: the integer vector functions and immediate forms (R78, R79, R128-R130). -/

namespace Sys2Proof.Machine

/-- Settles O12: each function writes its acting threads, and its value is the one that the lemmas on the operations on bits give. -/
theorem vectorInteger : Obligations.VectorInteger := by
  refine ⟨fun s g d a b => ?_, fun s g d a im n => ?_⟩
  case refine_1 =>
    intro len m pos f
    have hm (y : Word) : vbfMask y = m y := vbfMask_eq_ite y
    have vbfeu (x y : Word) : vbfeuVal x y = f x y := by rw [vbfeuVal, hm]; rfl
    have vbfe (x y : Word) : vbfeVal x y = if len y = 0 then 0 else if (f x y).getLsbD (len y - 1) then f x y ||| ~~~(m y) else f x y := by
      rw [vbfeVal_eq_ite, vbfeu, hm]; rfl
    have vbfi (z x y : Word) : vbfiVal z x y = (z &&& ~~~(m y <<< pos y)) ||| ((x &&& m y) <<< pos y) := by rw [vbfiVal, hm]; rfl
    simp only [List.forall_mem_cons, List.not_mem_nil, false_implies, implies_true, and_true]
    exact ⟨
      -- R78: VADD, VSUB, VMUL, VMULH, VMULHU
      fun h => writesVector h rfl fun _ => rfl, fun h => writesVector h rfl fun _ => rfl, fun h => writesVector h rfl fun _ => rfl,
      fun h => writesVector h rfl fun _ => rfl, fun h => writesVector h rfl fun _ => rfl,
      -- VMIN, VMAX, VMINU, VMAXU
      fun h => writesVector h rfl fun _ => smin_eq_ite _ _, fun h => writesVector h rfl fun _ => smax_eq_ite _ _,
      fun h => writesVector h rfl fun _ => umin_eq_ite _ _, fun h => writesVector h rfl fun _ => umax_eq_ite _ _,
      -- VAND, VOR, VXOR, VANDN
      fun h => writesVector h rfl fun _ => rfl, fun h => writesVector h rfl fun _ => rfl, fun h => writesVector h rfl fun _ => rfl,
      fun h => writesVector h rfl fun _ => rfl,
      -- R79: VSHL, VSHR, VSRA
      fun h => writesVector h rfl fun _ => rfl, fun h => writesVector h rfl fun _ => rfl, fun h => writesVector h rfl fun _ => sra_eq_ite _ _,
      -- R129: VBFEU, VBFE, VBFI
      fun h => writesVector h rfl fun _ => vbfeu _ _, fun h => writesVector h rfl fun _ => vbfe _ _, fun h => writesVector h rfl fun _ => vbfi _ _ _,
      -- VBREV, VPOPC, VCLZ, VCTZ
      fun h => writesVector h rfl fun _ => brev_eq_reverse _, fun h => writesVector h rfl fun _ => congrArg cnt32 (popcount_eq_countP _),
      fun h => writesVector h rfl fun _ => congrArg cnt32 (clz_eq_takeWhile _), fun h => writesVector h rfl fun _ => congrArg cnt32 (ctz_eq_takeWhile _),
      -- VABS, VMOV, VMERGE
      fun h => writesVector h rfl fun _ => rfl, fun h => writesVector h rfl fun _ => rfl, fun h => writesVector h rfl fun _ => rfl⟩
  case refine_2 =>
    intro k
    simp only [List.forall_mem_cons, List.not_mem_nil, false_implies, implies_true, and_true]
    and_intros <;> exact fun h => writesVector h rfl fun _ => rfl

end Sys2Proof.Machine

/-! O13: the FP32 and FP64 functions (R67-R76, R131, R132). -/

namespace Sys2Proof.Machine

/-- Settles O13: each function reads its operands under FTZ and narrows its exact result once; VFABS alone works on the bits. -/
theorem vectorFloat : Obligations.VectorFloat := by
  refine ⟨fun s g d a b => ?_, fun s g d a b => ?_⟩
  case refine_1 =>
    intro rm ftz v
    simp only [List.forall_mem_cons, List.not_mem_nil, false_implies, implies_true, and_true]
    refine ⟨?narrowed, ?vfabs⟩
    case narrowed => and_intros <;> exact fun h => writesVector h rfl fun _ => rfl
    case vfabs => exact fun h => writesVector h rfl fun _ => ite_congr (propext (isNan_iff _)) (fun _ => rfl) fun _ => rfl
  case refine_2 =>
    intro rm ftz v
    simp only [List.forall_mem_cons, List.not_mem_nil, false_implies, implies_true, and_true]
    and_intros <;> exact fun h => writesVector64 h rfl fun _ => rfl

end Sys2Proof.Machine

/-! O15: the cross-thread functions and VMFS (R134-R138, R141). -/

namespace Sys2Proof.Machine

/-- Outside a replay, the threads that act without a guard are the live ones (R25, R149). -/
theorem actOf_zero {g : Group} (h : g.replayMask = none) : actOf g 0 = g.live := by
  simp only [actOf, guardOf, h, if_true, Option.getD_none]
  exact BitVec.and_allOnes

/-- Settles O15: every element that a thread takes is read before any is written, and each function names the thread that it takes it from. -/
theorem vectorCrossThread : Obligations.VectorCrossThread := by
  intro s g d a b b5 d5 x y pick act
  refine ⟨?_, fun h => writesVector64 h rfl fun _ => rfl, fun h => ?_, fun h => ⟨_, fun t ht => ?_, writesScalar_low rfl rfl h⟩⟩
  -- R135: the shuffles and the broadcast; VTID; VMFS of 32 bits
  · simp only [List.forall_mem_cons, List.not_mem_nil, false_implies, implies_true, and_true]
    and_intros <;> exact fun h => writesVector h rfl fun _ => rfl
  -- R136: VSEL
  · have ⟨_, _, ⟨_, _, _, _, hreplay, _⟩, _⟩ := h
    refine writesVector_threads rfl (by rw [actOf_zero hreplay]) (fun t _ => ?_) h
    simp only [Bool.or_eq_true, decide_eq_true_eq]
    rfl
  -- R137: VBALLOT
  · rw [getLsbD_threadMask _ ht, bne_eq_decide]
    rfl

end Sys2Proof.Machine

/-! O16: the reductions and the scans (R91, R139, R140). -/

namespace Sys2Proof.Machine

/-- The sum modulo 2^32 is that of the unsigned values. -/
theorem foldl_add_eq_ofNat_sum (xs : List Word) : xs.foldl (· + ·) 0 = BitVec.ofNat 32 (xs.map BitVec.toNat).sum := by
  rw [List.sum_eq_foldl, List.foldl_map]
  exact List.foldl_hom (BitVec.ofNat 32) fun n y => by rw [BitVec.ofNat_add, BitVec.ofNat_toNat, BitVec.setWidth_eq]

theorem toInt_smin (x y : Word) : (smin x y).toInt = min x.toInt y.toInt := by rw [smin_eq_ite]; split <;> omega

theorem toInt_smax (x y : Word) : (smax x y).toInt = max x.toInt y.toInt := by rw [smax_eq_ite]; split <;> omega

theorem toNat_umin (x y : Word) : (umin x y).toNat = min x.toNat y.toNat := by rw [umin_eq_ite]; split <;> omega

theorem toNat_umax (x y : Word) : (umax x y).toNat = max x.toNat y.toNat := by rw [umax_eq_ite]; split <;> omega

/-- Where `φ` takes `f` to `f'`, it takes a reduction by `f` from `z` to one by `f'` from the number of `z`. -/
theorem foldl_reads {α : Type} {φ : Word → α} {f : Word → Word → Word} {f' : α → α → α} (hf : ∀ x y, φ (f x y) = f' (φ x) (φ y)) {z : Word} {n : α}
    (hz : φ z = n) (xs : List Word) : φ (xs.foldl f z) = (xs.map φ).foldl f' n :=
  hz ▸ (List.foldl_map_hom fun x y => (hf x y).symm).symm

theorem setWidth_eq_ofNat {w : Nat} {x : BitVec w} {n : Nat} (h : x.toNat = n) (v : Nat) : x.setWidth v = BitVec.ofNat v n := by
  rw [← h, BitVec.ofNat_toNat]

/-- A reduction writes one scalar, its value that of the acting threads' elements in a row (R139). -/
theorem vReduce_writes {i : Instr} {s : State} {gd : BitVec 2} {d : BitVec 5} {a : BitVec 7} {f : Word → Word → Word} {z : Word} {ext : Word → DWord}
    {v : DWord} (hx : exec i s = vReduce i gd d a f z ext s) (hv : ext (((threads (actOf s.grp gd)).map (opnd32 s.grp a.toNat)).foldl f z) = v) (h : Ready i s) :
    WritesScalar i s (d.setWidth 7) v :=
  writesScalar_low hx (by rwa [List.foldl_map] at hv) h

/-- The sum of the values numbered `2 t` and `2 t + 1` of a level of the tree (R91). -/
def pairSum (rm : BitVec 2) (ftz : Bool) (f : Nat → Nat) (t : Nat) : Nat :=
  fsum fp32 rm ftz [ofBits fp32 ftz (f (2 * t)), ofBits fp32 ftz (f (2 * t + 1))]

theorem treeLevel_range (rm : BitVec 2) (ftz : Bool) (n : Nat) (f : Nat → Nat) :
    treeLevel rm ftz ((List.range (2 * n)).map f) = (List.range n).map (pairSum rm ftz f) := by
  induction n generalizing f with
  | zero => rfl
  | succ n ih =>
    have hpair : pairSum rm ftz f ∘ Nat.succ = pairSum rm ftz (f ∘ (· + 2)) := rfl
    rw [List.range_succ_eq_map (n := n), List.map_cons, List.map_map, hpair, ← ih, show 2 * (n + 1) = 2 * n + 1 + 1 by omega,
      List.range_succ_eq_map, List.range_succ_eq_map]
    simp only [List.map_cons, List.map_map, treeLevel]
    rfl

/-- The tree of R91 is five levels of sums of pairs. -/
theorem treeSum_range (rm : BitVec 2) (ftz : Bool) (f : Nat → Nat) :
    treeSum rm ftz ((List.range 32).map f) =
      pairSum rm ftz (pairSum rm ftz (pairSum rm ftz (pairSum rm ftz (pairSum rm ftz f)))) 0 := by
  rw [treeSum, treeLevel_range rm ftz 16, treeLevel_range rm ftz 8, treeLevel_range rm ftz 4, treeLevel_range rm ftz 2, treeLevel_range rm ftz 1]
  rfl

/-- The running value of a scan after thread `u`, `acc` the one before it: none before the first acting thread (R140). -/
def scanStep (f : Option Word → Word → Word) (x : Nat → Word) (acc : Option Word) (u : Nat) : Option Word := some (f acc (x u))

/-- In a list of threads in ascending order, each takes the running value of those up to it. -/
theorem prefixSums_ascending (f : Option Word → Word → Word) (x : Nat → Word) {ts : List Nat} (hs : ts.Pairwise (· < ·)) (acc : Option Word) :
    prefixSums f acc (ts.map fun t => (t, x t)) = ts.map fun t => (t, ((ts.filter (· ≤ t)).foldl (scanStep f x) acc).getD 0) := by
  induction ts generalizing acc with
  | nil => rfl
  | cons t ts ih =>
    obtain ⟨hlt, hs⟩ := List.pairwise_cons.1 hs
    have hself : ts.filter (· ≤ t) = [] := List.filter_eq_nil_iff.2 fun u hu => by
      rw [decide_eq_true_eq]
      exact Nat.not_le_of_lt (hlt u hu)
    have hhead : (t :: ts).filter (· ≤ t) = [t] := by
      rw [List.filter_cons_of_pos, hself]
      exact decide_eq_true (Nat.le_refl t)
    have htail : ∀ u ∈ ts, (t :: ts).filter (· ≤ u) = t :: ts.filter (· ≤ u) := fun u hu =>
      List.filter_cons_of_pos (decide_eq_true (Nat.le_of_lt (hlt u hu)))
    rw [List.map_cons, prefixSums, ih hs, List.map_cons, hhead]
    exact congrArg (List.cons _) (List.map_congr_left fun u hu => by rw [htail u hu]; rfl)

theorem filter_le_range {t n : Nat} (ht : t < n) : (List.range n).filter (· ≤ t) = List.range (t + 1) := by
  obtain ⟨k, rfl⟩ := Nat.exists_eq_add_of_le (Nat.succ_le_of_lt ht)
  rw [List.range_add, List.filter_append, List.filter_eq_self.2 fun u hu => ?low, List.filter_eq_nil_iff.2 fun u hu => ?high, List.append_nil]
  case low => exact decide_eq_true (Nat.le_of_lt_succ (List.mem_range.1 hu))
  case high =>
    obtain ⟨j, -, rfl⟩ := List.mem_map.1 hu
    rw [decide_eq_true_eq]
    omega

theorem threads_upTo (m : Word) {t : Nat} (ht : t < 32) : (threads m).filter (· ≤ t) = (List.range (t + 1)).filter fun u => tbit m u := by
  rw [threads, ← filter_le_range ht, List.filter_filter, List.filter_filter]
  exact List.filter_congr fun _ _ => Bool.and_comm _ _

/-- A scan writes, for each acting thread, the running value of the acting threads up to it (R140). -/
theorem vScanOp_writes {i : Instr} {s : State} {gd : BitVec 2} {d a : BitVec 7} {f : Group → Option Word → Word → Word} {v : Nat → Word}
    (hx : exec i s = vScanOp i gd d a f s)
    (hv : ∀ t, (((List.range (t + 1)).filter fun u => tbit (actOf s.grp gd) u).foldl (scanStep (f s.grp) (opnd32 s.grp a.toNat)) none).getD 0 = v t)
    (h : Ready i s) : WritesVector i s (actOf s.grp gd) d.toNat v := by
  have hs : (threads (actOf s.grp gd)).Pairwise (· < ·) := List.pairwise_lt_range.filter _
  refine writesVector_threads hx (congrArg (List.foldl _ s.grp) (prefixSums_ascending (f s.grp) (opnd32 s.grp a.toNat) hs none)) (fun t ht => ?_) h
  rw [threads_upTo _ (lt_of_mem_threads ht), hv]

/-- Settles O16: the integer reductions agree with those of the numbers that the elements stand for, the tree has five levels, and a scan's running
value at a thread is that of the acting threads up to it. -/
theorem vectorReduceAndScan : Obligations.VectorReduceAndScan := by
  refine ⟨fun s g d a => ?_, fun s g d a => ?_⟩
  case refine_1 =>
    intro x xs sum least most ftz add lane l1 l2 l3 l4
    simp only [List.forall_mem_cons, List.not_mem_nil, false_implies, implies_true, and_true]
    exact ⟨
      -- VREDADD
      vReduce_writes rfl (congrArg sx (foldl_add_eq_ofNat_sum xs)),
      -- VREDMIN, VREDMAX
      vReduce_writes rfl (congrArg (BitVec.ofInt 64) (foldl_reads toInt_smin (by decide) xs)),
      vReduce_writes rfl (congrArg (BitVec.ofInt 64) (foldl_reads toInt_smax (by decide) xs)),
      -- VREDMINU, VREDMAXU
      vReduce_writes rfl (setWidth_eq_ofNat (foldl_reads toNat_umin (by decide) xs) 64),
      vReduce_writes rfl (setWidth_eq_ofNat (foldl_reads toNat_umax (by decide) xs) 64),
      -- R91: VREDFADD
      writesScalar_low rfl (congrArg w64 (treeSum_range (rmOf s.grp) ftz lane))⟩
  case refine_2 =>
    intro x rm ftz v upTo run
    refine ⟨vScanOp_writes rfl fun t => ?_, vScanOp_writes rfl fun t => ?_⟩
    -- VSCAN: no running value counts as 0
    · rw [List.foldl_map]
      exact (List.foldl_hom (fun acc : Option Word => acc.getD 0) fun _ _ => rfl).symm
    -- VSCANF: the first element is taken as it is
    · refine congrArg (fun step => ((upTo t).foldl step none).getD 0) (funext fun acc => funext fun u => ?_)
      cases acc <;> rfl

end Sys2Proof.Machine

/-! The matrix path on states that no check at decode has passed: a gang of one member that a stall has kept, and a multiply of more rows than a tile has
(R28, R32, R184, R187). -/

namespace Sys2Proof.Machine

/-- What `f` sees of the state that an outcome leaves. -/
def seenAfter {α : Type} (f : State → α) : Res → Option α
  | .next t => some (f t)
  | _ => none

theorem seenAfter_next {α : Type} (f : State → α) {r : Res} {t : State} (h : r = .next t) : seenAfter f r = some (f t) := by rw [h, seenAfter]

/-- A running group of a launch, with a team that `x` fills in. -/
def loneGroup (g : Group) (x : Team) : State :=
  { State.reset with
    grp := { g with key := ⟨1, 0, 0⟩, phase := .running }
    team := { x with key := ⟨1, 0⟩, phase := .running }
    grid := { Grid.initial with id := 1 } }

/-- The group keeps from its decode a GANG of count 1 whose one member it is. Its own GANG names no set, so its multiply passes the checks of R63. -/
def gangOfOne : State :=
  loneGroup { Group.initial with decoded := some ⟨[], [], 1, none⟩ } { Team.initial with tileWin := 1, tshape := [0x4020], accCount := 1 }

theorem gangOfOne_ready : Ready (.mma 0 0 0) gangOfOne := by decide +kernel

/-- The first member of that set is the last one too: nobody waits at a latch. -/
theorem gangOfOne_leaves : seenAfter (fun t => (t.team.latches.isEmpty, t.grp.wait)) (exec (.mma 0 0 0) gangOfOne) = some (true, .none) := by decide +kernel

/-- Refutes O44: `Ready` checks the GANG that stands in the group, and the latch takes the one that a stall has kept (R32), of which the statement asks only a count
that is not 0. With a kept count of 1 the first arrival completes the set at once, where the statement has the group wait. -/
theorem not_matrixIssue : ¬ Obligations.MatrixIssue := by
  intro h
  obtain ⟨-, hgang⟩ := h
  obtain ⟨hfirst, -, -⟩ := hgang gangOfOne 0 0 0 rfl rfl (by decide) (by decide) (by decide) (.mma 0 0 0) (.head _) 0xC4000000 (by decide) gangOfOne_ready
  have hwaits := seenAfter_next (fun t => (t.team.latches.isEmpty, t.grp.wait)) (hfirst rfl)
  rw [gangOfOne_leaves] at hwaits
  exact nomatch hwaits

/-- An accepted multiply of 1 × 33 elements, of tile 0 with itself. -/
def wideMultiply : Op :=
  ⟨0, .group ⟨1, 0, 0⟩, 0, .mma 0 0 0 false ⟨1, 33, 0, 15, 15⟩ [(0, none)] [] false, false, false, none, some 0, none, [], none, 0, [], [], none, 0⟩

/-- It is next in a team whose tiles hold 1 at the first element of tile 0 and at the first that follows the 32 rows of tile 0. -/
def wideMultiplyState : State :=
  { loneGroup .initial { Team.initial with tiles := [(0, 0x80), (1, 0x3F), (4096, 0x80), (4097, 0x3F)] } with ops := [wideMultiply] }

theorem wideMultiply_next : readyEngine wideMultiplyState wideMultiply.id = some wideMultiply := by decide +kernel

/-- The product of row 0 with row 32, which is 1, lies behind the 32 elements of row 0: it is written to the first element of row 1. -/
theorem wideMultiply_spills : seenAfter (fun t => mget t.team.accs 32) (exec (.mmaCompletion wideMultiply.id) wideMultiplyState) = some 0x3F800000 := by decide +kernel

/-- Refutes O45: the statement bounds neither row count of a multiply by the 32 rows of a tile (R27, R28). With 33 columns the last product of row 0 takes the place of the
element [1][0], which lies outside m × n and, by the statement, keeps its value 0. -/
theorem not_matrixEffects : ¬ Obligations.MatrixEffects := by
  intro h
  obtain ⟨-, heffects⟩ := h wideMultiplyState wideMultiply 0 0 0 0 [] 0 (fun x hx => nomatch hx)
  obtain ⟨-, -, -, -, -, hmultiply, -⟩ := heffects wideMultiply_next rfl (by decide) rfl
  obtain ⟨hends, -⟩ := hmultiply 0 0 false ⟨1, 33, 0, 15, 15⟩ [(0, none)] [] rfl
  obtain ⟨t, ⟨ht, -, -⟩, -, -, helem⟩ := hends rfl rfl
  have hkept : mget t.team.accs 32 = 0 := helem 1 0 (by decide) (by decide)
  have hspilt := seenAfter_next (fun t => mget t.team.accs 32) ht
  rw [wideMultiply_spills, hkept] at hspilt
  exact nomatch hspilt

end Sys2Proof.Machine
